-- ==== Sys2Proof/Word.lean ====
section
/-! DEFINITION. The words of the part: what the spec treats as bits, and nothing else. -/

namespace Sys2Proof

/-- A word of the local bus, 32 bits (introduction, "Numbers"). -/
abbrev Word := BitVec 32

/-- A station number, 0 to 31 (introduction, "Numbering"). -/
abbrev Station := BitVec 5

/-- A stream label, 1 to 4095; 0 is not a label (introduction, "Numbering"). -/
abbrev Label := BitVec 12

/-- A priority, 0 to 3, 3 highest (introduction, "Numbering"). -/
abbrev Priority := BitVec 2

/-- A stamp: cycle number in bits 23:8, frame index in bits 7:0 (R196). -/
abbrev Stamp := BitVec 24

/-- The bits of an ordinary header as received, the first bit sent in the most significant place
(R195). A census header uses the first five of them. -/
abbrev HeaderBits := BitVec 103

/-- The bits of a cell as received, the first bit sent in the most significant place (R195). -/
abbrev CellBits := BitVec 64

/-- The bits of a census cell as received, the first bit sent in the most significant place (R195). -/
abbrev CensusBits := BitVec 226

/-- The two halves of a header bit as received: was the line driven in the first half, was it driven
in the second (R11, R195). -/
abbrev Halves := Bool × Bool

end Sys2Proof
end

