-- ==== Sys2Proof/Syntax.lean ====
section
/-! DEFINITION. The commands of the part: one constructor for each row of spec/opcode_table.json. -/

namespace Sys2Proof

/-- A header as it arrives at this station (R11). -/
inductive HeaderRx where
  /-- No bit of it was corrupt: its bits. -/
  | intact (bits : HeaderBits)
  /-- Some bit was corrupt, or it was cut short: of its fields nothing is passed inward. `arb` holds
  the halves of the arbitration part (present, priority, inverted station) that this station read,
  as many as it read (R12, R13). -/
  | damaged (arb : List Halves)
  deriving DecidableEq, Repr

/-- The commands. An arrival carries no place: it is the arrival the frame in progress brings next
(log 1). The end of a bus transaction carries no stream: it is the transaction that the master port
serves (R183, log 15). -/
inductive Instr where
  /-- POWER_ON: power is applied (R95). -/
  | powerOn
  /-- RSTN: the RSTn pin is driven low (R182). -/
  | rstn
  /-- START: STATION CONTROL written with START set, LEAVE and RESET clear (R184). -/
  | start
  /-- LEAVE: STATION CONTROL written with LEAVE set, START and RESET clear (R184). -/
  | leave
  /-- RESET: STATION CONTROL written with RESET set, and with these START and LEAVE bits (R184). -/
  | reset (startBit leaveBit : Bool)
  /-- OPEN: COMMAND written with code OPEN and this stream number (R188). -/
  | openCmd (stream : BitVec 4)
  /-- CLOSE: COMMAND written with code CLOSE and this stream number (R189). -/
  | closeCmd (stream : BitVec 4)
  /-- STANDING: COMMAND written with code STANDING; the stream number is not read (R190). -/
  | standingCmd (stream : BitVec 4)
  /-- PROFILE_ADDRESS_WRITE: a word written to PROFILE ADDRESS (R185). -/
  | profileAddressWrite (value : Word)
  /-- EVENTS_WRITE: a word written to EVENTS (R191). -/
  | eventsWrite (value : Word)
  /-- STREAM_EVENTS_WRITE: a word written to STREAM EVENTS (R191). -/
  | streamEventsWrite (value : Word)
  /-- EVENT_ENABLE_WRITE: a word written to EVENT ENABLE (R191). -/
  | eventEnableWrite (value : Word)
  /-- STREAM_EVENT_ENABLE_WRITE: a word written to STREAM EVENT ENABLE (R191). -/
  | streamEventEnableWrite (value : Word)
  /-- REGISTER_WRITE: a write of `bytes` bytes at an offset of the register window (R182). -/
  | registerWrite (offset : BitVec 12) (bytes : Nat) (value : Word)
  /-- ENTRY_CAPTURE: a read of the word at an offset of the register window (R182, R192). -/
  | entryCapture (offset : BitVec 12)
  /-- CUE_EDGE: a rising edge on a CUEIN pin (R172). -/
  | cueEdge (pin : BitVec 2)
  /-- CUEOUT_PULSE_END: the pulse on a CUEOUT pin ends (R173). -/
  | cueoutPulseEnd (line : BitVec 2)
  /-- QUIET_WAIT_EXPIRY: the quiet wait runs out (R3). -/
  | quietWaitExpiry
  /-- FRAME_TIMER_EXPIRY: the frame timer runs out (R2). -/
  | frameTimerExpiry
  /-- FRAME_START: the first TSYNC edge of a frame; `mark` when the line is still driven 4 TCLK
  periods later (R4). `arb`: what this station had read of the arbitration part of a header that
  the edge cuts short (R9, R13). -/
  | frameStart (mark : Bool) (arb : List Halves)
  /-- BOOTSTRAP: the plain frame start that brings the bootstrap count to 512 (R8). -/
  | bootstrap (arb : List Halves)
  /-- HEADER_ARRIVAL: an intact header, ordinary or census (R37). -/
  | headerArrival (bits : HeaderBits)
  /-- WIN_RECORD_EXPIRY: a header arrival at which the age of a win record would reach 31 (R108). -/
  | winRecordExpiry (header : HeaderRx)
  /-- DAMAGED_HEADER: a damaged header (R62). -/
  | damagedHeader (arb : List Halves)
  /-- DAMAGE_LIMIT: the damaged header that brings the damage count to 5 (R71). -/
  | damageLimit (arb : List Halves)
  /-- CELL_ARRIVAL: the contents of the next slot (R15). -/
  | cellArrival (bits : CellBits)
  /-- READBACK_COLLISION: the cell arrival whose readback is the second damaged one in a row (R32). -/
  | readbackCollision (bits : CellBits)
  /-- CENSUS_CELL_ARRIVAL: the contents of the next census cell (R18). -/
  | censusCellArrival (bits : CensusBits)
  /-- JOIN_ATTEMPTS_LIMIT: the arrival of census cell 31 at which the join attempts reach 3 (R98). -/
  | joinAttemptsLimit (bits : CensusBits)
  /-- CENSUS_READBACK_LIMIT: the arrival of census cell 31 at which the census readback run reaches
  2 (R72). -/
  | censusReadbackLimit (bits : CensusBits)
  /-- PROFILE_READ_DONE: a profile read ends with these words (R185). -/
  | profileReadDone (words : List Word)
  /-- PROFILE_FAULT: a bus error on a profile read (R185). -/
  | profileFault
  /-- SEND_DESCRIPTOR_READ: a read of a send descriptor's first or second word ends (R143). -/
  | sendDescriptorRead (word : Word)
  /-- SEND_BUFFER_READ: a read of send buffer words ends (R143). -/
  | sendBufferRead (words : List Word)
  /-- SEND_HAND_BACK: the write of a send descriptor's first word ends (R149). -/
  | sendHandBack
  /-- SEND_BUS_ERROR: a bus error on a send stream's transaction (R153). -/
  | sendBusError
  /-- LISTEN_DESCRIPTOR_READ: a read of a receive descriptor's first or second word ends (R157). -/
  | listenDescriptorRead (word : Word)
  /-- LISTEN_WORD_WRITE: a write of placed words ends (R167). -/
  | listenWordWrite
  /-- LISTEN_HAND_BACK: the write of a receive descriptor's first word ends (R167). -/
  | listenHandBack
  /-- LISTEN_BUS_ERROR: a bus error on a listen stream's transaction (R169). -/
  | listenBusError
  /-- RSTN_RISE: the RSTn pin rises (R182). -/
  | rstnRise
  /-- COMMAND_CODE_UNKNOWN: COMMAND written with a code that is none of 1 to 3 (R187). -/
  | commandCodeUnknown (code : BitVec 4) (stream : BitVec 4)
  /-- SEND_STATUS_WRITE: the write of a send descriptor's third and fourth words ends (R149). -/
  | sendStatusWrite
  /-- LISTEN_STATUS_WRITE: the write of a receive descriptor's third and fourth words ends (R167). -/
  | listenStatusWrite
  deriving DecidableEq, Repr

end Sys2Proof
end

