-- ==== Sys2Proof/Config.lean ====
section
/-! DEFINITION. What is fixed for the part, and the values the model leaves free. -/

namespace Sys2Proof.Config

/-- Vendor code in IDENT (R181, R199). -/
abbrev vendorCode : BitVec 16 := 0x5744#16
/-- Part code in IDENT (R181, R199). -/
abbrev partCode : BitVec 16 := 0x0330#16

/-- Frame starts without a census mark that make a station keep the census itself (R8). -/
abbrev bootstrapLimit : Nat := 512
/-- Damaged headers in one cycle that end membership (R71). -/
abbrev damageLimit : Nat := 5
/-- Damaged own readbacks in ANNOUNCING that refuse the station (R98). -/
abbrev joinLimit : Nat := 3
/-- Consecutive damaged own census readbacks that end membership (R72). -/
abbrev censusRunLimit : Nat := 2
/-- Consecutive damaged readbacks in one slot that are a collision (R32). -/
abbrev collisionLimit : Nat := 2
/-- Entries a station may hold or have pending (R24). -/
abbrev holdingLimit : Nat := 8
/-- Candidates of an UNSURE entry, at most (R19). -/
abbrev candidateLimit : Nat := 3
/-- Entries of the open queue, at most (R104). -/
abbrev openQueueLimit : Nat := 8
/-- Records of the win list at which no bid is made (R109). -/
abbrev winLimit : Nat := 4
/-- The age a win record never reaches (R108). -/
abbrev winAge : Nat := 31
/-- Words of a staging queue, at most (R143). -/
abbrev stagingLimit : Nat := 8
/-- Placed words of a write queue, at most (R167). -/
abbrev writeQueueLimit : Nat := 32
/-- Declarations of a census cell, at most (R79). -/
abbrev declarationLimit : Nat := 8
/-- Payload slots of an ordinary frame. -/
abbrev slotCount : Nat := 24
/-- Census cells of a census frame. -/
abbrev censusCellCount : Nat := 32

/-- FREE VALUE. The low 32 bits of the part's count of TCLK periods from power-on, at a load
completion (R80). The model counts no TCLK period, so nothing is known of it (log 4). -/
opaque tclkCount : Nat → Word

/-- FREE VALUE. Whether a STANDING command taken at a census header arrival is taken before the
census cell is composed (R93 leaves the order open, log 7). -/
opaque standingFirst : Nat → Bool

end Sys2Proof.Config
end

