-- ==== Sys2Proof/Machine/State.lean ====
section
/-! DEFINITION. The state of the part, as plain data, and its values after power-on and RESET. -/

namespace Sys2Proof.Machine

/-! ### Faults and refusals -/

/-- Reasons the machine could stop with. There is none: every event the spec describes leads to a
next state (bus errors R153, R169, R185; damage R62; refusal R102). Nobody raises a fault; safe. -/
inductive Fault where
  deriving DecidableEq, Repr

/-- Reasons a command could have no meaning. -/
inductive Refusal where
  /-- A command whose meaning has not been written. No meaning answers with it; safe. -/
  | notModelled (mnemonic : String)
  deriving DecidableEq, Repr

/-! ### Membership and census -/

/-- The eight membership states (R95 to R102). -/
inductive Membership where
  | offline | loading | listening | announcing | member | leaving | lost | refused
  deriving DecidableEq, Repr

/-- The refusal reason of STATION STATUS (R182). -/
inductive RefusalReason where
  | none | profile | profileFault | duplicate
  deriving DecidableEq, Repr

/-- The profile fault of STATION STATUS (R186). -/
inductive ProfileFault where
  | none | format | count | check | station | label | width | ringBase | sendLabel
  deriving DecidableEq, Repr

/-- The states of a peer-table entry (R84). -/
inductive PeerState where
  | unheard | present | missing | absent
  deriving DecidableEq, Repr

/-- A peer-table entry (R94). -/
structure Peer where
  state : PeerState
  /-- 0 to 2. -/
  unheard : Nat
  lastHeard : Option (BitVec 16)
  standing : Option Word
  deriving DecidableEq, Repr

/-! ### The slot map -/

/-- A holder, a bidder or a candidate: a station with the label and the priority under which it
holds or claims the slot (R19). -/
structure Claimant where
  station : Station
  label : Label
  priority : Priority
  deriving DecidableEq, Repr

/-- A pending claim (R19). -/
structure PendingClaim where
  bidder : Claimant
  bidFrame : Stamp
  deriving DecidableEq, Repr

/-- A slot-map entry: each state with the fields it carries, and no others (R19). -/
inductive Entry where
  | unknown
  | free
  /-- `damage` is the readback damage count where the holder is this station. The spec gives a
  peer's entry no such field; here it is 0 there and nothing reads it. -/
  | held (holder : Claimant) (damage : Nat)
  | claimPending (claim : PendingClaim) (prior : Option Claimant)
  | releasePending (holder : Claimant)
  | unsure (candidates : List Claimant)
  deriving DecidableEq, Repr

/-- A slot: its entry, and whether it is in the release intent (R46). -/
structure Slot where
  entry : Entry
  intent : Bool
  deriving DecidableEq, Repr

/-! ### Trunk formats, as fields -/

/-- A bid as a header carries it (R12, R115). The target slot has five bits: it may be above 23. -/
structure Bid where
  priority : Priority
  station : Station
  preempt : Bool
  slot : BitVec 5
  label : Label
  deriving DecidableEq, Repr

/-- The fields of a header (R10). Bit i of CUE is line i, bit s of the others is slot s. -/
structure Header where
  veto : Bool
  cue : BitVec 4
  valid : BitVec 24
  stall : BitVec 24
  release : BitVec 24
  bid : Option Bid
  deriving DecidableEq, Repr

/-- The fields of a cell (R14). -/
structure Cell where
  owner : Station
  priority : Priority
  label : Label
  sequence : BitVec 4
  mark : Bool
  word : Word
  deriving DecidableEq, Repr

/-- A declaration of a census cell (R17). -/
structure Declaration where
  slot : BitVec 5
  label : Label
  priority : Priority
  deriving DecidableEq, Repr

/-- The fields of a census cell (R17). -/
structure CensusCell where
  echo : Station
  cycle : BitVec 16
  present : Bool
  word : Word
  heldCount : BitVec 4
  declarations : Vector Declaration 8
  deriving DecidableEq, Repr

/-- A cell arrival (R15). -/
inductive CellRx where
  | silent | damaged
  | intact (cell : Cell)
  deriving DecidableEq, Repr

/-- A census cell arrival (R18). -/
inductive CensusRx where
  | silent | damaged
  | intact (cell : CensusCell)
  deriving DecidableEq, Repr

/-! ### The trunk interface -/

/-- The frame timer (R2, R3): stopped, running the quiet wait, running for an ordinary or a census
frame, or run out with this station's own edge driven. -/
inductive Timer where
  | stopped | quietWait | ordinary | census | expired
  deriving DecidableEq, Repr

/-- What this station drives on TSYNC (R4). -/
inductive Tsync where
  | undriven | plain | mark
  deriving DecidableEq, Repr

/-- The header of the frame in progress: still to arrive, arrived damaged, or arrived intact with
these VALID bits (R15 needs them). -/
inductive HeaderStatus where
  | due | damaged
  | intact (valid : BitVec 24)
  deriving DecidableEq, Repr

/-- The frame in progress: which arrivals it has brought (R9). -/
structure Frame where
  /-- A census frame, else an ordinary frame. -/
  census : Bool
  /-- It opened by a census slip or a missed census mark while MEMBER or LEAVING: its header is
  treated as damaged (R5, R6) and the station drives less in it (R7). -/
  unexpected : Bool
  header : HeaderStatus
  /-- Cells, or census cells, that have arrived. -/
  arrived : Nat
  /-- The census cells that have arrived, census cell 0 first. -/
  heard : List CensusRx
  /-- The readback of this station's own census cell, once it has come (R18). -/
  ownReadback : Option Bool
  deriving DecidableEq, Repr

/-- What this station drives on TDAT in the frame in progress (R10, R14, R17). -/
structure Drive where
  /-- The fields it drives; `bid` is the bid with which it enters the arbitration. -/
  header : Header
  /-- Of the BID field, the bits it has driven, in send order, once the header has arrived: it stops
  where it reads back something else (R12). -/
  bidBits : List Bool
  cells : Vector (Option Cell) 24
  census : Option CensusCell
  deriving DecidableEq, Repr

/-! ### Streams -/

inductive Direction where
  | send | listen
  deriving DecidableEq, Repr

inductive StreamClass where
  | paced | lossy
  deriving DecidableEq, Repr

inductive StartMode where
  | wait | preempt
  deriving DecidableEq, Repr

inductive CueMode where
  | start | startStop
  deriving DecidableEq, Repr

/-- A cue binding (R120). -/
structure CueBinding where
  line : BitVec 2
  mode : CueMode
  deriving DecidableEq, Repr

/-- A stream definition (R120). -/
structure StreamDef where
  direction : Direction
  label : Label
  /-- 1, 2 or 4 for a SEND stream; not acted on for a LISTEN stream. -/
  width : Nat
  cls : StreamClass
  priority : Priority
  startMode : StartMode
  cue : Option CueBinding
  ringBase : Word
  deriving DecidableEq, Repr

/-- The states of send and listen streams; CLOSED and ARMED belong to both (R121, R134). -/
inductive StreamState where
  | closed | claiming | armed | running | repairing | suspended | closing | seeking | tuned
  deriving DecidableEq, Repr

/-- Close reasons (R133). -/
inductive CloseReason where
  | none | host | lost | leave | labelClash | busFault
  deriving DecidableEq, Repr

/-- A cue action of a listen stream that waits for the next frame start (R179). -/
inductive CueAction where
  | start | stop | release | consume
  deriving DecidableEq, Repr

/-- The bus transactions of a ring engine (R143, R167), with the number of words where it varies. -/
inductive BusKind where
  | firstWord
  /-- The second word of descriptor `index`, whose first word was read as `first`. -/
  | secondWord (index : BitVec 8) (first : Word)
  | bufferRead (words : Nat)
  | wordWrite (words : Nat)
  | statusWrite | handBack
  deriving DecidableEq, Repr

/-- A stream's outstanding bus operation: its first address, and whether a closure has made its data
of no account (R151, R168). -/
structure BusOp where
  kind : BusKind
  address : Word
  discard : Bool
  deriving DecidableEq, Repr

/-- A send descriptor the part has taken (R139), and what has become of its words. -/
structure TxDesc where
  index : BitVec 8
  wrap : Bool
  blockStart : Bool
  wait : Bool
  notify : Bool
  keep : Bool
  count : Nat
  address : Word
  /-- Buffer words appended to the staging queue. -/
  fetched : Nat
  /-- Words driven. -/
  sent : Nat
  /-- Words driven or discarded. -/
  gone : Nat
  discarded : Bool
  /-- A WAIT descriptor has been released (R147). -/
  released : Bool
  /-- The frame at whose frame start its last driven or discarded word left. -/
  lastStamp : Stamp
  deriving DecidableEq, Repr

/-- A finished send descriptor awaiting hand-back (R140, R149). -/
structure TxDone where
  desc : TxDesc
  stamp : Stamp
  truncated : Bool
  empty : Bool
  busFault : Bool
  /-- Its third and fourth words have been written. -/
  statusDone : Bool
  deriving DecidableEq, Repr

/-- A word of the staging queue, with its descriptor and whether it is that descriptor's first word
(R143). -/
structure Staged where
  word : Word
  index : BitVec 8
  first : Bool
  deriving DecidableEq, Repr

/-- A receive descriptor the part has taken (R155), and what has been placed in it (R156). -/
structure RxDesc where
  index : BitVec 8
  wrap : Bool
  wait : Bool
  notify : Bool
  capacity : Nat
  address : Word
  count : Nat
  stamp : Stamp
  source : Station
  blockStart : Bool
  gap : Bool
  damage : Bool
  /-- A WAIT descriptor has been released (R165). -/
  released : Bool
  deriving DecidableEq, Repr

/-- A finished receive descriptor awaiting hand-back (R156). -/
structure RxDone where
  desc : RxDesc
  blockEnd : Bool
  truncated : Bool
  cueStop : Bool
  busFault : Bool
  /-- Its third and fourth words have been written. -/
  statusDone : Bool
  deriving DecidableEq, Repr

/-- An entry of a write queue (R167). -/
inductive WriteItem where
  | word (index : BitVec 8) (address : Word) (data : Word)
  | done (d : RxDone)
  deriving DecidableEq, Repr

/-- A defined stream: its definition, its runtime record (R121) and its ring engine. -/
structure Stream where
  defn : StreamDef
  state : StreamState
  ringIndex : BitVec 8
  /-- A send stream's next sequence (R127). -/
  nextSeq : BitVec 4
  awaiting : Bool
  everFull : Bool
  stalled : Bool
  starved : Bool
  /-- The cue latch, which the CUE_LATCHED flag shows (R177). -/
  latched : Bool
  cueMiss : Bool
  overrunSeen : Bool
  closeReason : CloseReason
  /-- The stream's bit of STREAM EVENTS (R191). -/
  event : Bool
  /-- The stall-run attribute (R129). -/
  stallRun : Bool
  /-- The pending CUE_MISS mark (R149, R167). -/
  cueMissMark : Bool
  /-- The pending overrun mark (R162). -/
  overrunMark : Bool
  /-- A listen stream's cue action that waits for its frame start (R179). -/
  cueAction : Option CueAction
  /-- The slots chosen for the words of the next frame, lowest first (R124). -/
  chosen : List (Fin 24)
  /-- The discards planned for the next frame (R126). -/
  discards : Nat
  /-- The index of the next descriptor to be read (R142, R157). -/
  fetchPos : BitVec 8
  /-- A first word read as PART, whose second word is still to be read (R143, R157). -/
  reading : Option Word
  /-- The walk is stopped at a ring end (R144, R158). -/
  ringEnd : Bool
  /-- A header has asked for the ring end to be read again (R144, R158). -/
  poll : Bool
  /-- A failed write ended the engine's work until the next OPEN (R153, R169). -/
  dead : Bool
  /-- The outstanding bus operation (R143, R167). -/
  op : Option BusOp
  /-- The held descriptors of a send ring that are not in the write-back queue, the head first
  (R142). -/
  held : List TxDesc
  staging : List Staged
  writeBack : List TxDone
  /-- The current and the next descriptor of a listen ring (R157). -/
  current : Option RxDesc
  next : Option RxDesc
  writeQueue : List WriteItem
  /-- A listen stream's expectation (R159). -/
  expectation : Option (BitVec 4)
  deriving DecidableEq, Repr

/-- A chosen bid (R107). -/
structure ChosenBid where
  stream : Fin 16
  bid : Bid
  deriving DecidableEq, Repr

/-! ### The station control port -/

inductive CommandCode where
  | openStream | closeStream | setStanding
  deriving DecidableEq, Repr

/-- A pending command (R187). -/
structure Command where
  code : CommandCode
  stream : BitVec 4
  deriving DecidableEq, Repr

/-- The last result of COMMAND STATUS (R187). -/
inductive CommandResult where
  | none | done | queueFull | badStream | wrongState | notMember
  deriving DecidableEq, Repr

/-- The nine stored EVENTS bits, in the order of R199. -/
inductive StationEvent where
  | joined | refused | lost | left | censusRepair | peerChange | cycleAdjust | cueMerged
  | commandDone
  deriving DecidableEq, Repr

/-- An entry capture: the offset of the entry's first word, and its words (R192). -/
structure Capture where
  base : Nat
  words : List Word
  deriving DecidableEq, Repr

/-! ### The state -/

/-- The state of the part, and the queue of the commands that wait. -/
structure State where
  /-- The commands that wait, the front first (the model's own). -/
  pending : List Instr
  /-- The counter that free values are applied to (the model's own). -/
  free : Nat
  rstnLow : Bool
  tsync : Tsync
  /-- CUEOUT pins, bit c for CUEOUTc (R173). -/
  cueOut : BitVec 4
  drive : Drive
  timer : Timer
  aligned : Bool
  index : BitVec 8
  bootstrap : Nat
  frame : Option Frame
  slots : Vector Slot 24
  vetoOwed : Bool
  membership : Membership
  refusalReason : RefusalReason
  profileFault : ProfileFault
  faultStream : BitVec 4
  number : Station
  cycle : BitVec 16
  damageCount : Nat
  joinAttempts : Nat
  censusRun : Nat
  joinWord : Word
  standing : Option Word
  peers : Vector Peer 32
  openQueue : List (Fin 16)
  /-- The win list: the age of each record, in headers (R108). -/
  wins : List Nat
  chosenBid : Option ChosenBid
  /-- The bid driven in the header that is arriving (R117, R130). -/
  bidDriven : Option ChosenBid
  streams : Vector (Option Stream) 16
  /-- Pending-edge flags, bit c for trunk line c (R172). -/
  cuePending : BitVec 4
  /-- The forwarding of each CUEIN pin (R198). -/
  cueForward : Vector (Option (BitVec 2)) 4
  profileAddress : Word
  /-- The profile words read so far, in order (R185). -/
  fetched : List Word
  /-- The stream whose transaction the master port serves (R183). -/
  portServing : Option (Fin 16)
  /-- The stream the master port served last (R183). -/
  portLast : Fin 16
  /-- The pending command; BUSY reads whether there is one (R187). -/
  command : Option Command
  rejected : Bool
  lastResult : CommandResult
  commandArgument : Word
  /-- The stored EVENTS bits, 0 to 8 (R191, R199). -/
  events : BitVec 9
  eventEnable : BitVec 10
  streamEventEnable : BitVec 16
  capture : Option Capture
  /-- The word the slave port returned last (the model's own). -/
  readData : Word
  /-- What the bus write that ended last put into host memory (the model's own). -/
  hostWrite : List (Word × Word)
  deriving DecidableEq, Repr

/-- Nothing driven in a header. -/
def Header.blank : Header :=
  ⟨false, 0, 0, 0, 0, none⟩

/-- Nothing driven on TDAT. -/
def Drive.nothing : Drive :=
  ⟨Header.blank, [], Vector.replicate 24 none, none⟩

/-- A peer-table entry never heard (R94). -/
def Peer.never : Peer := ⟨.unheard, 0, none, none⟩

/-- A slot of which nothing is known (R35, R46). -/
def Slot.reset : Slot := ⟨.unknown, false⟩

/-- The station after power-on, with an empty queue (R193 and the rules named in INVENTORY.md). The
values the spec does not give are those of log 6. -/
def State.reset : State where
  pending := []
  free := 0
  rstnLow := false
  tsync := .undriven
  cueOut := 0
  drive := Drive.nothing
  timer := .stopped
  aligned := false
  index := 0
  bootstrap := 0
  frame := none
  slots := Vector.replicate 24 Slot.reset
  vetoOwed := false
  membership := .offline
  refusalReason := .none
  profileFault := .none
  faultStream := 0
  number := 0
  cycle := 0
  damageCount := 0
  joinAttempts := 0
  censusRun := 0
  joinWord := 0
  standing := none
  peers := Vector.replicate 32 Peer.never
  openQueue := []
  wins := []
  chosenBid := none
  bidDriven := none
  streams := Vector.replicate 16 none
  cuePending := 0
  cueForward := Vector.replicate 4 none
  profileAddress := 0
  fetched := []
  portServing := none
  portLast := 15
  command := none
  rejected := false
  lastResult := .none
  commandArgument := 0
  events := 0
  eventEnable := 0
  streamEventEnable := 0
  capture := none
  readData := 0
  hostWrite := []

end Sys2Proof.Machine
end

