-- ==== Sys2Proof/Machine/Operands.lean ====
section
/-! DEFINITION. The operand forms: trunk formats (R195), stamps (R196), descriptors (R197), the
profile (R198), and how an arrival is classed from its bits (R15, R18). -/

namespace Sys2Proof.Machine

/-! ### Fields in send order -/

/-- `len` bits of a trunk format, from bit sent `first` on, most significant bit first (R195). -/
def fieldAt {n : Nat} (w : BitVec n) (first len : Nat) : BitVec len :=
  w.extractLsb' (n - (first + len)) len

/-- A field indexed by line or slot, sent from index 0 upward (R195): bit i is index i. -/
def flagsAt {n : Nat} (w : BitVec n) (first len : Nat) : BitVec len :=
  (fieldAt w first len).reverse

/-- The bit sent `i`-th. -/
def bitAt {n : Nat} (w : BitVec n) (i : Nat) : Bool := w.getMsbD i

/-- The bits of a format in the order they are sent. -/
def sendOrder {n : Nat} (w : BitVec n) : List Bool :=
  (List.range n).map fun i => w.getMsbD i

/-- One step of a check register: one input bit (R195). -/
def crcStep {k : Nat} (generator register : BitVec k) (bit : Bool) : BitVec k :=
  if register.msb != bit then (register <<< 1) ^^^ generator else register <<< 1

/-- A check over bits in send order: the register starts at all ones, with no inversion at the end
(R195). -/
def crc {k : Nat} (generator : BitVec k) (bits : List Bool) : BitVec k :=
  bits.foldl (crcStep generator) (BitVec.allOnes k)

/-- The cell's check: x^8 + x^2 + x + 1 (R195). -/
def cellCheck (payload : BitVec 56) : BitVec 8 := crc 0x07#8 (sendOrder payload)

/-- The census cell's check: x^16 + x^12 + x^5 + 1 (R195). -/
def censusCheck (payload : BitVec 210) : BitVec 16 := crc 0x1021#16 (sendOrder payload)

/-! ### Headers -/

/-- The BID field of a header: none when the present bit arrived 0 (R12, R40). -/
def parseBid (w : HeaderBits) : Option Bid :=
  if bitAt w 77 then
    some { priority := fieldAt w 78 2, station := ~~~ (fieldAt w 80 5), preempt := bitAt w 85,
           slot := fieldAt w 86 5, label := fieldAt w 91 12 }
  else none

/-- The fields of an ordinary header (R195). -/
def parseHeader (w : HeaderBits) : Header :=
  { veto := bitAt w 0, cue := flagsAt w 1 4, valid := flagsAt w 5 24, stall := flagsAt w 29 24,
    release := flagsAt w 53 24, bid := parseBid w }

/-- The fields of a census header: VETO and CUE only (R10, R195). -/
def parseCensusHeader (w : HeaderBits) : Header :=
  { Header.blank with veto := bitAt w 0, cue := flagsAt w 1 4 }

/-- The 26 bits of the BID field as the winner drives it; all 0 where no station bids (R12). -/
def encodeBid : Option Bid → BitVec 26
  | none => 0
  | some b => (1#1 ++ b.priority ++ ~~~ b.station ++ BitVec.ofBool b.preempt ++ b.slot ++ b.label
      : BitVec (1 + 2 + 5 + 1 + 5 + 12))

/-- The bits of an ordinary header in send order (R195). -/
def encodeHeader (h : Header) : HeaderBits :=
  (BitVec.ofBool h.veto ++ h.cue.reverse ++ h.valid.reverse ++ h.stall.reverse ++ h.release.reverse
    ++ encodeBid h.bid : BitVec (1 + 4 + 24 + 24 + 24 + 26))

/-- The five bits of a census header in send order (R10, R195). -/
def encodeCensusHeader (h : Header) : BitVec 5 :=
  (BitVec.ofBool h.veto ++ h.cue.reverse : BitVec (1 + 4))

/-- A header bit from its halves: none is a corrupt bit (R11, R195). -/
def bitOfHalves : Halves → Option Bool
  | (false, false) => some false
  | (true, false) => some true
  | (_, true) => none

/-- The halves in which a header bit is sent (R11, R195). -/
def halvesOf (b : Bool) : Halves := (b, false)

/-- A half header bit as the open-drain line carries what two stations drive into it (R11). -/
def wiredOr (a b : Halves) : Halves := (a.1 || b.1, a.2 || b.2)

/-- The halves in which a header is sent, in send order (R195). -/
def sendHeader {n : Nat} (w : BitVec n) : List Halves := (sendOrder w).map halvesOf

/-- Header bits in send order, the first in the most significant place; those not sent are 0. -/
def headerBits (bits : List Bool) : HeaderBits :=
  BitVec.ofFnLE fun i : Fin 103 => bits.getD (102 - i.val) false

/-- The bits of a header of an ordinary or a census frame (R10, R195). -/
def headerLength (census : Bool) : Nat := if census then 5 else 103

/-- How a header arrives from the halves a station received: intact when the whole of it came and no
bit of it is corrupt, else damaged, with what was read of the arbitration part (R9, R11, R13). The
commands of a header arrival carry its answer. -/
def receiveHeader (census : Bool) (halves : List Halves) : HeaderRx :=
  match (halves.take (headerLength census)).mapM bitOfHalves with
  | some bits =>
    if headerLength census ≤ halves.length then .intact (headerBits bits)
    else .damaged ((halves.drop 77).take 8)
  | none => .damaged ((halves.drop 77).take 8)

/-- The arbitration part a bidder drives: the present bit, the priority, the inverted station
number, most significant bits first (R12). -/
def arbitrationPart (b : Bid) : List Bool :=
  sendOrder (1#1 ++ b.priority ++ ~~~ b.station : BitVec (1 + 2 + 5))

/-- The arbitration part of an intact header, bits sent 77 to 84, as read by every station. -/
def arbitrationRead (w : HeaderBits) : List (Option Bool) :=
  (sendOrder (fieldAt w 77 8)).map some

/-- A bidder that read back every arbitration bit as it drove it has won the header (R12, R13). -/
def droveThrough (read : List (Option Bool)) (b : Bid) : Bool :=
  read == (arbitrationPart b).map some

/-- The content part, which only the winner drives: preempt flag, target slot and label (R12). -/
def contentPart (b : Bid) : List Bool :=
  sendOrder (BitVec.ofBool b.preempt ++ b.slot ++ b.label : BitVec (1 + 5 + 12))

/-- The bits a bidder drives of those it has to drive, when it reads back `read`: it stops at the
first that it reads back otherwise (R12). -/
def driveUntilStopped : List Bool → List (Option Bool) → List Bool
  | b :: bs, r :: rs => if r = some b then b :: driveUntilStopped bs rs else [b]
  | b :: _, [] => [b]
  | [], _ => []

/-- The bits of the BID field that a bidder drives: the arbitration part until it stops, and the
content part when it has won (R12, R13). -/
def bidBitsDriven (read : List (Option Bool)) (b : Bid) : List Bool :=
  if droveThrough read b then arbitrationPart b ++ contentPart b
  else driveUntilStopped (arbitrationPart b) read

/-! ### Cells -/

/-- A cell less its check, in send order (R195). -/
def cellPayload (c : Cell) : BitVec 56 :=
  (c.owner ++ c.priority ++ c.label ++ c.sequence ++ BitVec.ofBool c.mark ++ c.word
    : BitVec (5 + 2 + 12 + 4 + 1 + 32))

/-- The 64 bits of a cell (R14, R195). -/
def encodeCell (c : Cell) : CellBits :=
  (cellPayload c ++ cellCheck (cellPayload c) : BitVec (56 + 8))

/-- The fields of a received cell (R195). -/
def parseCell (w : CellBits) : Cell :=
  { owner := fieldAt w 0 5, priority := fieldAt w 5 2, label := fieldAt w 7 12,
    sequence := fieldAt w 19 4, mark := bitAt w 23, word := fieldAt w 24 32 }

/-- The cell's check passes (R14). -/
def cellPasses (w : CellBits) : Bool := fieldAt w 56 8 == cellCheck (fieldAt w 0 56)

/-- How a cell arrival is classed: by the VALID bit of its slot in an intact header, or by its
contents alone after a damaged one (R15). -/
def classifyCell (valid : Option Bool) (w : CellBits) : CellRx :=
  match valid with
  | some true => if cellPasses w then .intact (parseCell w) else .damaged
  | some false => if w = 0 then .silent else .damaged
  | none => if w = 0 then .silent else if cellPasses w then .intact (parseCell w) else .damaged

/-! ### Census cells -/

/-- A declaration, 19 bits (R195). -/
def encodeDeclaration (d : Declaration) : BitVec 19 :=
  (d.slot ++ d.label ++ d.priority : BitVec (5 + 12 + 2))

/-- A census cell less its check, in send order (R195). -/
def censusPayload (c : CensusCell) : BitVec 210 :=
  (c.echo ++ c.cycle ++ BitVec.ofBool c.present ++ c.word ++ c.heldCount
    ++ encodeDeclaration c.declarations[0] ++ encodeDeclaration c.declarations[1]
    ++ encodeDeclaration c.declarations[2] ++ encodeDeclaration c.declarations[3]
    ++ encodeDeclaration c.declarations[4] ++ encodeDeclaration c.declarations[5]
    ++ encodeDeclaration c.declarations[6] ++ encodeDeclaration c.declarations[7]
    : BitVec (5 + 16 + 1 + 32 + 4 + 19 + 19 + 19 + 19 + 19 + 19 + 19 + 19))

/-- The 226 bits of a census cell (R17, R195). -/
def encodeCensusCell (c : CensusCell) : CensusBits :=
  (censusPayload c ++ censusCheck (censusPayload c) : BitVec (210 + 16))

/-- Declaration `i` of a received census cell (R195). -/
def parseDeclaration (w : CensusBits) (i : Nat) : Declaration :=
  { slot := fieldAt w (58 + 19 * i) 5, label := fieldAt w (63 + 19 * i) 12,
    priority := fieldAt w (75 + 19 * i) 2 }

/-- The fields of a received census cell (R195). -/
def parseCensusCell (w : CensusBits) : CensusCell :=
  { echo := fieldAt w 0 5, cycle := fieldAt w 5 16, present := bitAt w 21, word := fieldAt w 22 32,
    heldCount := fieldAt w 54 4,
    declarations := Vector.ofFn fun i : Fin 8 => parseDeclaration w i.val }

/-- The census cell's check passes (R17). -/
def censusPasses (w : CensusBits) : Bool := fieldAt w 210 16 == censusCheck (fieldAt w 0 210)

/-- The meaningful declarations of a census cell: the first held-count positions (R17). -/
def CensusCell.meaningful (c : CensusCell) : List Declaration :=
  c.declarations.toList.take c.heldCount.toNat

/-- A declaration names a slot of the trunk and a label (R18). -/
def Declaration.ok (d : Declaration) : Bool := d.slot.toNat < Config.slotCount && d.label != 0

/-- How the arrival of census cell `k` is classed (R18). -/
def classifyCensus (k : Nat) (w : CensusBits) : CensusRx :=
  let c := parseCensusCell w
  if w = 0 then .silent
  else if censusPasses w && c.echo.toNat == k && c.heldCount.toNat ≤ Config.declarationLimit
      && c.meaningful.all Declaration.ok then .intact c
  else .damaged

/-! ### Stamps -/

/-- A stamp: cycle number in bits 23:8, frame index in bits 7:0 (R196). -/
def mkStamp (cycle : BitVec 16) (index : BitVec 8) : Stamp := (cycle ++ index : BitVec (16 + 8))

/-! ### Words of host memory -/

/-- A field of a word at bit `lo` and up. -/
def place {k : Nat} (lo : Nat) (x : BitVec k) : Word := x.setWidth 32 <<< lo

/-- A one-bit field of a word at bit `i`. -/
def placeBit (i : Nat) (b : Bool) : Word := place i (BitVec.ofBool b)

/-- An address with its two lowest bits taken as 0 (R139, R155, R185). -/
def wordAligned (a : Word) : Word := a &&& 0xFFFFFFFC#32

/-- The address of descriptor `n` of a ring (R139, R155). -/
def descriptorAddress (base : Word) (n : BitVec 8) : Word := base + place 4 n

/-- The owner field of a descriptor's first word reads PART (R197). -/
def ownerPart (w : Word) : Bool := w.getLsbD 31

/-- The word count or capacity in a descriptor's first word (R197). -/
def wordCount (w : Word) : Nat := (w.extractLsb' 0 12).toNat

/-- The next index of a walk: 0 after a descriptor with WRAP set or at index 255 (R142, R157). -/
def nextIndex (index : BitVec 8) (wrap : Bool) : BitVec 8 := if wrap then 0 else index + 1

/-- A send descriptor as taken from its first two words (R139, R197). -/
def TxDesc.ofWords (index : BitVec 8) (w0 w1 : Word) : TxDesc :=
  { index := index, wrap := w0.getLsbD 30, blockStart := w0.getLsbD 29, wait := w0.getLsbD 28,
    notify := w0.getLsbD 27, keep := w0.getLsbD 26, count := wordCount w0,
    address := wordAligned w1, fetched := 0, sent := 0, gone := 0, discarded := false,
    released := false, lastStamp := 0 }

/-- The index after a send descriptor. -/
def TxDesc.after (d : TxDesc) : BitVec 8 := nextIndex d.index d.wrap

/-- A receive descriptor as taken from its first two words (R155, R197). -/
def RxDesc.ofWords (index : BitVec 8) (w0 w1 : Word) : RxDesc :=
  { index := index, wrap := w0.getLsbD 30, wait := w0.getLsbD 28, notify := w0.getLsbD 27,
    capacity := wordCount w0, address := wordAligned w1, count := 0, stamp := 0, source := 0,
    blockStart := false, gap := false, damage := false, released := false }

/-- The index after a receive descriptor. -/
def RxDesc.after (d : RxDesc) : BitVec 8 := nextIndex d.index d.wrap

/-- The first word of a send descriptor at hand-back: owner HOST, the rest as read (R140, R197). -/
def TxDone.firstWord (r : TxDone) : Word :=
  placeBit 30 r.desc.wrap ||| placeBit 29 r.desc.blockStart ||| placeBit 28 r.desc.wait
    ||| placeBit 27 r.desc.notify ||| placeBit 26 r.desc.keep
    ||| place 0 (BitVec.ofNat 12 r.desc.count)

/-- The fourth word of a send descriptor at hand-back (R140, R197). -/
def TxDone.statusWord (r : TxDone) (cueMiss : Bool) : Word :=
  place 0 (BitVec.ofNat 12 r.desc.sent) ||| placeBit 16 r.truncated
    ||| placeBit 17 r.desc.discarded ||| placeBit 18 cueMiss ||| placeBit 19 r.empty
    ||| placeBit 20 r.busFault

/-- The first word of a receive descriptor at hand-back: owner HOST, the flags in bits 24:16 and the
word count in place of the capacity (R156, R197). -/
def RxDone.firstWord (r : RxDone) (overrun cueMiss : Bool) : Word :=
  placeBit 30 r.desc.wrap ||| placeBit 28 r.desc.wait ||| placeBit 27 r.desc.notify
    ||| placeBit 16 r.desc.blockStart ||| placeBit 17 r.blockEnd ||| placeBit 18 r.desc.gap
    ||| placeBit 19 r.desc.damage ||| placeBit 20 overrun ||| placeBit 21 r.truncated
    ||| placeBit 22 r.cueStop ||| placeBit 23 cueMiss ||| placeBit 24 r.busFault
    ||| place 0 (BitVec.ofNat 12 r.desc.count)

/-- The third word of a receive descriptor at hand-back: stamp and source station. With a word count
of 0 the stamp is the frame in progress and the source is 0 (R156). -/
def RxDone.thirdWord (r : RxDone) (now : Stamp) : Word :=
  if r.desc.count = 0 then place 0 now else place 0 r.desc.stamp ||| place 24 r.desc.source

/-! ### The profile -/

/-- A code of the profile: which of two values. -/
def choose2 {α : Type} (bit : Bool) (set clear : α) : α := if bit then set else clear

/-- The cue binding in word 1 of a stream record (R198). -/
def parseCueBinding (w : Word) : Option CueBinding :=
  if w.getLsbD 15 then
    some { line := w.extractLsb' 0 2, mode := choose2 (w.getLsbD 8) .startStop .start }
  else none

/-- A stream record (R120, R198). -/
def parseStreamDef (w0 w1 w2 : Word) : StreamDef :=
  { direction := choose2 (w0.getLsbD 31) .listen .send
    cls := choose2 (w0.getLsbD 30) .lossy .paced
    startMode := choose2 (w0.getLsbD 29) .preempt .wait
    priority := w0.extractLsb' 24 2
    width := (w0.extractLsb' 16 4).toNat
    label := w0.extractLsb' 0 12
    cue := parseCueBinding w1
    ringBase := w2 }

/-- The forwarding of CUEIN pin `n` in header word 1 of the profile (R198). -/
def parseForward (w : Word) (n : Fin 4) : Option (BitVec 2) :=
  if w.getLsbD (4 * n.val + 3) then some (w.extractLsb' (4 * n.val) 2) else none

/-- Word `i` of the profile words read. -/
def profileWord (ws : List Word) (i : Nat) : Word := ws.getD i 0

/-- The stream count of the profile (R198). -/
def profileCount (ws : List Word) : Nat := ((profileWord ws 0).extractLsb' 0 8).toNat

/-- The format of the profile (R198). -/
def profileFormat (ws : List Word) : Nat := ((profileWord ws 0).extractLsb' 24 8).toNat

/-- The station number of the profile, as eight bits (R198). -/
def profileStation (ws : List Word) : Nat := ((profileWord ws 0).extractLsb' 16 8).toNat

/-- The definition of stream `n` of the profile (R198). -/
def profileStream (ws : List Word) (n : Nat) : StreamDef :=
  parseStreamDef (profileWord ws (2 + 4 * n)) (profileWord ws (3 + 4 * n))
    (profileWord ws (4 + 4 * n))

/-- The length of the profile in words (R185). -/
def profileLength (ws : List Word) : Nat := 3 + 4 * profileCount ws

end Sys2Proof.Machine
end

