-- ==== Sys2Proof/Machine/Flags.lean ====
section
/-! DEFINITION. EVENTS, STREAM EVENTS, their enables and the interrupt (R191, R199). -/

namespace Sys2Proof.Machine

/-- The place of an event in EVENTS (R199). -/
def StationEvent.bit : StationEvent → Nat
  | .joined => 0
  | .refused => 1
  | .lost => 2
  | .left => 3
  | .censusRepair => 4
  | .peerChange => 5
  | .cycleAdjust => 6
  | .cueMerged => 7
  | .commandDone => 8

/-- The mask of an event. -/
def StationEvent.mask (e : StationEvent) : BitVec 9 := 1#9 <<< e.bit

/-- An event is raised: its bit is set, or stays set (R191). -/
def State.raise (e : StationEvent) (s : State) : State := { s with events := s.events ||| e.mask }

/-- An event is raised when its cause holds. -/
def State.raiseIf (b : Bool) (e : StationEvent) (s : State) : State := if b then s.raise e else s

/-- STREAM EVENTS: bit n for stream n; a stream that is not defined has none (R191). -/
def State.streamEvents (s : State) : BitVec 16 :=
  BitVec.ofFnLE fun n : Fin 16 => s.streams[n].any (·.event)

/-- EVENTS.STREAM: an enabled bit of STREAM EVENTS is set. It is not stored (R191). -/
def State.streamFlag (s : State) : Bool := s.streamEvents &&& s.streamEventEnable != 0

/-- EVENTS as it reads: STREAM in bit 9 above the stored bits (R191, R199). -/
def State.eventsRead (s : State) : BitVec 10 :=
  (BitVec.ofBool s.streamFlag ++ s.events : BitVec (1 + 9))

/-- IRQn is driven low: an enabled EVENTS bit is set (R191). -/
def State.irqnLow (s : State) : Bool := s.eventsRead &&& s.eventEnable != 0

/-- Writing 1 to bits of EVENTS clears them; STREAM is not stored (R191). -/
def State.clearEvents (v : Word) (s : State) : State :=
  { s with events := s.events &&& ~~~ (v.setWidth 9) }

/-- A stream's STREAM EVENTS bit is set when its cause holds (R191). -/
def Stream.signal (b : Bool) (st : Stream) : Stream := { st with event := st.event || b }

end Sys2Proof.Machine
end

