-- ==== Sys2Proof/Machine/Ops.lean ====
section
/-! DEFINITION. The named operations over the tables, and the views of the slot map (R22 to R26). -/

namespace Sys2Proof.Machine

/-! ### Tables -/

/-- A table with a function applied to each entry. -/
def tabulate {α β : Type} {n : Nat} (f : Fin n → α → β) (v : Vector α n) : Vector β n :=
  Vector.ofFn fun i => f i v[i]

/-- The indices of a table that meet a condition, in ascending order. -/
def indicesWhere {n : Nat} (p : Fin n → Bool) : List (Fin n) := (List.finRange n).filter p

/-- The slots as a mask, bit s for slot s. -/
def slotMask (p : Fin 24 → Bool) : BitVec 24 := BitVec.ofFnLE p

/-- Every defined stream changed by a function of its number. -/
def State.mapStreams (f : Fin 16 → Stream → Stream) (s : State) : State :=
  { s with streams := tabulate (fun n o => o.map (f n)) s.streams }

/-- One stream changed, where it is defined. -/
def State.onStream (n : Fin 16) (f : Stream → Stream) (s : State) : State :=
  { s with streams := s.streams.set n.val (s.streams[n].map f) }

/-- Every slot's entry changed by a function of its number. -/
def mapEntries (f : Fin 24 → Entry → Entry) (slots : Vector Slot 24) : Vector Slot 24 :=
  tabulate (fun i sl => { sl with entry := f i sl.entry }) slots

/-- A peer-table entry. -/
def State.peer (s : State) (k : Station) : Peer := s.peers[k.toNat]'k.isLt

/-- The stamp of the frame in progress (R140, R196). -/
def State.stamp (s : State) : Stamp := mkStamp s.cycle s.index

/-! ### Membership -/

/-- The states that keep the frame timer and take arrivals (R1, R2). -/
def Membership.receives : Membership → Bool
  | .listening | .announcing | .member | .leaving | .lost => true
  | .offline | .loading | .refused => false

/-- The states that judge headers (R21, R37). -/
def Membership.judges : Membership → Bool
  | .announcing | .member | .leaving => true
  | _ => false

/-- The states whose map acts on cells and on census completion (R21). -/
def Membership.maps : Membership → Bool
  | .listening | .announcing | .member | .leaving => true
  | _ => false

/-- The states that drive header fields and cells (R1). -/
def Membership.drives : Membership → Bool
  | .member | .leaving => true
  | _ => false

/-! ### Entries -/

/-- The holder of a HELD entry. -/
def Entry.holder : Entry → Option Claimant
  | .held h _ => some h
  | _ => none

/-- The entry is HELD by a station. -/
def Entry.heldBy (k : Station) : Entry → Bool
  | .held h _ => h.station == k
  | _ => false

/-- The entry is HELD by a station under a label. -/
def Entry.heldUnder (k : Station) (l : Label) : Entry → Bool
  | .held h _ => h.station == k && h.label == l
  | _ => false

/-- A station's record among the candidates of an UNSURE entry. -/
def Entry.candidateOf (k : Station) : Entry → Option Claimant
  | .unsure cs => cs.find? (·.station == k)
  | _ => none

/-- The entry is one a station holds, or may hold, or may hold again: HELD by it, RELEASE_PENDING
with it as holder, CLAIM_PENDING with it as prior holder, or UNSURE with it as a candidate
(R46, R49). -/
def Entry.keepsIntent (k : Station) : Entry → Bool
  | .held h _ => h.station == k
  | .releasePending h => h.station == k
  | .claimPending _ prior => prior.any (·.station == k)
  | .unsure cs => cs.any (·.station == k)
  | .unknown => false
  | .free => false

/-- A station has a part in the entry: as in `keepsIntent`, or as bidder (R101). -/
def Entry.hasPart (k : Station) : Entry → Bool
  | .claimPending c prior => c.bidder.station == k || prior.any (·.station == k)
  | e => e.keepsIntent k

/-- A claimant is a station under a label. -/
def Claimant.is (k : Station) (l : Label) (c : Claimant) : Bool := c.station == k && c.label == l

/-- A station has a part in the entry under a label (R130). -/
def Entry.hasPartUnder (k : Station) (l : Label) : Entry → Bool
  | .held h _ => h.is k l
  | .releasePending h => h.is k l
  | .claimPending c prior => c.bidder.is k l || prior.any (Claimant.is k l)
  | .unsure cs => cs.any (Claimant.is k l)
  | .unknown => false
  | .free => false

/-- The station of a claimant with this label. -/
def Claimant.userOf (l : Label) (c : Claimant) : Option Station :=
  if c.label = l then some c.station else none

/-- The stations that use a label in an entry (R25). -/
def Entry.users (l : Label) : Entry → List Station
  | .held h _ => [h].filterMap (Claimant.userOf l)
  | .releasePending h => [h].filterMap (Claimant.userOf l)
  | .claimPending c prior => (c.bidder :: prior.toList).filterMap (Claimant.userOf l)
  | .unsure cs => cs.filterMap (Claimant.userOf l)
  | .unknown => []
  | .free => []

/-- The state, holder, label and priority of an entry, by which R92 tells a repaired one. An UNSURE
entry shows its state alone, so one that only loses candidates is not repaired (log 44); for a pending
entry, of which a census completion meets none, the whole record stands. -/
def Entry.face : Entry → Entry
  | .held h _ => .held h 0
  | .unsure _ => .unsure []
  | e => e

/-! ### Views of the map -/

/-- The own-holdings view: this station's HELD entries under a label, ascending (R22). -/
def ownHoldings (slots : Vector Slot 24) (k : Station) (l : Label) : List (Fin 24) :=
  indicesWhere fun i => slots[i].entry.heldUnder k l

/-- The label-carriers view: the HELD entries under a label, ascending (R23). -/
def carriers (slots : Vector Slot 24) (l : Label) : List (Fin 24) :=
  indicesWhere fun i => slots[i].entry.holder.any (·.label == l)

/-- The per-station held count (R24). -/
def heldCount (slots : Vector Slot 24) (k : Station) : Nat :=
  (indicesWhere fun i => slots[i].entry.heldBy k).length

/-- The entry counts in a station's holding count: HELD by it, or CLAIM_PENDING with it as bidder
(R24). -/
def Entry.countsFor (k : Station) : Entry → Bool
  | .held h _ => h.station == k
  | .claimPending c _ => c.bidder.station == k
  | _ => false

/-- The per-station holding count (R24). -/
def holdingCount (slots : Vector Slot 24) (k : Station) : Nat :=
  (indicesWhere fun i => slots[i].entry.countsFor k).length

/-- The label-use view: the stations that use a label in this map (R25). -/
def labelUsers (slots : Vector Slot 24) (l : Label) : List Station :=
  slots.toList.flatMap fun sl => sl.entry.users l

/-- A label is used by a station other than this one (R25). -/
def usedByOther (slots : Vector Slot 24) (l : Label) (k : Station) : Bool :=
  (labelUsers slots l).any (· != k)

/-- The own-candidacy view: the UNSURE entries in which this station is a candidate, with its
record, ascending (R26). -/
def ownCandidacy (slots : Vector Slot 24) (k : Station) : List (Fin 24 × Claimant) :=
  (List.finRange 24).filterMap fun i => (slots[i].entry.candidateOf k).map fun c => (i, c)

/-- The own-candidate entries of one label (R122). -/
def candidacyUnder (slots : Vector Slot 24) (k : Station) (l : Label) : List (Fin 24 × Claimant) :=
  (ownCandidacy slots k).filter fun p => p.2.label == l

/-- An entry pends a preemption of this station under a label (R55). -/
def preemptedUnder (slots : Vector Slot 24) (k : Station) (l : Label) : Bool :=
  slots.toList.any fun sl => match sl.entry with
    | .claimPending _ (some h) => h.is k l
    | _ => false

/-- This station has some part in the map (R101). -/
def State.hasPart (s : State) : Bool := s.slots.toList.any fun sl => sl.entry.hasPart s.number

/-! ### Streams -/

/-- An open send stream (R122). -/
def StreamState.openSend : StreamState → Bool
  | .claiming | .armed | .running | .repairing | .suspended => true
  | _ => false

/-- An open listen stream (R134). -/
def StreamState.openListen : StreamState → Bool
  | .armed | .seeking | .tuned => true
  | _ => false

/-- The stream is a send stream. -/
def Stream.isSend (st : Stream) : Bool := st.defn.direction == .send

/-- The stream is open (R173). -/
def Stream.isOpen (st : Stream) : Bool :=
  if st.isSend then st.state.openSend else st.state.openListen

/-- The stream sends words: RUNNING or REPAIRING, not awaiting a cue (R124). -/
def Stream.sending (st : Stream) : Bool :=
  (st.state == .running || st.state == .repairing) && !st.awaiting

/-- A LOSSY stream that keeps its pace by discards: REPAIRING or SUSPENDED, not awaiting a cue
(R126). -/
def Stream.discarding (st : Stream) : Bool :=
  st.defn.cls == .lossy && (st.state == .repairing || st.state == .suspended) && !st.awaiting

/-- A chosen or driven bid is this stream's (R130). -/
def ChosenBid.ofStream (n : Fin 16) (o : Option ChosenBid) : Bool := o.any (·.stream == n)

/-- A send stream has a part in the map (R130). -/
def State.streamHasPart (s : State) (n : Fin 16) (st : Stream) : Bool :=
  s.slots.toList.any (fun sl => sl.entry.hasPartUnder s.number st.defn.label)
    || ChosenBid.ofStream n s.chosenBid || ChosenBid.ofStream n s.bidDriven

/-- Some open send stream of this station carries the label. -/
def openSendCarries (streams : Vector (Option Stream) 16) (l : Label) : Bool :=
  streams.toList.any fun o => o.any fun st =>
    st.isSend && st.state.openSend && st.defn.label == l

/-- A stream in the repair set: a send stream in REPAIRING (R106). -/
def Stream.inRepair (st : Stream) : Bool := st.isSend && st.state == .repairing

/-- The repair set, in ascending order (R106). -/
def State.repairSet (s : State) : List (Fin 16) :=
  indicesWhere fun n => s.streams[n].any Stream.inRepair

end Sys2Proof.Machine
end

