-- ==== Sys2Proof/Machine/SendRing.lean ====
section
/-! DEFINITION. The send ring engine: the walk, ready words, words leaving the queue, hand-back,
closure and bus faults (R139 to R154). -/

namespace Sys2Proof.Machine

/-! ### Ends of descriptors -/

/-- A finished descriptor that joins the write-back queue (R140, R149). -/
def TxDesc.finish (d : TxDesc) (stamp : Stamp) : TxDone := ⟨d, stamp, false, false, false, false⟩

/-- A finished zero-count descriptor (R145). -/
def TxDesc.finishEmpty (d : TxDesc) (stamp : Stamp) : TxDone := ⟨d, stamp, false, true, false, false⟩

/-- Zero-count descriptors at the head finish and join the write-back queue (R145). -/
def Stream.finishEmpties (stamp : Stamp) (st : Stream) : Stream :=
  let zs := st.held.takeWhile (·.count = 0)
  { st with
    held := st.held.dropWhile (·.count = 0)
    writeBack := st.writeBack ++ zs.map (·.finishEmpty stamp)
    ringIndex := zs.foldl (fun _ d => d.after) st.ringIndex }

/-- The flag that a ring end with no staged word sets, and the event at its onset (R144). -/
def Stream.checkStarved (st : Stream) : Stream :=
  if st.ringEnd && st.staging.isEmpty then { st.signal (!st.starved) with starved := true } else st

/-! ### Readiness -/

/-- The head of the walk is a WAIT descriptor that has not been released: the stream stands under a
WAIT hold (R147). -/
def Stream.sendHold (st : Stream) : Bool :=
  st.defn.cue.isSome && st.held.head?.any fun d => d.wait && !d.released && d.count != 0

/-- A staged word belongs to a WAIT descriptor that has not been released (R147). -/
def Stream.heldBack (st : Stream) (w : Staged) : Bool :=
  st.defn.cue.isSome && st.held.any fun d => d.index == w.index && d.wait && !d.released

/-- The ready words, from the front of the staging queue (R146). -/
def Stream.ready (st : Stream) : List Staged := st.staging.takeWhile fun w => !st.heldBack w

/-- A staged word carries the block mark (R146). -/
def Stream.blockMark (st : Stream) (w : Staged) : Bool :=
  w.first && st.held.any fun d => d.index == w.index && d.blockStart

/-! ### Words leaving the queue -/

/-- The head's last word has left (R148, R150). -/
def Stream.finishHead (stamp : Stamp) (d : TxDesc) (rest : List TxDesc) (st : Stream) : Stream :=
  let st := { st with held := rest, ringIndex := d.after }
  if d.keep then (st.signal d.notify).finishEmpties stamp
  else ({ st with writeBack := st.writeBack ++ [d.finish stamp] }).finishEmpties stamp

/-- The front word of the staging queue leaves, driven or discarded (R148). -/
def Stream.leaveWord (driven : Bool) (stamp : Stamp) (st : Stream) : Stream :=
  match st.staging, st.held with
  | _ :: ws, d :: rest =>
    let d' := { d with
      sent := if driven then d.sent + 1 else d.sent
      gone := d.gone + 1
      discarded := d.discarded || !driven
      lastStamp := stamp }
    let st' := { st with staging := ws, nextSeq := st.nextSeq + 1 }
    if d'.count ≤ d'.gone then st'.finishHead stamp d' rest else { st' with held := d' :: rest }
  | _, _ => st

/-- `n` words leave from the front (R127, R148). -/
def Stream.leaveWords (driven : Bool) (stamp : Stamp) : Nat → Stream → Stream
  | 0, st => st
  | n + 1, st => leaveWords driven stamp n (st.leaveWord driven stamp)

/-! ### The walk -/

/-- The descriptor at the fetch position is held (R142). -/
def Stream.fetchHeld (st : Stream) : Bool :=
  st.held.any (·.index == st.fetchPos) || st.writeBack.any (·.desc.index == st.fetchPos)

/-- The taken descriptor whose buffer words are still being read (R143). -/
def Stream.fetching (st : Stream) : Option TxDesc :=
  st.held.getLast?.bind fun d => if d.fetched < d.count then some d else none

/-- The address of a descriptor of the stream's ring (R139, R155). -/
def Stream.descriptor (st : Stream) (index : BitVec 8) : Word :=
  descriptorAddress st.defn.ringBase index

/-- The read of a first word at the fetch position, where the walk has one to make (R142, R144). -/
def Stream.firstWordOp (st : Stream) (busy : Bool) : Option BusOp :=
  if busy || (st.ringEnd && !st.poll) then none
  else some ⟨.firstWord, st.descriptor st.fetchPos, false⟩

/-- The next bus operation of a send stream (R143). -/
def Stream.nextSendOp (st : Stream) : Option BusOp :=
  match st.writeBack with
  | r :: _ =>
    let a := st.descriptor r.desc.index
    some (if r.statusDone then ⟨.handBack, a, false⟩ else ⟨.statusWrite, a + 8, false⟩)
  | [] =>
    if !st.state.openSend then none
    else match st.fetching with
      | some d =>
        let n := min (Config.stagingLimit - st.staging.length) (d.count - d.fetched)
        if n = 0 then none
        else some ⟨.bufferRead n, d.address + place 2 (BitVec.ofNat 12 d.fetched), false⟩
      | none =>
        match st.reading with
        | some w0 => some ⟨.secondWord st.fetchPos w0, st.descriptor st.fetchPos + 4, false⟩
        | none => st.firstWordOp st.fetchHeld

/-- A first word read as HOST: a ring end (R144). -/
def Stream.sendRingEnd (st : Stream) : Stream := { st with ringEnd := true }.checkStarved

/-- A first word of a send descriptor has been read (R143, R144, R145). -/
def Stream.sendFirstRead (w : Word) (stamp : Stamp) (st : Stream) : Stream :=
  if !ownerPart w then st.sendRingEnd
  else if wordCount w = 0 then
    let d := TxDesc.ofWords st.fetchPos w 0
    { st with
      ringEnd := false, poll := false, held := st.held ++ [d]
      fetchPos := d.after }.finishEmpties stamp
  else { st with ringEnd := false, poll := false, reading := some w }

/-- A second word of a send descriptor has been read: the descriptor is taken (R143). -/
def Stream.sendSecondRead (w1 : Word) (st : Stream) : Stream :=
  match st.reading with
  | none => st
  | some w0 =>
    { st with reading := none, held := st.held ++ [TxDesc.ofWords st.fetchPos w0 w1] }

/-- Buffer words of a descriptor, as they join the staging queue (R143). -/
def stageWords (d : TxDesc) (words : List Word) : List Staged :=
  words.zipIdx.map fun p => ⟨p.1, d.index, d.fetched + p.2 == 0⟩

/-- Buffer words have been read: they join the staging queue, and the flag STARVED is cleared
(R143, R144). -/
def Stream.sendBufferDone (words : List Word) (st : Stream) : Stream :=
  match st.fetching with
  | none => st
  | some d =>
    let d' := { d with fetched := d.fetched + words.length }
    { st with
      staging := st.staging ++ stageWords d words
      held := st.held.dropLast ++ [d']
      starved := false
      fetchPos := if d'.count ≤ d'.fetched then d.after else st.fetchPos }

/-! ### Handing back -/

/-- The third and fourth words of the front descriptor have been written, with the pending CUE_MISS
mark, which is cleared (R140, R149). -/
def Stream.sendStatusDone (st : Stream) : Stream × List (Word × Word) :=
  match st.writeBack with
  | [] => (st, [])
  | r :: rest =>
    let a := st.descriptor r.desc.index
    ({ st with writeBack := { r with statusDone := true } :: rest, cueMissMark := false },
     [(a + 8, place 0 r.stamp), (a + 12, r.statusWord st.cueMissMark)])

/-- The first word of the front descriptor has been written: it is handed back (R149). -/
def Stream.sendHandBackDone (st : Stream) : Stream × List (Word × Word) :=
  match st.writeBack with
  | [] => (st, [])
  | r :: rest =>
    ({ st with writeBack := rest }.signal r.desc.notify,
     [(st.descriptor r.desc.index, r.firstWord)])

/-! ### Closure and bus faults -/

/-- An outstanding read is marked so that its data are discarded; a write goes on (R151, R168). -/
def BusOp.abandonRead (op : BusOp) : BusOp :=
  match op.kind with
  | .firstWord | .secondWord _ _ | .bufferRead _ => { op with discard := true }
  | .wordWrite _ | .statusWrite | .handBack => op

/-- The head as a closure truncates it (R151). -/
def TxDesc.truncate (d : TxDesc) : TxDone := ⟨d, d.lastStamp, true, false, false, false⟩

/-- The head was started: one or more of its words has left (R140). -/
def TxDesc.started (d : TxDesc) : Bool := d.gone != 0

/-- A closure stops the walk of a send stream (R151). -/
def Stream.stopSend (st : Stream) : Stream :=
  let st := { st with
    staging := [], held := [], reading := none, ringEnd := false, poll := false
    chosen := [], discards := 0, op := st.op.map BusOp.abandonRead
    writeBack := match st.held with
      | d :: _ => if d.started && !d.keep then st.writeBack ++ [d.truncate] else st.writeBack
      | [] => st.writeBack
    ringIndex := match st.held with
      | d :: _ => if d.started then d.after else st.ringIndex
      | [] => st.ringIndex }
  st

/-- A descriptor handed back for a bus fault (R140, R153). -/
def TxDesc.fault (d : TxDesc) (now : Stamp) : TxDone :=
  ⟨d, if d.started then d.lastStamp else now, d.started, false, true, false⟩

/-- The descriptor whose second word or buffer words a failed read was for (R153). -/
def Stream.faultDesc (st : Stream) : Option TxDesc :=
  match st.fetching with
  | some d => some d
  | none => st.reading.map fun w0 => TxDesc.ofWords st.fetchPos w0 0

/-- The descriptor `d` of a failed read joins the write-back queue of the stream as the closure left
it; `before` is the stream before the closure (R153). -/
def Stream.addFault (before : Stream) (now : Stamp) (d : TxDesc) (st : Stream) : Stream :=
  match before.held with
  | [] => { st with writeBack := st.writeBack ++ [d.fault now], ringIndex := d.after }
  | h :: _ =>
    if h.index = d.index then
      { st with writeBack := before.writeBack ++ [d.fault now], ringIndex := d.after }
    else { st with writeBack := st.writeBack ++ [d.fault now] }

/-- A bus error on a send stream's transaction; `closed` is the stream as the closure with reason
BUS_FAULT left it (R153). -/
def Stream.sendFault (kind : BusKind) (now : Stamp) (before closed : Stream) : Stream :=
  match kind with
  | .secondWord _ _ | .bufferRead _ =>
    match before.faultDesc with
    | some d => Stream.addFault before now d closed
    | none => closed
  | .statusWrite | .handBack | .wordWrite _ => { closed with writeBack := [], dead := true }
  | .firstWord => closed

end Sys2Proof.Machine
end

