-- ==== Sys2Proof/Machine/ListenRing.lean ====
section
/-! DEFINITION. The listen ring engine: the walk, accepting words, room and stall, hand-back, closure
and bus faults (R155 to R170). -/

namespace Sys2Proof.Machine

/-! ### The walk -/

/-- A finished receive descriptor that joins the write queue (R156, R167). -/
def RxDesc.finish (d : RxDesc) : RxDone := ⟨d, false, false, false, false, false⟩

/-- The descriptor waits in the write queue for its hand-back (R157). -/
def WriteItem.isDone (index : BitVec 8) : WriteItem → Bool
  | .word _ _ _ => false
  | .done r => r.desc.index == index

/-- The descriptor at the fetch position is in hand or waits for its hand-back (R157). -/
def Stream.fetchInHand (st : Stream) : Bool :=
  st.current.any (·.index == st.fetchPos) || st.next.any (·.index == st.fetchPos)
    || st.writeQueue.any (WriteItem.isDone st.fetchPos)

/-- The STARVED flag of a listener: set while no descriptor is current and the walk is stopped at a
ring end, cleared when a descriptor becomes current (R158). -/
def Stream.checkListenStarved (st : Stream) : Stream :=
  if st.current.isSome then { st with starved := false }
  else if st.ringEnd then { st with starved := true } else st

/-- A first word of a receive descriptor has been read (R157, R158). -/
def Stream.listenFirstRead (w : Word) (st : Stream) : Stream :=
  if !ownerPart w then { st with ringEnd := true }.checkListenStarved
  else if wordCount w = 0 then
    let d := RxDesc.ofWords st.fetchPos w 0
    { st with
      ringEnd := false
      poll := false
      writeQueue := st.writeQueue ++ [WriteItem.done d.finish]
      fetchPos := d.after
      ringIndex := if st.current.isSome then st.ringIndex else d.after }
  else { st with ringEnd := false, poll := false, reading := some w }

/-- A second word of a receive descriptor has been read: the descriptor becomes current, or next
(R157). -/
def Stream.listenSecondRead (w1 : Word) (st : Stream) : Stream :=
  match st.reading with
  | none => st
  | some w0 =>
    let d := RxDesc.ofWords st.fetchPos w0 w1
    let st := { st with reading := none, fetchPos := d.after }
    match st.current with
    | none => { st with current := some d, ringIndex := d.index }.checkListenStarved
    | some _ => { st with next := some d }

/-- The current descriptor leaves the hand: it joins the write queue, the next becomes current, and
the ring index goes to the descriptor that is, or will become, current (R157, R160). -/
def Stream.handBackCurrent (r : RxDone) (st : Stream) : Stream :=
  { st with
    writeQueue := st.writeQueue ++ [WriteItem.done r]
    current := st.next
    next := none
    ringIndex := match st.next with
      | some d => d.index
      | none => st.fetchPos }.checkListenStarved

/-- The words of an entry of the write queue that one transaction writes after `n` words up to
address `a`: those of the same buffer at consecutive addresses (R167). -/
def writeRun (index : BitVec 8) (a : Word) : List WriteItem → Nat
  | .word i b _ :: rest => if i = index && b = a then 1 + writeRun index (a + 4) rest else 0
  | _ => 0

/-- The next bus operation of a listen stream (R167). -/
def Stream.nextListenOp (st : Stream) : Option BusOp :=
  match st.writeQueue with
  | .word i a _ :: rest => some ⟨.wordWrite (1 + writeRun i (a + 4) rest), a, false⟩
  | .done r :: _ =>
    let a := st.descriptor r.desc.index
    some (if r.statusDone then ⟨.handBack, a, false⟩ else ⟨.statusWrite, a + 8, false⟩)
  | [] =>
    if !st.state.openListen || (st.current.isSome && st.next.isSome) then none
    else match st.reading with
      | some w0 => some ⟨.secondWord st.fetchPos w0, st.descriptor st.fetchPos + 4, false⟩
      | none => st.firstWordOp st.fetchInHand

/-! ### Accepting words -/

/-- The current descriptor is a WAIT descriptor that has not been released: the stream stands under
a WAIT hold (R165). -/
def Stream.listenHold (st : Stream) : Bool :=
  st.defn.cue.isSome && st.current.any fun d => d.wait && !d.released

/-- The entry of the write queue is a placed word. -/
def WriteItem.isWord : WriteItem → Bool
  | .word _ _ _ => true
  | .done _ => false

/-- The placed words in the write queue (R162, R167). -/
def Stream.queuedWords (st : Stream) : Nat := (st.writeQueue.filter WriteItem.isWord).length

/-- The accepted word is dropped (R162). -/
def Stream.dropWord (st : Stream) : Stream :=
  { st.signal (!st.overrunMark) with overrunMark := true, overrunSeen := true }

/-- A descriptor with one more word placed in it (R156, R159, R160, R161). -/
def RxDesc.place (d : RxDesc) (c : Cell) (now : Stamp) (gap : Bool) : RxDesc :=
  { d with
    count := d.count + 1
    stamp := if d.count = 0 then now else d.stamp
    source := if d.count = 0 then c.owner else d.source
    blockStart := if d.count = 0 then c.mark else d.blockStart
    gap := d.gap || gap }

/-- A word is placed in the current descriptor (R160). -/
def Stream.placeWord (c : Cell) (now : Stamp) (gap : Bool) (d : RxDesc) (st : Stream) : Stream :=
  let d' := d.place c now gap
  let st := { st with
    current := some d'
    writeQueue := st.writeQueue
      ++ [WriteItem.word d.index (d.address + Machine.place 2 (BitVec.ofNat 12 d.count)) c.word] }
  if d'.capacity ≤ d'.count then st.handBackCurrent d'.finish else st

/-- A word with the block mark hands the current descriptor back when it holds a word (R161). -/
def Stream.endBlock (mark : Bool) (st : Stream) : Stream :=
  match st.current with
  | some d =>
    if mark && d.count != 0 then st.handBackCurrent { d.finish with blockEnd := true } else st
  | none => st

/-- A word that no WAIT hold discards is placed or dropped (R160, R162). -/
def Stream.placeOrDrop (c : Cell) (now : Stamp) (gap : Bool) (st : Stream) : Stream :=
  match st.current with
  | some d =>
    if Config.writeQueueLimit ≤ st.queuedWords then st.dropWord else st.placeWord c now gap d
  | none => st.dropWord

/-- An intact cell of the label is accepted (R159 to R162, R165). -/
def Stream.acceptWord (c : Cell) (now : Stamp) (st : Stream) : Stream :=
  let gap := st.expectation.any (· != c.sequence)
  let st := { st with expectation := some (c.sequence + 1) }
  if st.listenHold then st
  else
    let st := st.endBlock c.mark
    if st.listenHold then st else st.placeOrDrop c now gap

/-- A listener that accepts cells: TUNED or SEEKING (R159). -/
def Stream.accepts (st : Stream) : Bool :=
  !st.isSend && (st.state == .tuned || st.state == .seeking)

/-- A damaged cell in a carrier slot marks DAMAGE on the current descriptor of a TUNED listener that
is not under a WAIT hold (R163). -/
def Stream.markDamage (st : Stream) : Stream :=
  if st.listenHold then st
  else { st with current := st.current.map fun d => { d with damage := true } }

/-- What a cell arrival in slot `i` does to a stream; the map is the one the arrival met
(R159, R163). -/
def Stream.hearCell (i : Nat) (rx : CellRx) (slots : Vector Slot 24) (now : Stamp) (st : Stream) :
    Stream :=
  match rx with
  | .silent => st
  | .intact c => if st.accepts && c.label == st.defn.label then st.acceptWord c now else st
  | .damaged =>
    if !st.isSend && st.state == .tuned && (carriers slots st.defn.label).any (·.val == i) then
      st.markDamage
    else st

/-! ### Room and stall -/

/-- The room of a listen stream (R164). -/
def Stream.room (st : Stream) : Nat :=
  (st.current.elim 0 fun d => d.capacity - d.count) + st.next.elim 0 (·.capacity)

/-- The listener asks for stall at an ordinary frame start (R164). -/
def Stream.asksStall (slots : Vector Slot 24) (st : Stream) : Bool :=
  !st.isSend && st.state == .tuned && !st.listenHold
    && st.room < 2 * (carriers slots st.defn.label).length

/-- The STALLED flag of a listener at an ordinary frame start (R164). -/
def Stream.listenStall (slots : Vector Slot 24) (st : Stream) : Stream :=
  if st.isSend then st else { st with stalled := st.asksStall slots }

/-! ### Stop hand-back, hand-back, closure and faults -/

/-- The stop hand-back that a cue stop asks for (R166). -/
def Stream.stopHandBack (st : Stream) : Stream :=
  match st.current with
  | some d => if d.count = 0 then st else st.handBackCurrent { d.finish with cueStop := true }
  | none => st

/-- The words that the first `n` entries of a write queue put into host memory. -/
def writtenWords (n : Nat) (q : List WriteItem) : List (Word × Word) :=
  (q.take n).filterMap fun
    | .word _ a x => some (a, x)
    | .done _ => none

/-- A write of `n` placed words has ended, and only now have they left the write queue (R167,
log 39). -/
def Stream.listenWordsDone (n : Nat) (st : Stream) : Stream × List (Word × Word) :=
  ({ st with writeQueue := st.writeQueue.drop n }, writtenWords n st.writeQueue)

/-- The third and fourth words of the front descriptor have been written (R156, R167). -/
def Stream.listenStatusDone (now : Stamp) (st : Stream) : Stream × List (Word × Word) :=
  match st.writeQueue with
  | .done r :: rest =>
    let a := st.descriptor r.desc.index
    ({ st with writeQueue := WriteItem.done { r with statusDone := true } :: rest },
     [(a + 8, r.thirdWord now), (a + 12, Machine.place 0 st.defn.label)])
  | _ => (st, [])

/-- The first word of the front descriptor has been written, with the pending marks, which are
cleared: the descriptor is handed back (R167). -/
def Stream.listenHandBackDone (st : Stream) : Stream × List (Word × Word) :=
  match st.writeQueue with
  | .done r :: rest =>
    ({ st with writeQueue := rest, overrunMark := false, cueMissMark := false }.signal r.desc.notify,
     [(st.descriptor r.desc.index, r.firstWord st.overrunMark st.cueMissMark)])
  | _ => (st, [])

/-- A closure stops the walk of a listen stream (R168). -/
def Stream.stopListen (st : Stream) : Stream :=
  let after := match st.next with
    | some n => n.index
    | none => st.fetchPos
  { st with
    reading := none, ringEnd := false, poll := false, current := none, next := none
    stalled := false, starved := false, cueAction := none, op := st.op.map BusOp.abandonRead
    writeQueue := match st.current with
      | some d =>
        if d.count = 0 then st.writeQueue
        else st.writeQueue ++ [WriteItem.done { d.finish with truncated := true }]
      | none => st.writeQueue
    ringIndex := match st.current with
      | some d => if d.count = 0 then st.ringIndex else after
      | none => st.ringIndex }

/-- The entry of the write queue is a placed word of descriptor `index`. -/
def WriteItem.isWordOf (index : BitVec 8) : WriteItem → Bool
  | .word i _ _ => i == index
  | .done _ => false

/-- The finished descriptor `index` after a failed write of its words: handed back with BUS_FAULT,
its count the words whose writes completed (R169). BLOCK START and GAP stay as the removed words had
made them, even at word count 0 (log 43). -/
def WriteItem.faultWords (index : BitVec 8) (lost : Nat) : WriteItem → WriteItem
  | .done r =>
    if r.desc.index = index then
      .done { r with busFault := true, desc := { r.desc with count := r.desc.count - lost } }
    else .done r
  | w => w

/-- The write queue after a failed write of words of descriptor `index` (R169). -/
def faultQueue (index : BitVec 8) (q : List WriteItem) : List WriteItem :=
  let lost := (q.filter (WriteItem.isWordOf index)).length
  (q.filter fun w => !w.isWordOf index).map (WriteItem.faultWords index lost)

/-- The descriptor `d` of a failed second-word read joins the write queue with BUS_FAULT; the ring
index stands at the first descriptor not handed back, so it passes `d` if it stood there (R169). -/
def Stream.addListenFault (d : RxDesc) (st : Stream) : Stream :=
  { st with
    writeQueue := st.writeQueue ++ [WriteItem.done { d.finish with busFault := true }]
    ringIndex := if st.ringIndex = d.index then d.after else st.ringIndex }

/-- A bus error on a listen stream's transaction; `closed` is the stream as the closure with reason
BUS_FAULT left it (R169). -/
def Stream.listenFault (kind : BusKind) (closed : Stream) : Stream :=
  match kind with
  | .secondWord index first => closed.addListenFault (RxDesc.ofWords index first 0)
  | .wordWrite _ =>
    match closed.writeQueue with
    | .word i _ _ :: _ => { closed with writeQueue := faultQueue i closed.writeQueue }
    | _ => closed
  | .statusWrite | .handBack => { closed with writeQueue := [], dead := true }
  | .firstWord | .bufferRead _ => closed

/-! ### Issuing -/

/-- The next bus operation of a stream (R143, R167). -/
def Stream.nextOp (st : Stream) : Option BusOp := if st.isSend then st.nextSendOp else st.nextListenOp

/-- The engine issues the next bus operation of a stream, if none is outstanding (R143, R167). -/
def Stream.issue (st : Stream) : Stream :=
  if st.op.isSome || st.dead then st
  else match st.nextOp with
    | none => st
    | some op => { st with op := some op, poll := if op.kind = .firstWord then false else st.poll }

/-- A header of an ordinary frame makes the walk read its ring end again (R144, R158). Headers that
come before that read can be issued bring one read together (log 38). -/
def Stream.pollRingEnd (st : Stream) : Stream :=
  if st.isOpen && st.ringEnd then { st with poll := true } else st

end Sys2Proof.Machine
end

