-- ==== Sys2Proof/Machine/SlotMap.lean ====
section
/-! DEFINITION. What headers and cells do to the slot map: settling, the bid, releases (R37 to R45),
damaged headers (R63), cells and readbacks (R27 to R32), and the release intent (R46 to R49). -/

namespace Sys2Proof.Machine

/-! ### Settling -/

/-- A pending entry commits at an intact header with VETO clear (R38). -/
def Entry.commit : Entry → Entry
  | .claimPending c _ => .held c.bidder 0
  | .releasePending _ => .free
  | e => e

/-- A pending entry reverts at an intact header with VETO set (R39). -/
def Entry.revert : Entry → Entry
  | .claimPending _ none => .free
  | .claimPending _ (some h) => .held h 0
  | .releasePending h => .held h 0
  | e => e

/-- A pending entry settles by the VETO bit of an intact header (R37). -/
def Entry.settle (veto : Bool) (e : Entry) : Entry := if veto then e.revert else e.commit

/-- A pending entry loses its settling header (R63). -/
def Entry.unsettle : Entry → Entry
  | .claimPending c none => .unsure [c.bidder]
  | .claimPending c (some h) => .unsure [h, c.bidder]
  | .releasePending h => .unsure [h]
  | e => e

/-! ### Judging the bid -/

/-- A station has standing to bid or to release: PRESENT or MISSING, or UNHEARD while this station
is ANNOUNCING (R41 (a), R44). -/
def State.hasStanding (s : State) (k : Station) : Bool :=
  match (s.peer k).state with
  | .present | .missing => true
  | .unheard => s.membership == .announcing
  | .absent => false

/-- The claimant a bid names. -/
def Bid.claimant (b : Bid) : Claimant := ⟨b.station, b.label, b.priority⟩

/-- Condition (b) of R41: a FREE target, or a preempting bid of strictly greater priority for a slot
another station holds. -/
def Bid.targetOk (b : Bid) : Entry → Bool
  | .free => true
  | .held h _ => h.station != b.station && b.preempt && h.priority.toNat < b.priority.toNat
  | _ => false

/-- A bid for a FREE or HELD target is valid (R41). -/
def State.bidValid (s : State) (b : Bid) (target : Entry) : Bool :=
  s.hasStanding b.station && b.targetOk target && !usedByOther s.slots b.label b.station
    && holdingCount s.slots b.station < Config.holdingLimit

/-- A bidder is offered to a candidate list (R20). -/
def offerCandidate (c : Claimant) (cs : List Claimant) : List Claimant :=
  if cs.any (·.station == c.station) || Config.candidateLimit ≤ cs.length then cs else cs ++ [c]

/-- What a bid does to the entry of its target slot (R40, R42, R43). -/
def State.judge (s : State) (b : Bid) (e : Entry) : Entry :=
  match e with
  | .unsure cs => .unsure (offerCandidate b.claimant cs)
  | .free => if s.bidValid b e then .claimPending ⟨b.claimant, s.stamp⟩ none else e
  | .held h _ => if s.bidValid b e then .claimPending ⟨b.claimant, s.stamp⟩ (some h) else e
  | _ => e

/-- The bid of a header is judged: a target above 23 or a label of 0 names no entry (R40). -/
def State.judgeBid (bid : Option Bid) (s : State) : State :=
  match bid with
  | none => s
  | some b =>
    if b.label = 0 then s
    else { s with slots := mapEntries (fun i e => if i.val = b.slot.toNat then s.judge b e else e)
                              s.slots }

/-! ### Releases -/

/-- What a set RELEASE bit does to an entry (R44). -/
def State.release (s : State) (e : Entry) : Entry :=
  match e with
  | .held h _ => if s.hasStanding h.station then .releasePending h else e
  | _ => e

/-- The RELEASE bits of a header are applied (R44). -/
def State.applyReleases (bits : BitVec 24) (s : State) : State :=
  { s with slots := mapEntries (fun i e => if bits.getLsbD i.val then s.release e else e) s.slots }

/-- The pending entries settle by an intact header (R38, R39). -/
def State.settleAll (veto : Bool) (s : State) : State :=
  { s with slots := mapEntries (fun _ e => e.settle veto) s.slots }

/-- The three steps of R37: settle, judge, release. -/
def State.handleHeader (h : Header) (s : State) : State :=
  ((s.settleAll h.veto).judgeBid h.bid).applyReleases h.release

/-- The pending entries of a station that received the settling header damaged (R63). -/
def State.unsettleAll (s : State) : State :=
  { s with slots := mapEntries (fun _ e => e.unsettle) s.slots }

/-! ### Cells and readbacks -/

/-- The label is carried, under a holder other than `k`, by an entry that is HELD, CLAIM_PENDING or
RELEASE_PENDING (R30). -/
def carriedByOther (slots : Vector Slot 24) (l : Label) (k : Station) : Bool :=
  slots.toList.any fun sl => match sl.entry with
    | .unsure _ => false
    | e => (e.users l).any (· != k)

/-- An intact cell does not resolve the entry of its slot (R30). -/
def State.withholds (s : State) (c : Cell) : Bool :=
  c.owner == s.number || carriedByOther s.slots c.label c.owner
    || Config.holdingLimit ≤ holdingCount s.slots c.owner

/-- What an intact cell does to the entry of its slot (R27 to R30). A cell with label 0 whose check
passes is intact like any other (log 35). -/
def State.resolve (s : State) (c : Cell) (e : Entry) : Entry :=
  match e with
  | .unknown => if s.withholds c then e else .held ⟨c.owner, c.label, c.priority⟩ 0
  | .unsure cs =>
    if cs.any (·.station == c.owner) && !s.withholds c then .held ⟨c.owner, c.label, c.priority⟩ 0
    else e
  | _ => e

/-- A cell arrival acts on the entry of its slot (R27). -/
def State.resolveCell (i : Nat) (rx : CellRx) (s : State) : State :=
  match rx with
  | .intact c =>
    { s with slots := mapEntries (fun j e => if j.val = i then s.resolve c e else e) s.slots }
  | _ => s

/-- What a readback does to the entry of its slot: it counts in an entry HELD by this station, and
the second damaged one in a row is a collision (R31, R32). -/
def Entry.readback (k : Station) (intact : Bool) (e : Entry) : Entry :=
  match e with
  | .held h damage =>
    if h.station = k then
      if intact then .held h 0
      else if Config.collisionLimit ≤ damage + 1 then .unsure [h]
      else .held h (damage + 1)
    else e
  | _ => e

/-- A readback acts on the entry of its slot, in MEMBER and LEAVING (R21, R31). -/
def State.applyReadback (i : Nat) (intact : Option Bool) (s : State) : State :=
  match intact with
  | none => s
  | some ok =>
    { s with slots := mapEntries (fun j e => if j.val = i then e.readback s.number ok else e)
                        s.slots }

/-! ### The release intent -/

/-- A slot is asked into the release intent: HELD by this station under a label that none of its open
send streams carries (R46, R52, R90, R131, R132). -/
def Entry.asked (k : Station) (streams : Vector (Option Stream) 16) : Entry → Bool
  | .held h _ => h.station == k && !openSendCarries streams h.label
  | _ => false

/-- The release intent of a slot after an arrival: a slot that is asked for joins it, and a slot leaves it
when its entry is one this station no longer has (R49). -/
def Slot.refresh (k : Station) (streams : Vector (Option Stream) 16) (sl : Slot) : Slot :=
  { sl with intent := (sl.intent || sl.entry.asked k streams) && sl.entry.keepsIntent k }

/-- The release intent is brought up to the map and the streams (R46, R49). -/
def State.refreshIntent (s : State) : State :=
  { s with slots := tabulate (fun _ sl => sl.refresh s.number s.streams) s.slots }

/-- A slot this station may fill: HELD by it, and not in the release intent (R33, R48). -/
def State.drivable (s : State) (i : Fin 24) : Bool :=
  s.slots[i].entry.heldBy s.number && !s.slots[i].intent

end Sys2Proof.Machine
end

