-- ==== Sys2Proof/Machine/Streams.lean ====
section
/-! DEFINITION. The stream engine: the standing rule, opening and closing, the choice of words, stall
and discards (R120 to R137), and what the map hands on (R34). -/

namespace Sys2Proof.Machine

/-! ### The state rules -/

/-- The standing rule: an open send stream is placed in its state (R122). A held count above the
width is taken as full (log 13). -/
def Stream.standing (k : Station) (slots : Vector Slot 24) (st : Stream) : Stream :=
  if st.isSend && st.state.openSend then
    if !(candidacyUnder slots k st.defn.label).isEmpty then { st with state := .suspended }
    else if (ownHoldings slots k st.defn.label).length < st.defn.width then
      { st with state := if st.everFull then .repairing else .claiming }
    else { st with state := if st.awaiting then .armed else .running, everFull := true }
  else st

/-- The listen state rule: an open listen stream is placed in its state (R134). -/
def Stream.listenRule (slots : Vector Slot 24) (st : Stream) : Stream :=
  if !st.isSend && st.state.openListen then
    { st with state :=
        if st.awaiting then .armed
        else if (carriers slots st.defn.label).isEmpty then .seeking else .tuned }
  else st

/-- The map's report to one stream: the rules act where the view they read has changed (R34). -/
def Stream.report (k : Station) (old new : Vector Slot 24) (st : Stream) : Stream :=
  let l := st.defn.label
  if st.isSend then
    if ownHoldings old k l = ownHoldings new k l ∧ candidacyUnder old k l = candidacyUnder new k l
    then st else st.standing k new
  else if carriers old l = carriers new l then st else st.listenRule new

/-- A stream stays in the open queue: it is open and has never been full (R105). -/
def Stream.queued (st : Stream) : Bool := st.isSend && st.state.openSend && !st.everFull

/-- The open queue loses the streams that have been full or are closed (R105). -/
def State.cleanQueue (s : State) : State :=
  { s with openQueue := s.openQueue.filter fun n => s.streams[n].any Stream.queued }

/-- The map reports what an arrival changed since it was `old` (R34). `closes` says which streams the
same arrival closes: to those the rules are not applied (R122). -/
def State.mapReport (closes : Fin 16 → Bool) (old : Vector Slot 24) (s : State) : State :=
  (s.mapStreams fun n st => if closes n then st else st.report s.number old s.slots).cleanQueue

/-! ### Opening -/

/-- What every OPEN sets up in the stream record (R121, R123, R135, R142, R157). -/
def Stream.setUp (st : Stream) : Stream :=
  { st with
    nextSeq := 0, everFull := false, stalled := false, starved := false, latched := false
    cueMiss := false, overrunSeen := false, closeReason := .none, stallRun := false
    awaiting := st.defn.cue.isSome, cueMissMark := false, overrunMark := false, cueAction := none
    chosen := [], discards := 0, fetchPos := st.ringIndex, reading := none, ringEnd := false
    poll := false, dead := false, held := [], staging := [], current := none, next := none
    expectation := none }

/-- A stream is opened: a send stream is placed by the standing rule, a listen stream by the listen
state rule (R123, R135). -/
def Stream.opened (k : Station) (slots : Vector Slot 24) (st : Stream) : Stream :=
  if st.isSend then { st.setUp with state := .claiming }.standing k slots
  else { st.setUp with state := .seeking }.listenRule slots

/-- A stream is opened and, if it sends, appended to the open queue (R104). -/
def State.openOne (n : Fin 16) (st : Stream) (s : State) : State :=
  { s.onStream n (Stream.opened s.number s.slots) with
    openQueue := if st.isSend then s.openQueue ++ [n] else s.openQueue }

/-! ### Closing -/

/-- The causes whose closure sets the stream's event (R133). -/
def CloseReason.signals : CloseReason → Bool
  | .labelClash | .busFault => true
  | .none | .host | .lost | .leave => false

/-- A send stream with no part in the map passes to CLOSED at the closure itself, and its event is
set there (R132), but not at entry to LOST (R137). -/
def CloseReason.passage (part : Bool) (reason : CloseReason) : Bool := !part && reason != .lost

/-- An open send stream is closed: CLOSING while it has a part in the map, else CLOSED
(R131, R132, R133, R151). -/
def Stream.closeSend (reason : CloseReason) (part : Bool) (st : Stream) : Stream :=
  { st.stopSend with
    state := if part then .closing else .closed
    awaiting := false, latched := false, stalled := false, starved := false, closeReason := reason
    event := st.event || reason.signals || reason.passage part }

/-- An open listen stream is closed (R136, R168). -/
def Stream.closeListen (reason : CloseReason) (st : Stream) : Stream :=
  { st.stopListen with
    state := .closed, awaiting := false, latched := false, closeReason := reason
    event := st.event || reason.signals }

/-- A cause reaches a CLOSING send stream (R133). -/
def Stream.closeAgain (reason : CloseReason) (st : Stream) : Stream :=
  match reason with
  | .busFault =>
    if st.closeReason = .leave then st else { st.signal true with closeReason := .busFault }
  | .leave => { st with closeReason := .leave }
  | .lost => { st with closeReason := .lost, state := .closed }
  | .none | .host | .labelClash => st

/-- A cause closes a stream; it does nothing to a CLOSED one (R133). `part` says whether the stream
has a part in the map. -/
def Stream.close (reason : CloseReason) (part : Bool) (st : Stream) : Stream :=
  if st.isSend then
    if st.state.openSend then st.closeSend reason part
    else if st.state = .closing then st.closeAgain reason else st
  else if st.state.openListen then st.closeListen reason else st

/-- A cause closes one stream, which leaves the open queue, and its slots are asked into the release
intent (R46, R105, R131). -/
def State.closeOne (reason : CloseReason) (n : Fin 16) (s : State) : State :=
  (s.onStream n fun st => st.close reason (s.streamHasPart n st)).cleanQueue.refreshIntent

/-- A cause closes every stream (R101, R137). -/
def State.closeEvery (reason : CloseReason) (s : State) : State :=
  (s.mapStreams fun n st => st.close reason (s.streamHasPart n st)).cleanQueue.refreshIntent

/-- A CLOSING stream with no part in the map passes to CLOSED and sets its event (R132). -/
def Stream.finishClosing (part : Bool) (st : Stream) : Stream :=
  if st.isSend && st.state == .closing && !part then { st.signal true with state := .closed } else st

/-- The CLOSING streams that have no part left pass to CLOSED (R132). -/
def State.finishClosing (s : State) : State :=
  s.mapStreams fun n st => st.finishClosing (s.streamHasPart n st)

/-! ### The choice of words -/

/-- A STALL bit stands for a slot the stream held when the header arrived or holds when the map has
finished with it (R124). -/
def Stream.stallSeen (k : Station) (old new : Vector Slot 24) (stall : BitVec 24) (st : Stream) :
    Bool :=
  (ownHoldings old k st.defn.label ++ ownHoldings new k st.defn.label).any
    fun i => stall.getLsbD i.val

/-- A send stream is held by stall (R128). -/
def Stream.heldByStall (k : Station) (old new : Vector Slot 24) (stall : BitVec 24) (st : Stream) :
    Bool :=
  st.isSend && st.defn.cls == .paced && st.sending && st.stallSeen k old new stall

/-- The STALLED flag and the stall-run attribute of a send stream at an intact header of an ordinary
frame (R128, R129). -/
def Stream.noteStall (k : Station) (old new : Vector Slot 24) (stall : BitVec 24) (st : Stream) :
    Stream :=
  if st.isSend then
    let h := st.heldByStall k old new stall
    { st with stalled := h, stallRun := st.stallRun && h }
  else st

/-- The slots a stream may use in the next frame: held, and not in the release intent (R48, R124). -/
def usableSlots (k : Station) (slots : Vector Slot 24) (l : Label) : List (Fin 24) :=
  (ownHoldings slots k l).filter fun i => !slots[i].intent

/-- The number of words a stream chooses; `hold` keeps a PACED stream back (R65, R124). -/
def Stream.choiceCount (k : Station) (slots : Vector Slot 24) (hold : Bool) (st : Stream) : Nat :=
  if st.isSend && st.sending && !(st.defn.cls == .paced && hold) then
    min (usableSlots k slots st.defn.label).length st.ready.length
  else 0

/-- The choice of words and of discards for the next frame (R124, R126). -/
def Stream.chooseWords (k : Station) (slots : Vector Slot 24) (hold : Bool) (st : Stream) : Stream :=
  let n := st.choiceCount k slots hold
  { st with
    chosen := (usableSlots k slots st.defn.label).take n
    discards := if st.isSend && st.discarding then min (st.defn.width - n) (st.ready.length - n)
      else 0 }

/-- No words are chosen: the next frame is a census frame (R124). -/
def Stream.chooseNone (st : Stream) : Stream := { st with chosen := [], discards := 0 }

/-! ### Driving the words -/

/-- The chosen slots a stream drives at a frame start: those still drivable, in ascending order
(R125). `expected`: an ordinary frame that opened as the station expected. -/
def State.slotsToDrive (s : State) (expected : Bool) (st : Stream) : List (Fin 24) :=
  if expected && st.isSend && st.sending then st.chosen.filter s.drivable else []

/-- The discards a stream makes at a frame start, when it drives `n` words (R126). -/
def Stream.discardsToMake (expected : Bool) (n : Nat) (st : Stream) : Nat :=
  if expected && st.isSend && st.discarding && n == st.chosen.length then st.discards else 0

/-- The label and priority of the entry of a slot, as a driven cell carries them (R125). -/
def State.slotFace (s : State) (i : Fin 24) : Label × Priority :=
  match s.slots[i].entry with
  | .held h _ => (h.label, h.priority)
  | _ => (0, 0)

/-- The cell of the `j`-th word a stream drives (R125, R127). -/
def State.cellFor (s : State) (st : Stream) (i : Fin 24) (j : Nat) (w : Staged) : Cell :=
  { owner := s.number, priority := (s.slotFace i).2, label := (s.slotFace i).1
    sequence := st.nextSeq + BitVec.ofNat 4 j, mark := st.blockMark w, word := w.word }

/-- The cells a stream drives, each with its slot (R125). -/
def State.cellsOf (s : State) (expected : Bool) (st : Stream) : List (Fin 24 × Cell) :=
  ((s.slotsToDrive expected st).zip st.staging).zipIdx.map
    fun p => (p.1.1, s.cellFor st p.1.1 p.2 p.1.2)

/-- The cell this station drives in a slot, if any (R14). -/
def State.cellDriven (s : State) (expected : Bool) (i : Fin 24) : Option Cell :=
  s.streams.toList.findSome? fun o => o.bind fun st =>
    ((s.cellsOf expected st).find? (·.1 == i)).map (·.2)

/-- A stream after a frame start: the driven words leave, then the discards, and the choice is spent
(R125 to R127, R148). -/
def State.spendWords (s : State) (expected : Bool) (st : Stream) : Stream :=
  if st.isSend then
    let n := (s.slotsToDrive expected st).length
    let d := st.discardsToMake expected n
    let st' := (st.leaveWords true s.stamp n).leaveWords false s.stamp d
    if n + d = 0 then st'.chooseNone else st'.chooseNone.checkStarved
  else st

end Sys2Proof.Machine
end

