-- ==== Sys2Proof/Machine/Arbiter.lean ====
section
/-! DEFINITION. The claim arbiter: the win list, the candidates, the label check, the targets and the
choice of a bid (R104 to R119). -/

namespace Sys2Proof.Machine

/-! ### Wins -/

/-- The win list at a header arrival: every age rises by one, a record that would reach 31 is
removed, and a win in this header is recorded at age 0 (R108). -/
def ageWins (won : Bool) (wins : List Nat) : List Nat :=
  (wins.map (· + 1)).filter (· < Config.winAge) ++ if won then [0] else []

/-- This station won the header whose arbitration part it read so (R13, R117). -/
def State.wonHeader (read : List (Option Bool)) (s : State) : Bool :=
  s.bidDriven.any fun b => droveThrough read b.bid

/-- The win list counts a header arrival (R108), whose BID field this station drove up to where it
stopped (R12). -/
def State.countWin (read : List (Option Bool)) (s : State) : State :=
  { s with
    wins := ageWins (s.wonHeader read) s.wins
    drive := { s.drive with bidBits := s.bidDriven.elim [] fun b => bidBitsDriven read b.bid } }

/-- The win budget forbids a bid: a win in the header just received, or four wins in the window
(R109). -/
def budgetSpent (wins : List Nat) : Bool := wins.contains 0 || Config.winLimit ≤ wins.length

/-! ### Candidates -/

/-- A preemption of one of its slots is pending, so the stream is no candidate (R55). -/
def State.excluded (s : State) (st : Stream) : Bool :=
  preemptedUnder s.slots s.number st.defn.label

/-- A member of the repair set that is not excluded (R106). -/
def State.repairable (s : State) (n : Fin 16) : Bool :=
  s.streams[n].any fun st => st.inRepair && !s.excluded st

/-- The priority of a stream. -/
def State.priorityOf (s : State) (n : Fin 16) : Nat :=
  s.streams[n].elim 0 (·.defn.priority.toNat)

/-- The first of a list with the highest rank. -/
def bestBy {α : Type} (rank : α → Nat) : List α → Option α
  | [] => none
  | a :: as =>
    match bestBy rank as with
    | none => some a
    | some b => if rank b ≤ rank a then some a else some b

/-- The repair candidate: the highest priority, then the lowest stream number (R106). -/
def State.repairCandidate (s : State) : Option (Fin 16) :=
  bestBy s.priorityOf (indicesWhere s.repairable)

/-- The queue's candidate: its head, if it is neither SUSPENDED nor excluded (R105, R110). -/
def State.headCandidate (s : State) : Option (Fin 16) :=
  match s.openQueue with
  | [] => none
  | n :: _ =>
    if s.streams[n].any fun st => st.state != .suspended && !s.excluded st then some n else none

/-- The candidates in the order they are tried: higher priority first, repair first on equal
priority (R110). -/
def State.candidates (s : State) : List (Fin 16) :=
  match s.repairCandidate, s.headCandidate with
  | some r, some h => if s.priorityOf r < s.priorityOf h then [h, r] else [r, h]
  | some r, none => [r]
  | none, some h => [h]
  | none, none => []

/-! ### The label check and the targets -/

/-- A label in use by another station other than through a pending release (R111). -/
def clashes (slots : Vector Slot 24) (l : Label) (k : Station) : Bool :=
  slots.toList.any fun sl => match sl.entry with
    | .releasePending _ => false
    | e => (e.users l).any (· != k)

/-- The lowest FREE slot (R113). -/
def freeTarget (slots : Vector Slot 24) : Option (Fin 24) :=
  (indicesWhere fun i => slots[i].entry == .free).head?

/-- The priority of a HELD entry. -/
def heldPriority (slots : Vector Slot 24) (i : Fin 24) : Nat :=
  slots[i].entry.holder.elim 0 (·.priority.toNat)

/-- A HELD entry of another station at a priority strictly below `p` (R114). -/
def preemptable (slots : Vector Slot 24) (k : Station) (p : Priority) (i : Fin 24) : Bool :=
  slots[i].entry.holder.any fun h => h.station != k && h.priority.toNat < p.toNat

/-- The preempt target: the lowest priority, then the highest slot (R114). -/
def preemptTarget (slots : Vector Slot 24) (k : Station) (p : Priority) : Option (Fin 24) :=
  bestBy (fun i => 3 - heldPriority slots i) (indicesWhere (preemptable slots k p)).reverse

/-- The target of a candidate, with the preempt flag (R113, R114). -/
def target (slots : Vector Slot 24) (k : Station) (d : StreamDef) : Option (Fin 24 × Bool) :=
  match freeTarget slots with
  | some i => some (i, false)
  | none =>
    if d.startMode = .preempt then (preemptTarget slots k d.priority).map fun i => (i, true)
    else none

/-- The bid for a stream and a target (R115). -/
def bidFor (k : Station) (d : StreamDef) (t : Fin 24 × Bool) : Bid :=
  ⟨d.priority, k, t.2, BitVec.ofNat 5 t.1.val, d.label⟩

/-! ### The choice -/

/-- The bid a candidate gets when its label check has passed: none at the holding limit
(R112 to R115). -/
def State.bidOf (s : State) (n : Fin 16) (st : Stream) : Option ChosenBid :=
  if Config.holdingLimit ≤ holdingCount s.slots s.number then none
  else (target s.slots s.number st.defn).map fun t => ⟨n, bidFor s.number st.defn t⟩

/-- One candidate is tried: a label clash closes it, and otherwise it may give the chosen bid
(R110, R111). -/
def State.tryCandidate (n : Fin 16) (s : State) : State :=
  match s.streams[n] with
  | none => s
  | some st =>
    if clashes s.slots st.defn.label s.number then s.closeOne .labelClash n
    else if usedByOther s.slots st.defn.label s.number then s
    else { s with chosenBid := s.bidOf n st }

/-- The candidates are tried until one gives the chosen bid (R110). -/
def State.tryCandidates : List (Fin 16) → State → State
  | [], s => s
  | n :: ns, s =>
    let s' := s.tryCandidate n
    if s'.chosenBid.isSome then s' else tryCandidates ns s'

/-- The arbiter makes a choice (R107, R109, R110). -/
def State.chooseBid (s : State) : State :=
  let s := { s with chosenBid := none }
  if s.membership = .member ∧ budgetSpent s.wins = false then s.tryCandidates s.candidates else s

/-- The arbiter's own state is emptied (R119). -/
def State.emptyArbiter (s : State) : State :=
  { s with openQueue := [], wins := [], chosenBid := none, bidDriven := none }

end Sys2Proof.Machine
end

