-- ==== Sys2Proof/Machine/Commands.lean ====
section
/-! DEFINITION. Commands: how COMMAND takes one and how a pending one is judged (R187 to R190). -/

namespace Sys2Proof.Machine

/-- The result of OPEN, the first refusal that applies (R188). -/
def State.judgeOpen (s : State) (n : Fin 16) : CommandResult :=
  if s.membership ≠ .member then .notMember
  else match s.streams[n] with
    | none => .badStream
    | some st =>
      if st.state ≠ .closed then .wrongState
      else if st.isSend && Config.openQueueLimit ≤ s.openQueue.length then .queueFull
      else .done

/-- The result of CLOSE (R189). -/
def State.judgeClose (s : State) (n : Fin 16) : CommandResult :=
  if s.membership ≠ .member then .notMember
  else match s.streams[n] with
    | none => .badStream
    | some st => if st.state = .closed then .wrongState else .done

/-- The result of STANDING (R190). -/
def State.judgeStanding (s : State) : CommandResult :=
  if s.membership = .offline then .notMember else .done

/-- The result of a command (R188 to R190). -/
def State.judgeCommand (s : State) (c : Command) : CommandResult :=
  match c.code with
  | .openStream => s.judgeOpen c.stream.toFin
  | .closeStream => s.judgeClose c.stream.toFin
  | .setStanding => s.judgeStanding

/-- What a command answered DONE does (R123, R131, R135, R136, R190). -/
def State.performCommand (c : Command) (s : State) : State :=
  match c.code with
  | .openStream => match s.streams[c.stream.toFin] with
    | some st => s.openOne c.stream.toFin st
    | none => s
  | .closeStream => s.closeOne .host c.stream.toFin
  | .setStanding => { s with standing := some s.commandArgument }

/-- A command is taken: it is judged and, if DONE, performed; its result is written, BUSY is cleared
and COMMAND_DONE is raised (R187). -/
def State.takeThis (c : Command) (s : State) : State :=
  let r := s.judgeCommand c
  let s' := if r = .done then s.performCommand c else s
  { s' with command := none, lastResult := r }.raise .commandDone

/-- The pending command, if there is one, is taken (R187). -/
def State.takeCommand (s : State) : State :=
  match s.command with
  | none => s
  | some c => s.takeThis c

/-- The stream whose OPEN or CLOSE an arrival would take with DONE: no cue of that arrival acts on
it (R173). A refused command changes no stream (R188), so it keeps no cue away (log 10). -/
def State.commandedStream (s : State) : Option (Fin 16) :=
  s.command.bind fun c =>
    if c.code ≠ .setStanding ∧ s.judgeCommand c = .done then some c.stream.toFin else none

/-- The pending CLOSE will close this stream at the arrival that takes it (R122, R189). -/
def State.closesPending (s : State) (n : Fin 16) : Bool :=
  s.command.any (·.code == .closeStream) && s.commandedStream == some n

/-- The states in which a command is taken at the accepted write (R187). -/
def Membership.takesAtWrite : Membership → Bool
  | .offline | .loading | .refused => true
  | _ => false

/-- The command a code names (R199). -/
def commandCode (code : BitVec 4) : Option CommandCode :=
  match code.toNat with
  | 1 => some .openStream
  | 2 => some .closeStream
  | 3 => some .setStanding
  | _ => none

/-- A write to COMMAND: accepted while BUSY is clear if its code names a command, else ignored with
REJECTED set (R187). -/
def State.writeCommand (code stream : BitVec 4) (s : State) : State :=
  match commandCode code, s.command with
  | some c, none =>
    let s' := { s with command := some ⟨c, stream⟩, rejected := false }
    if s.membership.takesAtWrite then s'.takeCommand else s'
  | _, _ => { s with rejected := true }

end Sys2Proof.Machine
end

