-- ==== Sys2Proof/Machine/Membership.lean ====
section
/-! DEFINITION. The membership state machine's entries (R73, R76, R95 to R103), the values each leaves
(R193), and the profile fetch (R185, R186). -/

namespace Sys2Proof.Machine

/-! ### What several entries share -/

/-- The map is all UNKNOWN and the release intent empty (R35, R46). -/
def State.clearMap (s : State) : State := { s with slots := Vector.replicate 24 Slot.reset }

/-- The peer table is all UNHEARD (R94). -/
def State.clearPeers (s : State) : State := { s with peers := Vector.replicate 32 Peer.never }

/-- The stream definitions go, with everything their engines held: nothing is written back
(R120, R137, R152, R170). -/
def State.dropStreams (s : State) : State :=
  { s with streams := Vector.replicate 16 none, portServing := none, fetched := [] }

/-- This station's part in the protocol ends: no owed veto, no pending cue edge, nothing of the
arbiter's, nothing driven (R50, R60, R119, R172). -/
def State.dropClaims (s : State) : State :=
  { s.emptyArbiter with vetoOwed := false, cuePending := 0, drive := Drive.nothing }

/-- The trunk interface drives nothing and takes no arrival, and the frame timer stops (R1, R2). -/
def State.stopTrunk (s : State) : State :=
  { s with timer := .stopped, tsync := .undriven, frame := none }

/-- UNALIGNED with index 0 and no bootstrap count (R4, R8). -/
def State.unalign (s : State) : State := { s with aligned := false, index := 0, bootstrap := 0 }

/-! ### Power-on, RESET and the RSTn pin -/

/-- The values power-on leaves (R193). The queue, the RSTn pin's level and the counter of free
values are not the part's to change. -/
def State.powerUp (s : State) : State :=
  { State.reset with pending := s.pending, free := s.free, rstnLow := s.rstnLow }

/-- The values RESET leaves (R193): those of power-on, but for the join word, which is kept until
the next load completion (R80), and what the local bus carried last. -/
def State.resetValues (s : State) : State :=
  { s.powerUp with joinWord := s.joinWord, readData := s.readData, hostWrite := s.hostWrite }

/-! ### OFFLINE -/

/-- Entry to OFFLINE other than by RESET (R95, R193). -/
def State.enterOffline (s : State) : State :=
  { s.clearMap.clearPeers.dropStreams.dropClaims.stopTrunk.unalign with
    membership := .offline, refusalReason := .none, profileFault := .none, faultStream := 0
    cycle := 0, damageCount := 0, joinAttempts := 0, censusRun := 0, standing := none
    command := none, rejected := false, lastResult := .none, commandArgument := 0
    eventEnable := 0, streamEventEnable := 0, capture := none }

/-- A LEAVING station with no part left in the map enters OFFLINE, and LEFT is raised (R101). -/
def State.checkLeft (s : State) : State :=
  if s.membership = .leaving ∧ s.hasPart = false then (s.enterOffline).raise .left else s

/-! ### LOADING, LISTENING, REFUSED -/

/-- START taken in OFFLINE or REFUSED (R95, R193). -/
def State.enterLoading (s : State) : State :=
  { s.clearMap.clearPeers.dropStreams.dropClaims.stopTrunk.unalign with
    membership := .loading, refusalReason := .none, profileFault := .none, faultStream := 0
    cycle := 0, damageCount := 0, joinAttempts := 0, censusRun := 0, standing := none
    capture := none, portLast := 15 }

/-- Entry to REFUSED: a pending command is taken at it (R102, R187). -/
def State.enterRefused (reason : RefusalReason) (s : State) : State :=
  ({ s.clearMap.dropStreams.dropClaims.stopTrunk with
      membership := .refused, refusalReason := reason, censusRun := 0 }.raise .refused).takeCommand

/-! ### LOST -/

/-- Entry to LOST (R73, R137). -/
def State.enterLost (s : State) : State :=
  { ((s.dropClaims.clearMap).closeEvery .lost).clearPeers with
    membership := .lost, censusRun := 0 }.raise .lost

/-- A loss condition: MEMBER enters LOST, LEAVING enters OFFLINE with LOST raised
(R71, R72, R76). -/
def State.lose (s : State) : State :=
  if s.membership = .leaving then s.enterOffline.raise .lost else s.enterLost

/-! ### Requests -/

/-- LEAVE taken in MEMBER (R101, R115, R137). -/
def State.leaveMember (s : State) : State :=
  ({ s with membership := .leaving, chosenBid := none }.closeEvery .leave).checkLeft

/-- START as the membership state takes it (R103). -/
def State.requestStart (s : State) : State :=
  match s.membership with
  | .offline | .refused => s.enterLoading
  | _ => s

/-- LEAVE as the membership state takes it (R103). -/
def State.requestLeave (s : State) : State :=
  match s.membership with
  | .loading | .listening | .announcing => s.enterOffline
  | .member => s.leaveMember
  | _ => s

/-- A write to STATION CONTROL (R184). -/
def State.writeControl (startBit leaveBit resetBit : Bool) (s : State) : State :=
  if resetBit then s.resetValues
  else if startBit && !leaveBit then s.requestStart
  else if leaveBit && !startBit then s.requestLeave
  else s

/-! ### The profile -/

/-- The 32-bit wrapping sum of the profile words (R186). -/
def profileSum (ws : List Word) : Word := ws.foldl (· + ·) 0

/-- Some SEND stream of lower number has the label (R186). -/
def sendLabelTaken (ws : List Word) (n : Nat) (l : Label) : Bool :=
  (List.range n).any fun m =>
    (profileStream ws m).direction == .send && (profileStream ws m).label == l

/-- The first check that one stream fails, in the order of R186. -/
def streamFault (ws : List Word) (n : Nat) : ProfileFault :=
  let d := profileStream ws n
  let send := d.direction == .send
  if d.label = 0 then .label
  else if send && d.width != 1 && d.width != 2 && d.width != 4 then .width
  else if d.ringBase.extractLsb' 0 4 ≠ 0 then .ringBase
  else if send && sendLabelTaken ws n d.label then .sendLabel
  else .none

/-- The lowest-numbered stream with a failed check, of `n` and up to `fuel` of them (R186). -/
def firstStreamFault (ws : List Word) : Nat → Nat → Option (Nat × ProfileFault)
  | 0, _ => none
  | fuel + 1, n =>
    match streamFault ws n with
    | .none => firstStreamFault ws fuel (n + 1)
    | f => some (n, f)

/-- The checks of the header words, made as they arrive (R185, R186). -/
def headerFault (ws : List Word) : ProfileFault :=
  if profileFormat ws ≠ 1 then .format
  else if profileCount ws < 1 ∨ 16 < profileCount ws then .count
  else .none

/-- The checks of a whole profile: the fault and the stream it concerns, 0 where none (R186). -/
def profileCheck (ws : List Word) : ProfileFault × Nat :=
  if headerFault ws ≠ .none then (headerFault ws, 0)
  else if profileSum ws ≠ 0 then (.check, 0)
  else if 31 < profileStation ws then (.station, 0)
  else match firstStreamFault ws (profileCount ws) 0 with
    | some (n, f) => (f, n)
    | none => (.none, 0)

/-- A stream's runtime record and ring engine at load completion (R121). -/
def Stream.fresh (d : StreamDef) : Stream :=
  { defn := d, state := .closed, ringIndex := 0, nextSeq := 0, awaiting := false, everFull := false
    stalled := false, starved := false, latched := false, cueMiss := false, overrunSeen := false
    closeReason := .none, event := false, stallRun := false, cueMissMark := false
    overrunMark := false, cueAction := none, chosen := [], discards := 0, fetchPos := 0
    reading := none, ringEnd := false, poll := false, dead := false, op := none, held := []
    staging := [], writeBack := [], current := none, next := none, writeQueue := []
    expectation := none }

/-- The streams a profile defines (R120). -/
def profileStreams (ws : List Word) : Vector (Option Stream) 16 :=
  Vector.ofFn fun n : Fin 16 =>
    if n.val < profileCount ws then some (Stream.fresh (profileStream ws n.val)) else none

/-- The load completion: the station takes its number, the cue forwarding, its streams and its join
word, and enters LISTENING with the quiet wait (R3, R80, R96, R97, R186). -/
def State.loadComplete (ws : List Word) (s : State) : State :=
  { s with
    membership := .listening, fetched := [], timer := .quietWait, bootstrap := 0, joinAttempts := 0
    number := BitVec.ofNat 5 (profileStation ws)
    cueForward := Vector.ofFn fun n : Fin 4 => parseForward (profileWord ws 1) n
    streams := profileStreams ws
    joinWord := Config.tclkCount s.free, free := s.free + 1 }

/-- The fetch ends with a failed check (R96, R186). -/
def State.refuseProfile (f : ProfileFault) (n : Nat) (s : State) : State :=
  { s with profileFault := f, faultStream := BitVec.ofNat 4 n }.enterRefused .profile

/-- The profile words read so far decide how the fetch goes on (R185, R186). -/
def State.checkFetch (s : State) : State :=
  let ws := s.fetched
  if ws = [] then s
  else if headerFault ws ≠ .none then s.refuseProfile (headerFault ws) 0
  else if ws.length < profileLength ws then s
  else
    let ws := ws.take (profileLength ws)
    match profileCheck ws with
    | (.none, _) => s.loadComplete ws
    | (f, n) => s.refuseProfile f n

/-- The next profile read in LOADING: its address, and how many words the part knows it has still to
read, the two header words first (R185). It reads them in one or more transactions. -/
def State.nextProfileRead (s : State) : Option (Word × Nat) :=
  let n := s.fetched.length
  if s.membership = .loading then
    some (s.profileAddress + place 2 (BitVec.ofNat 12 n),
      (if n < 2 then 2 else profileLength s.fetched) - n)
  else none

/-- A profile read ends (R185). One that ends in LOADING is taken as a read of the present fetch, never
of one that a LEAVE or RESET before the last START abandoned (log 45). -/
def State.profileRead (words : List Word) (s : State) : State :=
  if s.membership = .loading then { s with fetched := s.fetched ++ words }.checkFetch else s

/-- A bus error on a profile read (R185), in LOADING one of the present fetch (log 45). -/
def State.profileBusError (s : State) : State :=
  if s.membership = .loading then s.enterRefused .profileFault else s

end Sys2Proof.Machine
end

