-- ==== Sys2Proof/Machine/Census.lean ====
section
/-! DEFINITION. The census: the station's own cell (R79, R80), reconciliation (R82 to R92) and the
transitions at census completion (R97 to R99, R72). -/

namespace Sys2Proof.Machine

/-! ### The own census cell -/

/-- The declaration this station makes of a slot: what it holds, or its own candidate record
(R69, R79). -/
def declarationOf (k : Station) (i : Fin 24) (e : Entry) : Option Declaration :=
  let declare (c : Claimant) : Declaration := ⟨BitVec.ofNat 5 i.val, c.label, c.priority⟩
  match e with
  | .held h _ => if h.station = k then some (declare h) else none
  | e => (e.candidateOf k).map declare

/-- The declarations of a station, in ascending slot order, at most 8 (R79). -/
def ownDeclarations (slots : Vector Slot 24) (k : Station) : List Declaration :=
  ((List.finRange 24).filterMap fun i => declarationOf k i slots[i].entry).take
    Config.declarationLimit

/-- A declaration position beyond the held count (R17). -/
def Declaration.blank : Declaration := ⟨0, 0, 0⟩

/-- The declarations this station makes: none in ANNOUNCING, whatever the map shows (R79, R98). -/
def State.declarations (s : State) : List Declaration :=
  if s.membership.drives then ownDeclarations s.slots s.number else []

/-- The census cell this station composes (R79, R80). -/
def State.composeCell (s : State) : CensusCell :=
  let ds := s.declarations
  { echo := s.number
    cycle := s.cycle
    present := s.standing.isSome
    word := s.standing.getD s.joinWord
    heldCount := BitVec.ofNat 4 ds.length
    declarations := Vector.ofFn fun i : Fin 8 => ds.getD i.val Declaration.blank }

/-- The station drives the census cell it has composed (R79). -/
def State.driveCensus (s : State) : State :=
  { s with drive := { s.drive with census := some s.composeCell } }

/-! ### The heard set -/

/-- The census cells a station acts on at census completion: what arrived, and the readback of its
own cell. -/
structure Census where
  rx : List CensusRx
  own : Option Bool
  deriving DecidableEq, Repr

/-- The arrival of census cell `k`. -/
def Census.arrival (c : Census) (k : Station) : CensusRx := c.rx.getD k.toNat .silent

/-- The cell of a station in the heard set: it arrived intact, and if it is this station's own, its
readback was intact (R82). -/
def Census.heard (c : Census) (self k : Station) : Option CensusCell :=
  match c.arrival k with
  | .intact cell => if k = self ∧ c.own = some false then none else some cell
  | _ => none

/-- Some census cell arrived damaged here, this station's own included (R89). -/
def Census.anyDamaged (c : Census) : Bool := c.rx.any (· == .damaged) || c.own == some false

/-- Every station, in ascending order. -/
def allStations : List Station := (List.finRange 32).map fun i => BitVec.ofNat 5 i.val

/-! ### The peer step -/

/-- The entry of a heard station (R83). -/
def Peer.hear (cell : CensusCell) : Peer :=
  ⟨.present, 0, some cell.cycle, if cell.present then some cell.word else none⟩

/-- The entry of a station that is not heard (R84). -/
def Peer.miss (listening : Bool) (p : Peer) : Peer :=
  match p.state with
  | .present => { p with state := .missing, unheard := 1 }
  | .missing => { p with state := .absent, unheard := 2 }
  | .unheard =>
    if listening then { p with unheard := 1 } else { p with state := .absent, unheard := 2 }
  | .absent => { p with unheard := 2 }

/-- The peer table after the first step of reconciliation (R83, R84). -/
def reconcilePeers (c : Census) (self : Station) (listening : Bool) (ps : Vector Peer 32) :
    Vector Peer 32 :=
  tabulate (fun k p => match c.heard self (BitVec.ofNat 5 k.val) with
    | some cell => Peer.hear cell
    | none => p.miss listening) ps

/-! ### Declarations and label conflicts -/

/-- A declaration with the station that makes it. -/
structure Declared where
  station : Station
  decl : Declaration
  deriving DecidableEq, Repr

/-- The declarations of the heard stations, by station (R82). -/
def Census.declared (c : Census) (self : Station) : List Declared :=
  allStations.flatMap fun k => match c.heard self k with
    | some cell => cell.meaningful.map fun d => ⟨k, d⟩
    | none => []

/-- The best of some declarations: the highest priority, then the lowest station number
(R85, R86). -/
def bestDeclared (ds : List Declared) : Option Declared := bestBy (·.decl.priority.toNat) ds

/-- The station whose declarations of a label stand (R85). -/
def labelWinner (ds : List Declared) (l : Label) : Option Station :=
  (bestDeclared (ds.filter fun d => d.decl.label == l)).map (·.station)

/-- The remaining declarations: those of each label's best declarer (R85). -/
def remaining (ds : List Declared) : List Declared :=
  ds.filter fun d => labelWinner ds d.decl.label == some d.station

/-- The remaining declarations of a slot. -/
def declaredFor (ds : List Declared) (i : Fin 24) : List Declared :=
  ds.filter fun d => d.decl.slot.toNat == i.val

/-- A label is carried by a remaining declaration of another station (R87, R88). -/
def declaredByOther (ds : List Declared) (l : Label) (k : Station) : Bool :=
  ds.any fun d => d.decl.label == l && d.station != k

/-! ### The slot step -/

/-- What the slot step of one census completion reads. -/
structure Reconcile where
  census : Census
  self : Station
  listening : Bool
  /-- The remaining declarations. -/
  left : List Declared
  before : Vector Peer 32
  after : Vector Peer 32

/-- A station was heard. -/
def Reconcile.isHeard (r : Reconcile) (k : Station) : Bool := (r.census.heard r.self k).isSome

/-- A station departed at this census, or its entry was already ABSENT (R87, R88). -/
def Reconcile.gone (r : Reconcile) (k : Station) : Bool :=
  (r.before[k.toNat]'k.isLt).state == .absent || (r.after[k.toNat]'k.isLt).state == .absent

/-- A slot with a remaining declaration becomes HELD by the best declarer; an entry it holds already
keeps its readback damage count (R86). -/
def Entry.declare (d : Declared) (e : Entry) : Entry :=
  let h : Claimant := ⟨d.station, d.decl.label, d.decl.priority⟩
  match e with
  | .held old damage => .held h (if old.station = d.station then damage else 0)
  | _ => .held h 0

/-- A holder with no remaining declaration of the slot loses it (R87). -/
def Reconcile.loses (r : Reconcile) (h : Claimant) : Bool :=
  r.isHeard h.station || r.gone h.station || declaredByOther r.left h.label h.station

/-- The candidates of an undeclared UNSURE slot that stay in its list (R88). -/
def Reconcile.staying (r : Reconcile) (cs : List Claimant) : List Claimant :=
  cs.filter fun c => !r.gone c.station && !declaredByOther r.left c.label c.station

/-- The entry of a slot that no remaining declaration names (R87 to R89). -/
def Reconcile.undeclared (r : Reconcile) (e : Entry) : Entry :=
  match e with
  | .held h _ => if r.loses h then .free else e
  | .unsure cs =>
    let cs' := r.staying cs
    if cs'.all fun c => r.isHeard c.station then .free else .unsure cs'
  | .unknown => if r.listening || r.census.anyDamaged then .unknown else .free
  | _ => e

/-- The entry of a slot after the third step (R86 to R89). -/
def Reconcile.slot (r : Reconcile) (i : Fin 24) (e : Entry) : Entry :=
  match bestDeclared (declaredFor r.left i) with
  | some d => e.declare d
  | none => r.undeclared e

/-! ### The cycle number and the events -/

/-- The governing cycle number: that of the lowest-numbered heard station, and this station's own
number `own` where that station is this one (R91). -/
def Census.governing (c : Census) (self : Station) (own : BitVec 16) : Option (BitVec 16) :=
  allStations.findSome? fun k => (c.heard self k).map fun cell => if k = self then own else cell.cycle

/-- The cycle number is adopted, with CYCLE_ADJUST outside LISTENING (R91). -/
def State.adoptCycle (c : Census) (s : State) : State :=
  match c.governing s.number s.cycle with
  | some n =>
    { s with cycle := n }.raiseIf (n != s.cycle && s.membership != Membership.listening) .cycleAdjust
  | none => s

/-- Some peer-table entry changed its state (R92). -/
def peersChanged (old new : Vector Peer 32) : Bool :=
  (old.toList.map (·.state)) != (new.toList.map (·.state))

/-- Some entry changed its state, holder, label or priority (R92). -/
def mapRepaired (old new : Vector Slot 24) : Bool :=
  (old.toList.map (·.entry.face)) != (new.toList.map (·.entry.face))

/-- The inputs of the slot step at a census completion (R82). -/
def State.reconcileWith (c : Census) (s : State) : Reconcile :=
  { census := c, self := s.number, listening := s.membership == Membership.listening
    left := remaining (c.declared s.number), before := s.peers
    after := reconcilePeers c s.number (s.membership == Membership.listening) s.peers }

/-- The peer step and the slot step, with their events (R83 to R89, R92). -/
def State.reconcileTables (c : Census) (s : State) : State :=
  let r := s.reconcileWith c
  let slots := mapEntries r.slot s.slots
  ({ s with peers := r.after, slots := slots }.raiseIf (peersChanged s.peers r.after)
    .peerChange).raiseIf (s.membership.drives && mapRepaired s.slots slots) .censusRepair

/-- The stall-run attribute of an open PACED send stream is examined and set (R129). -/
def Stream.noteStallRun (st : Stream) : Stream :=
  if st.isSend && st.state.openSend && st.defn.cls == .paced then
    { st.signal st.stallRun with stallRun := true }
  else st

/-- The census completion takes the station from MEMBER to LOST, or from LEAVING to OFFLINE (R72,
R76): its own readback, `own`, is the second damaged one in a row. -/
def State.losesAt (own : Option Bool) (s : State) : Bool :=
  s.membership.drives && own == some false && Config.censusRunLimit ≤ s.censusRun + 1

/-- Reconciliation and its hand-on (R82 to R92, R129); the damage count is set to 0 (R70). A completion
that ends membership closes every stream, so the rules place none (R122). -/
def State.reconcile (c : Census) (s : State) : State :=
  let s' := (s.reconcileTables c).adoptCycle c
  let s' := s'.mapReport (fun _ => s.losesAt c.own) s.slots
  { s'.refreshIntent with damageCount := 0 }.mapStreams fun _ st => st.noteStallRun

/-! ### The transitions -/

/-- An entry is UNKNOWN in the map. -/
def State.anyUnknown (s : State) : Bool := s.slots.toList.any (·.entry == .unknown)

/-- Entry to MEMBER (R99). -/
def State.enterMember (s : State) : State :=
  { s with membership := .member, damageCount := 0, censusRun := 0 }.raise .joined

/-- The first census completion of a LISTENING station (R97). -/
def State.endListening (c : Census) (s : State) : State :=
  match c.arrival s.number with
  | .intact _ => s.enterRefused .duplicate
  | _ => { s with membership := .announcing }

/-- A census completion in ANNOUNCING (R81, R98). -/
def State.endAnnouncing (own : Option Bool) (s : State) : State :=
  match own with
  | some true => if s.anyUnknown then s else s.enterMember
  | some false =>
    let s' := { s with joinAttempts := s.joinAttempts + 1 }
    if Config.joinLimit ≤ s'.joinAttempts then s'.enterRefused .duplicate else s'
  | none => s

/-- A census completion in MEMBER or LEAVING (R72, R76, R81). -/
def State.endMember (own : Option Bool) (s : State) : State :=
  match own with
  | some true => { s with censusRun := 0 }
  | some false =>
    let s' := { s with censusRun := s.censusRun + 1 }
    if Config.censusRunLimit ≤ s'.censusRun then s'.lose else s'
  | none => s

/-- The membership transitions at census completion (R82, R97 to R100). -/
def State.censusTransition (c : Census) (s : State) : State :=
  match s.membership with
  | .listening => s.endListening c
  | .announcing => s.endAnnouncing c.own
  | .member | .leaving => s.endMember c.own
  | _ => s

/-- Census completion: reconciliation, the transitions, then the arbiter's choice for the header of
frame 1 (R59, R82, R99, R107). The choice is made after a damaged census header too (log 36), and a
stall run raises its event before a completion that ends in LOST closes the stream (log 37). -/
def State.completeCensus (c : Census) (s : State) : State :=
  if s.membership.maps then (((s.reconcile c).censusTransition c).chooseBid).finishClosing.checkLeft
  else s

end Sys2Proof.Machine
end

