-- ==== Sys2Proof/Machine/Cue.lean ====
section
/-! DEFINITION. The cue unit: local edges, trunk cue events, the precedence of cue actions, latches
and missed cues (R172 to R180). -/

namespace Sys2Proof.Machine

/-- A stream stands under a WAIT hold that has not been released (R147, R165). -/
def Stream.underHold (st : Stream) : Bool := if st.isSend then st.sendHold else st.listenHold

/-- The WAIT descriptor that holds a send stream, its head, is released (R176). -/
def Stream.releaseHead (st : Stream) : Stream :=
  match st.held with
  | d :: rest => { st with held := { d with released := true } :: rest }
  | [] => st

/-- The WAIT descriptor that holds a listen stream, its current one, is released (R179). -/
def Stream.releaseCurrent (st : Stream) : Stream :=
  { st with current := st.current.map fun d => { d with released := true } }

/-! ### At a header -/

/-- A latched cue is consumed by a WAIT hold at an intact header: at once by a send stream, at the
next frame start by a listen stream (R178, R179). -/
def Stream.consumeLatch (st : Stream) : Stream :=
  if st.isOpen && st.latched && st.underHold then
    if st.isSend then { st.releaseHead with latched := false }
    else { st with cueAction := some .consume }
  else st

/-- The stream is bound to a line whose CUE bit is set (R173). -/
def Stream.cued (bits : BitVec 4) (st : Stream) : Bool :=
  st.defn.cue.any fun b => bits.getLsbD b.line.toNat

/-- The binding has mode START_STOP. -/
def Stream.startStop (st : Stream) : Bool := st.defn.cue.any (·.mode == .startStop)

/-- The cue latch takes a cue, or loses it as a CUE_OVERRUN (R177). -/
def Stream.latchCue (st : Stream) : Stream := { st.signal st.latched with latched := true }

/-- The awaiting-cue attribute of a send stream changes (R174, R175). -/
def Stream.setAwaiting (b : Bool) (k : Station) (slots : Vector Slot 24) (st : Stream) : Stream :=
  { st with awaiting := b }.standing k slots

/-- The one cue action of a bound stream, in the order of precedence: start, stop, WAIT release,
latch. A listen stream's first three wait for the next frame start (R173 to R179). -/
def Stream.cueEvent (k : Station) (slots : Vector Slot 24) (st : Stream) : Stream :=
  if st.awaiting then
    if st.isSend then st.setAwaiting false k slots else { st with cueAction := some .start }
  else if st.startStop && !st.underHold then
    if st.isSend then st.setAwaiting true k slots else { st with cueAction := some .stop }
  else if st.underHold then
    if st.isSend then st.releaseHead else { st with cueAction := some .release }
  else st.latchCue

/-- What an intact header's CUE bits do to a stream. `skip`: its OPEN or CLOSE was taken at this
arrival, so no cue of it acts on the stream (R173). -/
def Stream.heedCue (bits : BitVec 4) (skip : Bool) (k : Station) (slots : Vector Slot 24)
    (st : Stream) : Stream :=
  let st := st.consumeLatch
  if st.isOpen && st.cued bits && !skip then st.cueEvent k slots else st

/-- The cue events of an intact header, in MEMBER and LEAVING (R173). -/
def State.heedCues (bits : BitVec 4) (commanded : Option (Fin 16)) (s : State) : State :=
  if s.membership.drives then
    ({ s with cueOut := s.cueOut ||| bits }.mapStreams fun n st =>
      st.heedCue bits (commanded == some n) s.number s.slots).cleanQueue
  else s

/-- A damaged header marks an open bound stream CUE_MISS, with its event and the pending mark
(R66, R180). -/
def Stream.missCue (st : Stream) : Stream :=
  if st.isOpen && st.defn.cue.isSome then
    { st with cueMiss := true, cueMissMark := true, event := true }
  else st

/-! ### At a frame start -/

/-- The cue action a listen stream decided at the previous header takes effect (R179). -/
def Stream.applyCue (slots : Vector Slot 24) (st : Stream) : Stream :=
  let st' := { st with cueAction := none }
  match st.cueAction with
  | none => st
  | some .start => { st' with awaiting := false, expectation := none }.listenRule slots
  | some .stop => ({ st' with awaiting := true }.listenRule slots).stopHandBack
  | some .release => st'.releaseCurrent
  | some .consume => { st'.releaseCurrent with latched := false }

/-! ### Pins -/

/-- A rising edge on a CUEIN pin (R172). -/
def State.cueEdge (pin : BitVec 2) (s : State) : State :=
  match s.membership, s.cueForward[pin.toNat]'pin.isLt with
  | .member, some line =>
    if s.cuePending.getLsbD line.toNat then s.raise .cueMerged
    else { s with cuePending := s.cuePending ||| 1#4 <<< line.toNat }
  | _, _ => s

/-- The pulse on a CUEOUT pin ends (R173). -/
def State.endPulse (line : BitVec 2) (s : State) : State :=
  { s with cueOut := s.cueOut &&& ~~~ (1#4 <<< line.toNat) }

end Sys2Proof.Machine
end

