-- ==== Sys2Proof/Machine/Trunk.lean ====
section
/-! DEFINITION. The arrivals of a frame, and what this station drives at its start: headers (R37, R62),
cells (R27), census cells (R18, R82), frame starts (R2 to R9) and timer expiries. -/

namespace Sys2Proof.Machine

/-! ### Headers -/

/-- The header of the frame in progress has arrived. -/
def State.setHeader (h : HeaderStatus) (s : State) : State :=
  { s with frame := s.frame.map fun f => { f with header := h } }

/-- The frame after this one is an ordinary frame: this one is a census frame, or its index is not
255 (R124). -/
def State.nextOrdinary (s : State) (f : Frame) : Bool := f.census || s.index != 255

/-- A STANDING command is pending. -/
def State.standingPending (s : State) : Bool := s.command.any (·.code == .setStanding)

/-- The pending command is taken and, at a census header, the census cell is composed. Which of a
STANDING command and the composition comes first is free (R79, R93, R187, log 7). -/
def State.commandAndCell (f : Frame) (s : State) : State :=
  if !f.census then s.takeCommand
  else if s.standingPending then
    let s' := if Config.standingFirst s.free then s.takeCommand.driveCensus
      else s.driveCensus.takeCommand
    { s' with free := s.free + 1 }
  else s.takeCommand.driveCensus

/-- What every handled header ends with: its bid has been handled (R130), CLOSING streams may have
closed (R132), ring ends are read again at an ordinary header (R144, R158), and a LEAVING station
may be done (R101). -/
def State.finishHeader (f : Frame) (s : State) : State :=
  let s := { s with bidDriven := none }.finishClosing
  (if f.census then s else s.mapStreams fun _ st => st.pollRingEnd).checkLeft

/-- The choice of words after an intact header (R124, R128): the map was `old` when it arrived. -/
def State.chooseAll (old : Vector Slot 24) (stall : BitVec 24) (f : Frame) (s : State) : State :=
  s.mapStreams fun _ st =>
    let st := if f.census then st else st.noteStall s.number old s.slots stall
    if s.nextOrdinary f then
      st.chooseWords s.number s.slots (st.heldByStall s.number old s.slots stall)
    else st.chooseNone

/-- The choice of words after a damaged header: a PACED stream sends nothing (R65). -/
def State.chooseUnheard (f : Frame) (s : State) : State :=
  s.mapStreams fun _ st =>
    if s.nextOrdinary f then st.chooseWords s.number s.slots true else st.chooseNone

/-- The arbiter chooses at an intact header of an ordinary frame of index 1 to 254 (R107). -/
def State.chooseAtHeader (f : Frame) (s : State) : State :=
  if !f.census && s.index != 255 then s.chooseBid else { s with chosenBid := none }

/-- The fields of an intact header, as the frame's kind has them (R10). -/
def headerFields (f : Frame) (bits : HeaderBits) : Header :=
  if f.census then parseCensusHeader bits else parseHeader bits

/-- The map's part of an intact header: settle, judge, release, and report (R34, R37, R49). -/
def State.mapHeader (h : Header) (s : State) : State :=
  ((s.handleHeader h).mapReport s.closesPending s.slots).refreshIntent

/-- An intact header in ANNOUNCING, MEMBER or LEAVING: the map, then the command, the cues, the
choice of words and the choice of the bid (R37, R107, R124, R173, R187). -/
def State.judgeHeader (bits : HeaderBits) (f : Frame) (s : State) : State :=
  let h := headerFields f bits
  let old := s.slots
  let s := (s.countWin (arbitrationRead bits)).mapHeader h
  let s' := (s.commandAndCell f).heedCues h.cue s.commandedStream
  ((s'.chooseAll old h.stall f).chooseAtHeader f).finishHeader f

/-- An intact header (R37); in LISTENING and LOST only a command is taken at it (R21, R187). -/
def State.intactHeader (bits : HeaderBits) (f : Frame) (s : State) : State :=
  let s := s.setHeader (.intact (headerFields f bits).valid)
  if s.membership.judges then s.judgeHeader bits f else s.takeCommand

/-- A station in MEMBER or LEAVING owes a veto for a damaged header and misses its cues
(R50, R66). -/
def State.oweVeto (s : State) : State :=
  if s.membership.drives then { s with vetoOwed := true }.mapStreams fun _ st => st.missCue else s

/-- A damaged header in ANNOUNCING, MEMBER or LEAVING that does not end membership
(R62 to R66). -/
def State.missHeader (arb : List Halves) (f : Frame) (s : State) : State :=
  let old := s.slots
  let s := { s.countWin (arb.map bitOfHalves) with chosenBid := none }
  let s := (s.unsettleAll.mapReport s.closesPending old).refreshIntent
  ((s.oweVeto.commandAndCell f).chooseUnheard f).finishHeader f

/-- A damaged header (R62). In MEMBER and LEAVING it counts, and the fifth of a cycle ends
membership; a command is then judged in LOST (R70, R71, R187). A LEAVING station enters OFFLINE before
the command would be taken, so the command is dropped (log 40). -/
def State.damagedHeader (arb : List Halves) (f : Frame) (s : State) : State :=
  let s := s.setHeader .damaged
  if s.membership.drives then
    let s := { s with damageCount := s.damageCount + 1 }
    if Config.damageLimit ≤ s.damageCount then s.lose.takeCommand else s.missHeader arb f
  else if s.membership.judges then s.missHeader arb f
  else s.takeCommand

/-- The frame in progress is still to bring its header. -/
def State.headerDue (s : State) : Option Frame :=
  s.frame.filter fun f => s.membership.receives && f.header == .due

/-- A header arrives. In a frame that opened unexpectedly it is treated as damaged, whatever its
bits read (R5, R6, R11); the station drove no bid in it (R7). -/
def State.takeHeader (rx : HeaderRx) (s : State) : State :=
  match s.headerDue with
  | none => s
  | some f =>
    match rx with
    | .damaged arb => s.damagedHeader arb f
    | .intact bits => if f.unexpected then s.damagedHeader [] f else s.intactHeader bits f

/-! ### Cells -/

/-- The VALID bit of a slot in the header of the frame, if that arrived intact (R15). -/
def Frame.validAt (f : Frame) (i : Nat) : Option Bool :=
  match f.header with
  | .intact v => some (v.getLsbD i)
  | _ => none

/-- The frame in progress brings a cell next. -/
def State.cellDue (s : State) : Option Frame :=
  s.frame.filter fun f =>
    s.membership.receives && !f.census && f.header != .due && f.arrived < Config.slotCount

/-- The readback of this station's cell in a slot: intact when the arrival is intact and every field
equals what it drove (R16). The cells it drives are fixed at the frame start, so in a frame cut short
a cell whose turn had not come counts as driven, and its readback is damaged (log 34). -/
def State.readbackOf (s : State) (i : Nat) (rx : CellRx) : Option Bool :=
  (s.drive.cells[i]?.getD none).map fun c => rx == .intact c

/-- The listeners and the map act on a cell arrival in slot `i`, and then on the readback
(R16, R27, R34, R159). -/
def State.cellActs (i : Nat) (rx : CellRx) (s : State) : State :=
  let heard := s.mapStreams fun _ st => st.hearCell i rx s.slots s.stamp
  let own := if s.membership.drives then s.readbackOf i rx else none
  ((((heard.resolveCell i rx).applyReadback i own).mapReport (fun _ => false) s.slots).refreshIntent
    ).finishClosing.checkLeft

/-- The next cell of the frame has arrived. -/
def State.countCell (s : State) : State :=
  { s with frame := s.frame.map fun f => { f with arrived := f.arrived + 1 } }

/-- The next cell of the frame in progress, slot `i`, arrives. -/
def State.takeCell (i : Nat) (rx : CellRx) (s : State) : State :=
  if s.membership.maps then s.countCell.cellActs i rx else s.countCell

/-- The contents of the next slot arrive (R15). -/
def State.cellArrives (bits : CellBits) (s : State) : State :=
  match s.cellDue with
  | none => s
  | some f => s.takeCell f.arrived (classifyCell (f.validAt f.arrived) bits)

/-! ### Census cells -/

/-- The frame in progress brings a census cell next. -/
def State.censusDue (s : State) : Option Frame :=
  s.frame.filter fun f =>
    s.membership.receives && f.census && f.header != .due && f.arrived < Config.censusCellCount

/-- The readback of this station's own census cell, if `k` is its number and it drove one (R18). -/
def State.censusReadback (s : State) (k : Nat) (rx : CensusRx) : Option Bool :=
  if k = s.number.toNat then s.drive.census.map fun c => rx == .intact c else none

/-- The frame with one more census cell. -/
def Frame.addCensus (f : Frame) (rx : CensusRx) (own : Option Bool) : Frame :=
  { f with arrived := f.arrived + 1, heard := f.heard ++ [rx], ownReadback := own <|> f.ownReadback }

/-- The next census cell of the frame in progress arrives; census cell 31 is census completion
(R18, R82). -/
def State.takeCensus (f : Frame) (rx : CensusRx) (s : State) : State :=
  let f' := f.addCensus rx (s.censusReadback f.arrived rx)
  let s' := { s with frame := some f' }
  if f'.arrived = Config.censusCellCount then s'.completeCensus ⟨f'.heard, f'.ownReadback⟩ else s'

/-- The contents of the next census cell arrive (R18). -/
def State.censusArrives (bits : CensusBits) (s : State) : State :=
  match s.censusDue with
  | none => s
  | some f => s.takeCensus f (classifyCensus f.arrived bits)

/-! ### A frame cut short -/

/-- What a frame start ends brings its next cell: damaged if its VALID bit was received set, else
silent; a census cell arrives damaged (R9). What this station was to drive there counts as driven
(log 34). -/
def State.cutOne (s : State) : State :=
  match s.frame with
  | none => s
  | some f =>
    if f.census then s.takeCensus f .damaged
    else s.takeCell f.arrived (if f.validAt f.arrived = some true then .damaged else .silent)

/-- `n` cells of a frame cut short. -/
def State.cutCells : Nat → State → State
  | 0, s => s
  | n + 1, s => cutCells n s.cutOne

/-- The cells, or census cells, a frame has. -/
def Frame.size (f : Frame) : Nat := if f.census then Config.censusCellCount else Config.slotCount

/-- A frame start ends the frame in progress: what it had not delivered arrives first (R9). -/
def State.cutShort (arb : List Halves) (s : State) : State :=
  match s.frame with
  | none => s
  | some f => (s.takeHeader (.damaged arb)).cutCells (f.size - f.arrived)

/-! ### A frame start -/

/-- The frame opens other than the station expected: a census slip or a missed census mark
(R5, R6). -/
def State.opensWrong (mark : Bool) (s : State) : Bool :=
  s.aligned && (mark != (s.index == 255))

/-- The bootstrap count after a frame start (R8). -/
def State.bootstrapAfter (mark : Bool) (s : State) : Nat :=
  if !s.aligned && !mark && s.membership == .listening then s.bootstrap + 1 else s.bootstrap

/-- The frame start makes a station keep the census itself (R8). -/
def State.bootstraps (mark : Bool) (s : State) : Bool :=
  !s.aligned && !mark && s.membership == .listening
    && Config.bootstrapLimit ≤ s.bootstrapAfter mark

/-- The frame index after a frame start (R4 to R6, R8). -/
def State.indexAfter (mark : Bool) (s : State) : BitVec 8 :=
  if mark then 0
  else if s.aligned then (if s.index = 255 then 255 else s.index + 1)
  else if s.bootstraps mark then 255 else 0

/-- The frame that a frame start opens. -/
def State.newFrame (mark : Bool) (s : State) : Frame :=
  { census := mark, unexpected := s.membership.drives && s.opensWrong mark, header := .due
    arrived := 0, heard := [], ownReadback := none }

/-- A frame start: the timer restarts, the index and at a census mark the cycle number move on, and
the frame opens (R2 to R8, R91). -/
def State.startFrame (mark : Bool) (s : State) : State :=
  { s with
    timer := if mark then .census else .ordinary
    tsync := .undriven
    index := s.indexAfter mark
    aligned := s.aligned || mark || s.bootstraps mark
    bootstrap := s.bootstrapAfter mark
    cycle := if mark then s.cycle + 1 else s.cycle
    frame := some (s.newFrame mark) }

/-- The first census frame start after entry to LOST puts the station in LISTENING (R75, R97). -/
def State.endLost (mark : Bool) (s : State) : State :=
  if mark && s.membership == .lost then
    { s with membership := .listening, joinAttempts := 0, bootstrap := 0 }
  else s

/-- The slots for which some listener of this station asks for stall (R164). -/
def State.stallMask (s : State) : BitVec 24 :=
  slotMask fun i => s.streams.toList.any fun o => o.any fun st =>
    st.asksStall s.slots && (carriers s.slots st.defn.label).contains i

/-- The RELEASE bits: intended slots whose entries are HELD by this station (R47). -/
def State.releaseMask (s : State) : BitVec 24 :=
  slotMask fun i => s.slots[i].intent && s.slots[i].entry.heldBy s.number

/-- The VALID bits of the cells driven (R14). -/
def validMask (cells : Vector (Option Cell) 24) : BitVec 24 := slotMask fun i => cells[i].isSome

/-- What a MEMBER or LEAVING station drives in the frame that has just opened (R7, R10, R33, R47,
R50, R115, R125, R164, R172). -/
def State.frameDrive (f : Frame) (s : State) : Drive :=
  let expected := !f.census && !f.unexpected
  let cells := Vector.ofFn fun i : Fin 24 => s.cellDriven expected i
  { header :=
      { veto := s.vetoOwed
        cue := s.cuePending
        valid := validMask cells
        stall := if f.census then 0 else s.stallMask
        release := if f.census then 0 else s.releaseMask
        bid := if expected then s.chosenBid.map (·.bid) else none }
    bidBits := []
    cells := cells
    census := none }

/-- A MEMBER or LEAVING station drives its values, which are then spent (R50, R115, R125, R164,
R172). -/
def State.driveFrame (f : Frame) (s : State) : State :=
  let expected := !f.census && !f.unexpected
  { s with
    drive := s.frameDrive f
    vetoOwed := false
    cuePending := 0
    bidDriven := if expected then s.chosenBid else none
    chosenBid := none }.mapStreams fun _ st =>
      let st := s.spendWords expected st
      if f.census then st else st.listenStall s.slots

/-- A station that drives no header field drives nothing at the frame start (R1). -/
def State.driveNothing (s : State) : State :=
  { s with drive := Drive.nothing, bidDriven := none, chosenBid := none }

/-- The listen streams' cue actions take effect (R179). -/
def State.applyCues (s : State) : State := s.mapStreams fun _ st => st.applyCue s.slots

/-- The halves of the header bits that this station has driven, once the header has arrived: of BID up
to where it stopped (R10 to R12, R195). -/
def Drive.headerHalves (census : Bool) (d : Drive) : List Halves :=
  if census then sendHeader (encodeCensusHeader d.header)
  else (sendHeader (encodeHeader d.header)).take 77 ++ d.bidBits.map halvesOf

/-- The frame opens: what waits for its start takes effect, and the station drives. A stream that was
CLOSING for a bid dropped at this frame start passes to CLOSED (R115, R130, R132). -/
def State.openFrame (mark : Bool) (s : State) : State :=
  let s := ((s.startFrame mark).endLost mark).applyCues
  match s.frame with
  | some f =>
    (if s.membership.drives then (s.driveFrame f).finishClosing else s.driveNothing).checkLeft
  | none => s

/-- The edge is a census mark: the line stays driven, by a peer or by this station's own mark
(R4, log 8). -/
def State.edgeIsMark (mark : Bool) (s : State) : Bool := mark || s.tsync == .mark

/-- A frame start arrival (R1, R9): the frame in progress ends, then the new one opens, if the
station still takes arrivals. -/
def State.frameStarts (mark : Bool) (arb : List Halves) (s : State) : State :=
  if s.membership.receives then
    let s' := s.cutShort arb
    if s'.membership.receives then s'.openFrame (s'.edgeIsMark mark) else s'
  else s

/-! ### Timer expiries -/

/-- The quiet wait runs out: the station drives a plain edge (R3). -/
def State.quietWaitEnds (s : State) : State :=
  if s.timer = .quietWait then { s with timer := .expired, tsync := .plain } else s

/-- The frame timer runs out: the station drives the census mark when it is ALIGNED with index 255,
a plain edge otherwise (R2, R4). -/
def State.frameTimerEnds (s : State) : State :=
  if s.timer = .ordinary ∨ s.timer = .census then
    { s with
      timer := .expired
      tsync := if s.aligned && s.index == 255 then .mark else .plain }
  else s

end Sys2Proof.Machine
end

