-- ==== Sys2Proof/Machine/Port.lean ====
section
/-! DEFINITION. The master port and the ends of its transactions (R143, R153, R167, R169, R183). -/

namespace Sys2Proof.Machine

/-! ### Issuing and granting -/

/-- Stream `n` places after the one served last (R183). -/
def State.inTurn (s : State) (n : Fin 16) : Fin 16 := s.portLast + 1 + n

/-- The stream the port serves next: the first in turn that has a transaction ready (R183). -/
def State.nextServed (s : State) : Option (Fin 16) :=
  ((List.finRange 16).map s.inTurn).find? fun n => s.streams[n].any (·.op.isSome)

/-- The engines issue what they can (R143, R167). -/
def State.issueAll (s : State) : State := s.mapStreams fun _ st => st.issue

/-- The port takes the next transaction in turn when it serves none (R183). -/
def State.grant (s : State) : State :=
  if s.portServing.isSome then s else { s with portServing := s.nextServed }

/-- What the ring engines and the port do at the end of a command. -/
def State.pump (s : State) : State := s.issueAll.grant

/-! ### The transaction that ends -/

/-- The transaction the port serves, with its stream. -/
structure Served where
  stream : Fin 16
  record : Stream
  op : BusOp

/-- The transaction the port serves (R183). -/
def State.served (s : State) : Option Served :=
  s.portServing.bind fun n => s.streams[n].bind fun st => st.op.map fun op => ⟨n, st, op⟩

/-- The transaction the port serves ends: the stream has none outstanding, and the port has served
it last (R143, R167, R183). -/
def State.endOp (n : Fin 16) (s : State) : State :=
  { s.onStream n fun st => { st with op := none } with portServing := none, portLast := n }

/-- A read ends for the stream that the port serves, a send or a listen stream as `send` says, when
`f` has a meaning for its kind; discarded data change nothing more (R151, R168). -/
def State.endRead (send : Bool) (f : BusKind → Option (Stream → Stream)) (s : State) : State :=
  match s.served with
  | none => s
  | some v =>
    if v.record.isSend = send then
      match f v.op.kind with
      | none => s
      | some g => if v.op.discard then s.endOp v.stream else (s.endOp v.stream).onStream v.stream g
    else s

/-- A write ends for the stream that the port serves, when `f` has a meaning for its kind; it has
put words into host memory. -/
def State.endWrite (send : Bool) (f : BusKind → Option (Stream → Stream × List (Word × Word)))
    (s : State) : State :=
  match s.served with
  | none => s
  | some v =>
    if v.record.isSend = send then
      match f v.op.kind with
      | none => s
      | some g =>
        { (s.endOp v.stream).onStream v.stream fun st => (g st).1 with
          hostWrite := (g { v.record with op := none }).2 }
    else s

/-! ### Send streams -/

/-- What the end of a descriptor read does to a send stream (R143). -/
def sendDescriptorEnd (w : Word) (now : Stamp) : BusKind → Option (Stream → Stream)
  | .firstWord => some (Stream.sendFirstRead w now)
  | .secondWord _ _ => some (Stream.sendSecondRead w)
  | _ => none

/-- What the end of a buffer read does, if it brings the words that were asked for (R143). -/
def sendBufferEnd (words : List Word) : BusKind → Option (Stream → Stream)
  | .bufferRead n => if words.length = n then some (Stream.sendBufferDone words) else none
  | _ => none

/-- What the end of a status write does to a send stream (R149). -/
def sendStatusEnd : BusKind → Option (Stream → Stream × List (Word × Word))
  | .statusWrite => some Stream.sendStatusDone
  | _ => none

/-- What the end of a first-word write does to a send stream (R149). -/
def sendHandBackEnd : BusKind → Option (Stream → Stream × List (Word × Word))
  | .handBack => some Stream.sendHandBackDone
  | _ => none

/-! ### Listen streams -/

/-- What the end of a descriptor read does to a listen stream (R157). -/
def listenDescriptorEnd (w : Word) : BusKind → Option (Stream → Stream)
  | .firstWord => some (Stream.listenFirstRead w)
  | .secondWord _ _ => some (Stream.listenSecondRead w)
  | _ => none

/-- What the end of a word write does to a listen stream (R167). -/
def listenWordsEnd : BusKind → Option (Stream → Stream × List (Word × Word))
  | .wordWrite n => some (Stream.listenWordsDone n)
  | _ => none

/-- What the end of a status write does to a listen stream (R167). -/
def listenStatusEnd (now : Stamp) : BusKind → Option (Stream → Stream × List (Word × Word))
  | .statusWrite => some (Stream.listenStatusDone now)
  | _ => none

/-- What the end of a first-word write does to a listen stream (R167). -/
def listenHandBackEnd : BusKind → Option (Stream → Stream × List (Word × Word))
  | .handBack => some Stream.listenHandBackDone
  | _ => none

/-! ### Bus errors -/

/-- What a bus error does to the stream's ring, given the stream before the closure and after it
(R153, R169). -/
def Stream.faulted (kind : BusKind) (now : Stamp) (before closed : Stream) : Stream :=
  if before.isSend then Stream.sendFault kind now before closed
  else Stream.listenFault kind closed

/-- A bus error on the transaction the port serves, for a send or a listen stream as `send` says.
The stream is closed with reason BUS_FAULT (R133) and its descriptors are handled by the kind of
transaction (R153, R169). An error on a read that a closure discarded is not acted on for a send
stream (R151); R168 and R169 make no such exception for a listen stream. -/
def State.busError (send : Bool) (s : State) : State :=
  match s.served with
  | none => s
  | some v =>
    if v.record.isSend = send then
      let s' := s.endOp v.stream
      if v.op.discard && v.record.isSend then s'
      else (s'.closeOne .busFault v.stream).onStream v.stream
        (Stream.faulted v.op.kind s.stamp v.record)
    else s

end Sys2Proof.Machine
end

