-- ==== Sys2Proof/Machine/Arrivals.lean ====
section
/-! DEFINITION. The meanings of the trunk's arrivals, the timers and the cue pins. A row that names a
threshold is the arrival at which the threshold is reached; where it is not reached the row is no
event and changes nothing (log 2). -/

namespace Sys2Proof.Machine

/-! ### Pins and timers -/

/-- CUE_EDGE (R172). -/
def execCueEdge (pin : BitVec 2) (s : State) : Host.Outcome State Fault Refusal :=
  .next (s.cueEdge pin)

/-- CUEOUT_PULSE_END (R173). -/
def execCueoutPulseEnd (line : BitVec 2) (s : State) : Host.Outcome State Fault Refusal :=
  .next (s.endPulse line)

/-- QUIET_WAIT_EXPIRY (R3). -/
def execQuietWaitExpiry (s : State) : Host.Outcome State Fault Refusal := .next s.quietWaitEnds

/-- FRAME_TIMER_EXPIRY (R2, R4). -/
def execFrameTimerExpiry (s : State) : Host.Outcome State Fault Refusal := .next s.frameTimerEnds

/-! ### Frame starts -/

/-- FRAME_START (R4 to R9). -/
def execFrameStart (mark : Bool) (arb : List Halves) (s : State) :
    Host.Outcome State Fault Refusal :=
  .next (s.frameStarts mark arb).pump

/-- BOOTSTRAP: the plain frame start that brings the count to 512 (R8). -/
def execBootstrap (arb : List Halves) (s : State) : Host.Outcome State Fault Refusal :=
  .next (if s.bootstraps false then (s.frameStarts false arb).pump else s)

/-! ### Headers -/

/-- HEADER_ARRIVAL (R37). -/
def execHeaderArrival (bits : HeaderBits) (s : State) : Host.Outcome State Fault Refusal :=
  .next (s.takeHeader (.intact bits)).pump

/-- DAMAGED_HEADER (R62). -/
def execDamagedHeader (arb : List Halves) (s : State) : Host.Outcome State Fault Refusal :=
  .next (s.takeHeader (.damaged arb)).pump

/-- The age of a win record would reach 31 at the next header arrival (R108). -/
def State.winExpires (s : State) : Bool := s.wins.any (Config.winAge ≤ · + 1)

/-- WIN_RECORD_EXPIRY: a header arrival that removes a win record (R108). -/
def execWinRecordExpiry (header : HeaderRx) (s : State) : Host.Outcome State Fault Refusal :=
  .next (if s.winExpires then (s.takeHeader header).pump else s)

/-- The next damaged header ends membership (R71). -/
def State.atDamageLimit (s : State) : Bool :=
  s.membership.drives && Config.damageLimit ≤ s.damageCount + 1

/-- DAMAGE_LIMIT: the damaged header that brings the damage count to 5 (R71). -/
def execDamageLimit (arb : List Halves) (s : State) : Host.Outcome State Fault Refusal :=
  .next (if s.atDamageLimit then (s.takeHeader (.damaged arb)).pump else s)

/-! ### Cells -/

/-- CELL_ARRIVAL (R15, R27). -/
def execCellArrival (bits : CellBits) (s : State) : Host.Outcome State Fault Refusal :=
  .next (s.cellArrives bits).pump

/-- The entry is HELD by a station, with one damaged readback short of a collision (R32). -/
def Entry.collides (k : Station) : Entry → Bool
  | .held h damage => h.station == k && Config.collisionLimit ≤ damage + 1
  | _ => false

/-- The contents of the next slot bring the second damaged readback in a row (R32). -/
def State.collisionIn (bits : CellBits) (s : State) : Bool :=
  s.cellDue.any fun f =>
    s.membership.drives
      && s.readbackOf f.arrived (classifyCell (f.validAt f.arrived) bits) == some false
      && s.slots[f.arrived]?.any (·.entry.collides s.number)

/-- READBACK_COLLISION (R32). -/
def execReadbackCollision (bits : CellBits) (s : State) : Host.Outcome State Fault Refusal :=
  .next (if s.collisionIn bits then (s.cellArrives bits).pump else s)

/-! ### Census cells -/

/-- CENSUS_CELL_ARRIVAL (R18, R82). -/
def execCensusCellArrival (bits : CensusBits) (s : State) : Host.Outcome State Fault Refusal :=
  .next (s.censusArrives bits).pump

/-- The contents of the next census cell complete a census whose own readback was damaged
(R18, R81). -/
def State.ownDamagedAt (bits : CensusBits) (s : State) : Bool :=
  s.censusDue.any fun f =>
    let rx := classifyCensus f.arrived bits
    f.arrived + 1 == Config.censusCellCount
      && (f.addCensus rx (s.censusReadback f.arrived rx)).ownReadback == some false

/-- JOIN_ATTEMPTS_LIMIT (R98). -/
def execJoinAttemptsLimit (bits : CensusBits) (s : State) : Host.Outcome State Fault Refusal :=
  .next (if s.membership = .announcing ∧ Config.joinLimit ≤ s.joinAttempts + 1
            ∧ s.ownDamagedAt bits = true
    then (s.censusArrives bits).pump else s)

/-- CENSUS_READBACK_LIMIT (R72, R76). -/
def execCensusReadbackLimit (bits : CensusBits) (s : State) : Host.Outcome State Fault Refusal :=
  .next (if s.membership.drives = true ∧ Config.censusRunLimit ≤ s.censusRun + 1
            ∧ s.ownDamagedAt bits = true
    then (s.censusArrives bits).pump else s)

end Sys2Proof.Machine
end

