-- ==== Sys2Proof/Machine/Window.lean ====
section
/-! DEFINITION. The register window as the host reads it: registers and table windows (R36, R94, R138,
R181, R182, R192, R199, R200), and the writes to its registers. -/

namespace Sys2Proof.Machine

/-! ### Codes (R199, R200) -/

/-- Code of a membership state (R199). -/
def Membership.code : Membership → BitVec 4
  | .offline => 0
  | .loading => 1
  | .listening => 2
  | .announcing => 3
  | .member => 4
  | .leaving => 5
  | .lost => 6
  | .refused => 7

/-- Code of a refusal reason (R199). -/
def RefusalReason.code : RefusalReason → BitVec 3
  | .none => 0
  | .profile => 1
  | .profileFault => 2
  | .duplicate => 3

/-- Code of a profile fault (R199). -/
def ProfileFault.code : ProfileFault → BitVec 4
  | .none => 0
  | .format => 1
  | .count => 2
  | .check => 3
  | .station => 4
  | .label => 5
  | .width => 6
  | .ringBase => 7
  | .sendLabel => 8

/-- Code of a command result (R199). -/
def CommandResult.code : CommandResult → BitVec 3
  | .none => 0
  | .done => 1
  | .queueFull => 2
  | .badStream => 3
  | .wrongState => 4
  | .notMember => 5

/-- Code of a close reason (R199). -/
def CloseReason.code : CloseReason → BitVec 3
  | .none => 0
  | .host => 1
  | .lost => 2
  | .leave => 3
  | .labelClash => 4
  | .busFault => 5

/-- Code of a stream state (R200). -/
def StreamState.code : StreamState → BitVec 4
  | .closed => 0
  | .claiming => 1
  | .armed => 2
  | .running => 3
  | .repairing => 4
  | .suspended => 5
  | .closing => 6
  | .seeking => 8
  | .tuned => 9

/-- Code of a peer state (R200). -/
def PeerState.code : PeerState → BitVec 2
  | .unheard => 0
  | .present => 1
  | .missing => 2
  | .absent => 3

/-! ### Table windows -/

/-- The lowest-numbered candidate (R36). -/
def lowestCandidate (cs : List Claimant) : Option Claimant := bestBy (fun c => 31 - c.station.toNat) cs

/-- The fields of a claimant in a slot-map entry (R200). -/
def Claimant.window (c : Claimant) : Word :=
  place 6 c.priority ||| place 8 c.station ||| place 16 c.label

/-- A slot-map entry as the window shows it (R36, R200). The candidate count is that of an UNSURE
entry and reads 0 in every other (log 42). -/
def Entry.window : Entry → Word
  | .unknown => 0
  | .free => 1
  | .held h _ => 2 ||| h.window
  | .claimPending c _ => 3 ||| c.bidder.window
  | .releasePending h => 4 ||| h.window
  | .unsure cs =>
    5 ||| place 4 (BitVec.ofNat 2 cs.length) ||| (lowestCandidate cs).elim 0 Claimant.window

/-- The two words of a peer-table entry (R94, R200). -/
def State.peerWords (s : State) (k : Fin 32) : List Word :=
  let p := s.peers[k]
  [ place 0 p.state.code ||| place 2 (BitVec.ofNat 2 p.unheard) ||| placeBit 4 p.standing.isSome
      ||| place 8 (BitVec.ofNat 4 (heldCount s.slots (BitVec.ofNat 5 k.val)))
      ||| place 16 (p.lastHeard.getD 0),
    p.standing.getD 0 ]

/-- The slot count of a stream (R138). -/
def State.slotCountOf (s : State) (st : Stream) : Nat :=
  if st.isSend then (ownHoldings s.slots s.number st.defn.label).length
  else (carriers s.slots st.defn.label).length

/-- The next sequence as shown: a listener shows its expectation, 0 while absent (R159). -/
def Stream.shownSeq (st : Stream) : BitVec 4 :=
  if st.isSend then st.nextSeq else st.expectation.getD 0

/-- The four words of a stream-status entry; zero for a stream that is not defined (R138, R200). -/
def State.streamWords (s : State) (n : Fin 16) : List Word :=
  match s.streams[n] with
  | none => [0, 0, 0, 0]
  | some st =>
    [ place 0 st.state.code ||| placeBit 4 (!st.isSend) ||| place 8 st.closeReason.code
        ||| place 16 st.defn.label,
      placeBit 0 st.stalled ||| placeBit 1 st.starved ||| placeBit 2 st.latched
        ||| placeBit 3 st.cueMiss ||| placeBit 4 st.overrunSeen ||| placeBit 8 st.awaiting
        ||| placeBit 9 st.everFull,
      place 0 st.ringIndex ||| place 8 st.shownSeq
        ||| place 16 (BitVec.ofNat 5 (s.slotCountOf st)),
      0 ]

/-! ### Registers -/

/-- STATION STATUS (R182, R199). -/
def State.statusWord (s : State) : Word :=
  place 0 s.membership.code ||| place 4 s.refusalReason.code ||| place 8 s.profileFault.code
    ||| place 12 s.faultStream ||| place 16 (BitVec.ofNat 3 s.damageCount)
    ||| place 20 (BitVec.ofNat 2 s.joinAttempts)

/-- COMMAND STATUS (R187, R199). -/
def State.commandStatusWord (s : State) : Word :=
  placeBit 0 s.command.isSome ||| placeBit 1 s.rejected ||| place 4 s.lastResult.code

/-- A register below the windows, by its offset; an offset that names no register reads 0, and so
does a WO register (R181, R182, R199). -/
def State.registerWord (s : State) (offset : Nat) : Word :=
  if offset = 0x000 then (Config.vendorCode ++ Config.partCode : BitVec (16 + 16))
  else if offset = 0x008 then s.statusWord
  else if offset = 0x00C then s.profileAddress
  else if offset = 0x014 then s.commandArgument
  else if offset = 0x018 then s.commandStatusWord
  else if offset = 0x01C then place 0 s.eventsRead
  else if offset = 0x020 then place 0 s.eventEnable
  else if offset = 0x024 then place 0 s.streamEvents
  else if offset = 0x028 then place 0 s.streamEventEnable
  else if offset = 0x02C then place 0 s.stamp
  else 0

/-- The entry of a several-word window that holds an offset: its first word's offset and its words
as they stand (R192). -/
def State.entryAt (s : State) (offset : Nat) : Option Capture :=
  if 0x200 ≤ offset ∧ offset < 0x300 then
    let k := (offset - 0x200) / 8
    some ⟨0x200 + 8 * k, s.peerWords (Fin.ofNat 32 k)⟩
  else if 0x300 ≤ offset ∧ offset < 0x400 then
    let n := (offset - 0x300) / 16
    some ⟨0x300 + 16 * n, s.streamWords (Fin.ofNat 16 n)⟩
  else none

/-- Word `i` of a captured or live entry. -/
def Capture.wordAt (c : Capture) (offset : Nat) : Word := c.words.getD ((offset - c.base) / 4) 0

/-- A word of an entry: live for its first word and for an entry the capture does not hold, else
from the capture (R192). -/
def State.entryWord (s : State) (live : Capture) (offset : Nat) : Word :=
  if offset = live.base then live.wordAt offset
  else match s.capture with
    | some c => if c.base = live.base then c.wordAt offset else live.wordAt offset
    | none => live.wordAt offset

/-- The word at a word-aligned offset of the register window (R181, R182). -/
def State.readWord (s : State) (offset : Nat) : Word :=
  match s.entryAt offset with
  | some live => s.entryWord live offset
  | none =>
    if h : 0x100 ≤ offset ∧ offset < 0x160 then
      (s.slots[(offset - 0x100) / 4]'(by omega)).entry.window
    else s.registerWord offset

/-- A read of fewer than four bytes returns the addressed bytes of the whole word (R182). It captures
no entry, not even at a first word (log 41). -/
def State.readBytes (s : State) (offset bytes : Nat) : Word :=
  (s.readWord (4 * (offset / 4)) >>> (8 * (offset % 4))) &&& ((1#32 <<< (8 * bytes)) - 1)

/-- A read of a word: a first word of an entry is captured with its entry, and no other read has an
effect (R182, R192). -/
def State.readAndCapture (offset : Nat) (s : State) : State :=
  { s with
    readData := s.readWord offset
    capture := match s.entryAt offset with
      | some live => if offset = live.base then some live else s.capture
      | none => s.capture }

/-- The word of a word-addressed bus that an offset lies in (electrical summary, log 30). -/
def wordOffset (offset : BitVec 12) : Nat := 4 * (offset.toNat / 4)

/-- A host read of the word at an offset (R182). -/
def State.hostRead (offset : BitVec 12) (s : State) : State := s.readAndCapture (wordOffset offset)

/-! ### Writes -/

/-- A write to PROFILE ADDRESS is honoured in OFFLINE and REFUSED only (R185). -/
def State.writeProfileAddress (v : Word) (s : State) : State :=
  if s.membership = .offline ∨ s.membership = .refused then { s with profileAddress := wordAligned v }
  else s

/-- A write to STREAM EVENTS clears the bits written 1 (R191). -/
def State.clearStreamEvents (v : Word) (s : State) : State :=
  s.mapStreams fun n st => { st with event := st.event && !v.getLsbD n.val }

/-- A write to STATION CONTROL (R184). A LEAVE taken in MEMBER closes streams, whose engines then
issue their hand-backs (R149, R167). -/
def State.writeStationControl (v : Word) (s : State) : State :=
  let t := s.writeControl (v.getLsbD 0) (v.getLsbD 1) (v.getLsbD 2)
  if s.membership = .member ∧ t.membership = .leaving then t.pump else t

/-- A whole word written at an offset. RO registers, windows and offsets that name nothing ignore it
(R182). -/
def State.writeRegister (offset : Nat) (v : Word) (s : State) : State :=
  if offset = 0x004 then s.writeStationControl v
  else if offset = 0x00C then s.writeProfileAddress v
  else if offset = 0x010 then s.writeCommand (v.extractLsb' 0 4) (v.extractLsb' 8 4)
  else if offset = 0x014 then { s with commandArgument := v }
  else if offset = 0x01C then s.clearEvents v
  else if offset = 0x020 then { s with eventEnable := v.setWidth 10 }
  else if offset = 0x024 then s.clearStreamEvents v
  else if offset = 0x028 then { s with streamEventEnable := v.setWidth 16 }
  else s

/-- A host write of some bytes: ignored while RSTn is low, and ignored when it carries fewer than
four bytes (R182). -/
def State.hostWriteAt (offset bytes : Nat) (v : Word) (s : State) : State :=
  if s.rstnLow ∨ bytes < 4 then s else s.writeRegister offset v

end Sys2Proof.Machine
end

