-- ==== Sys2Proof/Machine/Control.lean ====
section
/-! DEFINITION. The meanings of the host's commands and of the RSTn pin: station control, COMMAND, the
registers and the windows (R181 to R193). -/

namespace Sys2Proof.Machine

/-- POWER_ON (R95, R193). -/
def execPowerOn (s : State) : Host.Outcome State Fault Refusal := .next s.powerUp

/-- RSTN: the pin is driven low. The part takes RESET values, and until the pin rises it ignores
every write (R182). -/
def execRstn (s : State) : Host.Outcome State Fault Refusal :=
  .next { s.resetValues with rstnLow := true }

/-- RSTN_RISE: the station comes up OFFLINE with RESET values. A pin that is high does not rise
(R182). -/
def execRstnRise (s : State) : Host.Outcome State Fault Refusal :=
  .next (if s.rstnLow then { s.resetValues with rstnLow := false } else s)

/-- START (R95, R103, R184). -/
def execStart (s : State) : Host.Outcome State Fault Refusal := .next (s.hostWriteAt 0x004 4 1)

/-- LEAVE (R101, R103, R184). -/
def execLeave (s : State) : Host.Outcome State Fault Refusal := .next (s.hostWriteAt 0x004 4 2)

/-- RESET, whatever else the write carries (R103, R184). -/
def execReset (startBit leaveBit : Bool) (s : State) : Host.Outcome State Fault Refusal :=
  .next (s.hostWriteAt 0x004 4 (placeBit 0 startBit ||| placeBit 1 leaveBit ||| 4))

/-- A word written to COMMAND (R199). -/
def commandWord (code stream : BitVec 4) : Word := place 0 code ||| place 8 stream

/-- OPEN (R187, R188). -/
def execOpen (stream : BitVec 4) (s : State) : Host.Outcome State Fault Refusal :=
  .next (s.hostWriteAt 0x010 4 (commandWord 1 stream))

/-- CLOSE (R187, R189). -/
def execClose (stream : BitVec 4) (s : State) : Host.Outcome State Fault Refusal :=
  .next (s.hostWriteAt 0x010 4 (commandWord 2 stream))

/-- STANDING (R187, R190). -/
def execStanding (stream : BitVec 4) (s : State) : Host.Outcome State Fault Refusal :=
  .next (s.hostWriteAt 0x010 4 (commandWord 3 stream))

/-- COMMAND_CODE_UNKNOWN: a code that names no command sets REJECTED (R187). -/
def execCommandCodeUnknown (code stream : BitVec 4) (s : State) :
    Host.Outcome State Fault Refusal :=
  .next (s.hostWriteAt 0x010 4 (commandWord code stream))

/-- PROFILE_ADDRESS_WRITE (R185). -/
def execProfileAddressWrite (v : Word) (s : State) : Host.Outcome State Fault Refusal :=
  .next (s.hostWriteAt 0x00C 4 v)

/-- EVENTS_WRITE (R191). -/
def execEventsWrite (v : Word) (s : State) : Host.Outcome State Fault Refusal :=
  .next (s.hostWriteAt 0x01C 4 v)

/-- STREAM_EVENTS_WRITE (R191). -/
def execStreamEventsWrite (v : Word) (s : State) : Host.Outcome State Fault Refusal :=
  .next (s.hostWriteAt 0x024 4 v)

/-- EVENT_ENABLE_WRITE (R191). -/
def execEventEnableWrite (v : Word) (s : State) : Host.Outcome State Fault Refusal :=
  .next (s.hostWriteAt 0x020 4 v)

/-- STREAM_EVENT_ENABLE_WRITE (R191). -/
def execStreamEventEnableWrite (v : Word) (s : State) : Host.Outcome State Fault Refusal :=
  .next (s.hostWriteAt 0x028 4 v)

/-- REGISTER_WRITE: a write of some bytes anywhere in the register window (R182). -/
def execRegisterWrite (offset : BitVec 12) (bytes : Nat) (v : Word) (s : State) :
    Host.Outcome State Fault Refusal :=
  .next (s.hostWriteAt (wordOffset offset) bytes v)

/-- ENTRY_CAPTURE: a read in the register window (R182, R192). -/
def execEntryCapture (offset : BitVec 12) (s : State) : Host.Outcome State Fault Refusal :=
  .next (s.hostRead offset)

end Sys2Proof.Machine
end

