-- ==== Sys2Proof/Machine/Rings.lean ====
section
/-! DEFINITION. The meanings of the ends of bus transactions: the profile fetch (R185), send rings
(R143 to R153) and listen rings (R157 to R169). The end of a transaction that the port does not serve
is no event and changes nothing (log 1). -/

namespace Sys2Proof.Machine

/-- PROFILE_READ_DONE (R185, R186). -/
def execProfileReadDone (words : List Word) (s : State) : Host.Outcome State Fault Refusal :=
  .next (s.profileRead words)

/-- PROFILE_FAULT (R185). -/
def execProfileFault (s : State) : Host.Outcome State Fault Refusal := .next s.profileBusError

/-- SEND_DESCRIPTOR_READ (R143 to R145). -/
def execSendDescriptorRead (w : Word) (s : State) : Host.Outcome State Fault Refusal :=
  .next (s.endRead true (sendDescriptorEnd w s.stamp)).pump

/-- SEND_BUFFER_READ (R143). -/
def execSendBufferRead (words : List Word) (s : State) : Host.Outcome State Fault Refusal :=
  .next (s.endRead true (sendBufferEnd words)).pump

/-- SEND_STATUS_WRITE (R149). -/
def execSendStatusWrite (s : State) : Host.Outcome State Fault Refusal :=
  .next (s.endWrite true sendStatusEnd).pump

/-- SEND_HAND_BACK (R149). -/
def execSendHandBack (s : State) : Host.Outcome State Fault Refusal :=
  .next (s.endWrite true sendHandBackEnd).pump

/-- SEND_BUS_ERROR (R153). -/
def execSendBusError (s : State) : Host.Outcome State Fault Refusal := .next (s.busError true).pump

/-- LISTEN_DESCRIPTOR_READ (R157, R158). -/
def execListenDescriptorRead (w : Word) (s : State) : Host.Outcome State Fault Refusal :=
  .next (s.endRead false (listenDescriptorEnd w)).pump

/-- LISTEN_WORD_WRITE (R167). -/
def execListenWordWrite (s : State) : Host.Outcome State Fault Refusal :=
  .next (s.endWrite false listenWordsEnd).pump

/-- LISTEN_STATUS_WRITE (R167). -/
def execListenStatusWrite (s : State) : Host.Outcome State Fault Refusal :=
  .next (s.endWrite false (listenStatusEnd s.stamp)).pump

/-- LISTEN_HAND_BACK (R167). -/
def execListenHandBack (s : State) : Host.Outcome State Fault Refusal :=
  .next (s.endWrite false listenHandBackEnd).pump

/-- LISTEN_BUS_ERROR (R169). -/
def execListenBusError (s : State) : Host.Outcome State Fault Refusal :=
  .next (s.busError false).pump

end Sys2Proof.Machine
end

