-- ==== Sys2Proof/Machine/Dispatch.lean ====
section
/-! DEFINITION. The meaning of each command, one arm for each row of spec/opcode_table.json. -/

namespace Sys2Proof.Machine

def exec (i : Instr) (s : State) : Host.Outcome State Fault Refusal :=
  match i with
  | .powerOn => Sys2Proof.Machine.execPowerOn s
  | .rstn => Sys2Proof.Machine.execRstn s
  | .start => Sys2Proof.Machine.execStart s
  | .leave => Sys2Proof.Machine.execLeave s
  | .reset startBit leaveBit => Sys2Proof.Machine.execReset startBit leaveBit s
  | .openCmd stream => Sys2Proof.Machine.execOpen stream s
  | .closeCmd stream => Sys2Proof.Machine.execClose stream s
  | .standingCmd stream => Sys2Proof.Machine.execStanding stream s
  | .profileAddressWrite value => Sys2Proof.Machine.execProfileAddressWrite value s
  | .eventsWrite value => Sys2Proof.Machine.execEventsWrite value s
  | .streamEventsWrite value => Sys2Proof.Machine.execStreamEventsWrite value s
  | .eventEnableWrite value => Sys2Proof.Machine.execEventEnableWrite value s
  | .streamEventEnableWrite value => Sys2Proof.Machine.execStreamEventEnableWrite value s
  | .registerWrite offset bytes value => Sys2Proof.Machine.execRegisterWrite offset bytes value s
  | .entryCapture offset => Sys2Proof.Machine.execEntryCapture offset s
  | .cueEdge pin => Sys2Proof.Machine.execCueEdge pin s
  | .cueoutPulseEnd line => Sys2Proof.Machine.execCueoutPulseEnd line s
  | .quietWaitExpiry => Sys2Proof.Machine.execQuietWaitExpiry s
  | .frameTimerExpiry => Sys2Proof.Machine.execFrameTimerExpiry s
  | .frameStart mark arb => Sys2Proof.Machine.execFrameStart mark arb s
  | .bootstrap arb => Sys2Proof.Machine.execBootstrap arb s
  | .headerArrival bits => Sys2Proof.Machine.execHeaderArrival bits s
  | .winRecordExpiry header => Sys2Proof.Machine.execWinRecordExpiry header s
  | .damagedHeader arb => Sys2Proof.Machine.execDamagedHeader arb s
  | .damageLimit arb => Sys2Proof.Machine.execDamageLimit arb s
  | .cellArrival bits => Sys2Proof.Machine.execCellArrival bits s
  | .readbackCollision bits => Sys2Proof.Machine.execReadbackCollision bits s
  | .censusCellArrival bits => Sys2Proof.Machine.execCensusCellArrival bits s
  | .joinAttemptsLimit bits => Sys2Proof.Machine.execJoinAttemptsLimit bits s
  | .censusReadbackLimit bits => Sys2Proof.Machine.execCensusReadbackLimit bits s
  | .profileReadDone words => Sys2Proof.Machine.execProfileReadDone words s
  | .profileFault => Sys2Proof.Machine.execProfileFault s
  | .sendDescriptorRead word => Sys2Proof.Machine.execSendDescriptorRead word s
  | .sendBufferRead words => Sys2Proof.Machine.execSendBufferRead words s
  | .sendHandBack => Sys2Proof.Machine.execSendHandBack s
  | .sendBusError => Sys2Proof.Machine.execSendBusError s
  | .listenDescriptorRead word => Sys2Proof.Machine.execListenDescriptorRead word s
  | .listenWordWrite => Sys2Proof.Machine.execListenWordWrite s
  | .listenHandBack => Sys2Proof.Machine.execListenHandBack s
  | .listenBusError => Sys2Proof.Machine.execListenBusError s
  | .rstnRise => Sys2Proof.Machine.execRstnRise s
  | .commandCodeUnknown code stream => Sys2Proof.Machine.execCommandCodeUnknown code stream s
  | .sendStatusWrite => Sys2Proof.Machine.execSendStatusWrite s
  | .listenStatusWrite => Sys2Proof.Machine.execListenStatusWrite s

end Sys2Proof.Machine
end

