-- ==== Sys2Proof/Safety.lean ====
section
/-! DEFINITION. What counts as a safe run: every step goes on, and the invariants that claims use, with
the conditions under which claims say what a command does. -/

namespace Sys2Proof

open Machine

/-- The step of a state goes on. -/
def Goes (s : State) : Prop := ∃ t, step s = .next t

/-- Every step keeps a property of the state. -/
def Keeps (inv : State → Prop) : Prop := ∀ s t, inv s → step s = .next t → inv t

/-! ### Invariants -/

/-- What a station drives, by its membership state (R1): header fields and cells in MEMBER and
LEAVING, its census cell there and in ANNOUNCING, TSYNC and a running timer where arrivals are
received, and nothing otherwise. -/
def DrivesByMembership (s : State) : Prop :=
  (s.membership.drives = false → s.drive.header = Header.blank
    ∧ s.drive.cells = Vector.replicate 24 none ∧ s.bidDriven = none ∧ s.chosenBid = none
    ∧ s.vetoOwed = false)
  ∧ (s.membership.judges = false → s.drive.census = none)
  ∧ (s.membership.receives = false → s.tsync = .undriven ∧ s.timer = .stopped ∧ s.frame = none)

/-- Where the map does not act it is all UNKNOWN, with an empty release intent (R21, R35, R46). -/
def MapUnknownOutside (s : State) : Prop :=
  s.membership.maps = false → s.slots = Vector.replicate 24 Slot.reset

/-- An entry is in order: an UNSURE one has one to three candidates, no station twice (R19, R20), a
pending claim never preempts its own bidder (R41), and a readback damage count is below 2 (R32). -/
def Entry.InOrder : Entry → Prop
  | .unsure cs => 1 ≤ cs.length ∧ cs.length ≤ 3 ∧ (cs.map (·.station)).Nodup
  | .claimPending c (some h) => h.station ≠ c.bidder.station
  | .held _ damage => damage < 2
  | _ => True

/-- Every entry of the map is in order. -/
def MapInOrder (s : State) : Prop := ∀ i : Fin 24, Entry.InOrder s.slots[i].entry

/-- The claimants under which an entry that is HELD, CLAIM_PENDING or RELEASE_PENDING carries a label:
of a pending claim its bidder and its prior holder (R25). -/
def Entry.carried : Entry → List Claimant
  | .held h _ => [h]
  | .claimPending c prior => c.bidder :: prior.toList
  | .releasePending h => [h]
  | _ => []

/-- No label is carried under two stations by entries that are HELD, CLAIM_PENDING or RELEASE_PENDING
(R25). -/
def LabelsInOrder (s : State) : Prop :=
  ∀ (i j : Fin 24), ∀ x ∈ Entry.carried s.slots[i].entry, ∀ y ∈ Entry.carried s.slots[j].entry,
    x.label = y.label → x.station = y.station

/-- An entry is pending. -/
def Entry.isPending : Entry → Bool
  | .claimPending _ _ => true
  | .releasePending _ => true
  | _ => false

/-- An entry is pending only where headers are judged, and in a census frame only until its header has
come, since that header settles it and brings no bid and no release (R10, R37, R63). -/
def PendingInOrder (s : State) : Prop :=
  ∀ i : Fin 24, Entry.isPending s.slots[i].entry = true →
    s.membership.judges = true ∧ ∀ f, s.frame = some f → f.census = true → f.header = .due

/-- No station is the holder or the pending bidder of more than 8 entries (R24). -/
def HoldingsInOrder (s : State) : Prop := ∀ k : Station, holdingCount s.slots k ≤ 8

/-- An entry is HELD by a station if every pending entry reverts (R39). -/
def Entry.revertsTo (k : Station) : Entry → Bool
  | .held h _ => h.station == k
  | .claimPending _ (some h) => h.station == k
  | .releasePending h => h.station == k
  | _ => false

/-- No station would hold more than 8 entries if every pending entry reverted (R24, R39). -/
def RevertsInOrder (s : State) : Prop :=
  ∀ k : Station, (indicesWhere fun i => Entry.revertsTo k s.slots[i].entry).length ≤ 8

/-- The counts stay in their ranges: damaged headers (R70), join attempts and census readback run
(R81), ages of wins (R108), the open queue (R104), and the win list at four records, at three while a bid
is chosen or driven (R109). -/
def CountsInRange (s : State) : Prop :=
  (s.membership.drives = true → s.damageCount < 5 ∧ s.censusRun < 2)
  ∧ s.damageCount ≤ 5
  ∧ (s.membership = .listening → s.joinAttempts = 0)
  ∧ (s.membership = .announcing → s.joinAttempts < 3)
  ∧ (∀ a ∈ s.wins, a < 31)
  ∧ s.wins.length ≤ 4
  ∧ (s.chosenBid.isSome = true ∨ s.bidDriven.isSome = true → s.wins.length ≤ 3)
  ∧ s.openQueue.length ≤ 8

/-- No write queue holds more than 32 placed words (R167). -/
def WriteQueuesBounded (s : State) : Prop :=
  ∀ (n : Fin 16) (st : Stream), s.streams[n] = some st → st.queuedWords ≤ 32

/-- Every engine has issued the operation that it has to issue next (R143, R167). -/
def EnginesIssued (s : State) : Prop :=
  ∀ (n : Fin 16) (st : Stream), s.streams[n] = some st → st.issue = st

/-! ### Headers, intact or damaged -/

/-- The arrival of a header. -/
def HeaderRx.command : HeaderRx → Instr
  | .intact bits => .headerArrival bits
  | .damaged arb => .damagedHeader arb

/-- The arbitration part as this station read it (R12, R13). -/
def HeaderRx.read : HeaderRx → List (Option Bool)
  | .intact bits => arbitrationRead bits
  | .damaged arb => arb.map bitOfHalves

/-! ### Conditions on the state -/

/-- The frame in progress, if there is one, has delivered its header and every cell, so that a frame
start cuts nothing short (R9). -/
def Delivered (s : State) : Prop :=
  ∀ f, s.frame = some f → f.header ≠ .due ∧ f.arrived = f.size

/-- A slot stays in a station's release intent while its entry is this (R49). -/
def Entry.StaysIntended (k : Station) (e : Entry) : Prop :=
  (∃ h damage, e = .held h damage ∧ h.station = k)
  ∨ (∃ h, e = .releasePending h ∧ h.station = k)
  ∨ (∃ c h, e = .claimPending c (some h) ∧ h.station = k)
  ∨ ∃ cs, e = .unsure cs ∧ ∃ c ∈ cs, c.station = k

/-- A slot is asked into a station's release intent: HELD by it under a label that none of its open send
streams carries (R46, R52, R132). -/
def Entry.AskedFor (k : Station) (streams : Vector (Option Machine.Stream) 16) (e : Entry) : Prop :=
  ∃ h damage, e = .held h damage ∧ h.station = k
    ∧ ∀ (n : Fin 16) (st : Machine.Stream), streams[n] = some st → st.isSend = true →
        st.state.openSend = true → st.defn.label ≠ h.label

/-- A slot is HELD by a station under a label. -/
def HeldAs (slots : Vector Slot 24) (k : Station) (l : Label) (i : Fin 24) : Prop :=
  ∃ h damage, slots[i].entry = .held h damage ∧ h.station = k ∧ h.label = l

/-- The slots a station may fill for a label, in ascending order: HELD by it under the label, and not in
the release intent (R48, R124). -/
def UsableSlots (slots : Vector Slot 24) (k : Station) (l : Label) (us : List (Fin 24)) : Prop :=
  us.Pairwise (· < ·) ∧ ∀ i, i ∈ us ↔ HeldAs slots k l i ∧ slots[i].intent = false

/-! ### Conditions on a stream -/

/-- Of the header arrival that takes `s` to `t`: the command it takes is an OPEN or a CLOSE of the stream,
and is answered DONE (R187 to R189). -/
def Commanded (s t : State) (n : Fin 16) : Prop :=
  (∃ c, s.command = some c ∧ c.code ≠ .setStanding ∧ c.stream.toFin = n) ∧ t.lastResult = .done

/-- Where an arrival has changed what a stream reads of the map, the stream stands as the standing rule
or the listen state rule places it; where it has not, it stands as before (R34, R122, R134). A held
count above the width is left out. -/
def FollowsMap (k : Station) (old new : Vector Slot 24) (st st' : Machine.Stream) : Prop :=
  let l := st.defn.label
  (st.isSend = true →
    (ownHoldings old k l = ownHoldings new k l ∧ candidacyUnder old k l = candidacyUnder new k l →
      st'.state = st.state ∧ st'.everFull = st.everFull)
    ∧ (ownHoldings old k l ≠ ownHoldings new k l ∨ candidacyUnder old k l ≠ candidacyUnder new k l →
      (ownHoldings new k l).length ≤ st.defn.width →
      st'.state = (if candidacyUnder new k l ≠ [] then .suspended
        else if (ownHoldings new k l).length = st.defn.width then
          (if st.awaiting then .armed else .running)
        else if st.everFull then .repairing else .claiming)
      ∧ (st'.everFull = true ↔ st.everFull = true ∨ st'.state = .armed ∨ st'.state = .running)))
  ∧ (st.isSend = false →
    (carriers old l = carriers new l → st'.state = st.state)
    ∧ (carriers old l ≠ carriers new l →
      st'.state = (if st.awaiting then .armed else if carriers new l = [] then .seeking else .tuned)))

/-- What a closure does to a send ring: the walk stops, a head that was started is finished by
truncation, or abandoned where it is KEEP, with the ring index past it, and every other descriptor that
was not finished is dropped untaken (R151). -/
def SendRingClosed (st st' : Machine.Stream) : Prop :=
  st'.staging = [] ∧ st'.held = [] ∧ st'.reading = none ∧ st'.ringEnd = false ∧ st'.chosen = []
  ∧ (∀ d rest, st.held = d :: rest → d.gone ≠ 0 →
      st'.ringIndex = nextIndex d.index d.wrap
      ∧ st'.writeBack = if d.keep then st.writeBack
          else st.writeBack ++ [⟨d, d.lastStamp, true, false, false, false⟩])
  ∧ ((∀ d ∈ st.held.head?, d.gone = 0) →
      st'.ringIndex = st.ringIndex ∧ st'.writeBack = st.writeBack)

/-- What a closure does to a listen ring: the walk stops, a current descriptor that holds words is handed
back TRUNCATED, with the ring index at the next descriptor in hand or else at the fetch position, and
every other one is dropped untaken (R168). -/
def ListenRingClosed (st st' : Machine.Stream) : Prop :=
  st'.current = none ∧ st'.next = none ∧ st'.reading = none ∧ st'.ringEnd = false
  ∧ st'.stalled = false ∧ st'.starved = false ∧ st'.cueAction = none
  ∧ (∀ d, st.current = some d → d.count ≠ 0 →
      st'.ringIndex = st.next.elim st.fetchPos (·.index)
      ∧ st'.writeQueue = st.writeQueue ++ [WriteItem.done ⟨d, false, true, false, false, false⟩])
  ∧ ((∀ d ∈ st.current, d.count = 0) →
      st'.ringIndex = st.ringIndex ∧ st'.writeQueue = st.writeQueue)

/-- What a closure does to the ring of a stream, and to an operation it has outstanding: a read's data
are discarded, a write goes on (R151, R168). -/
def RingClosed (st st' : Machine.Stream) : Prop :=
  (st.isSend = true → SendRingClosed st st') ∧ (st.isSend = false → ListenRingClosed st st')
  ∧ ∀ op, st.op = some op → st'.op = some
      (match op.kind with
      | .firstWord | .secondWord _ _ | .bufferRead _ => { op with discard := true }
      | .wordWrite _ | .statusWrite | .handBack => op)

/-- After an arrival that takes `s` to `t`, a send stream that was CLOSING has passed to CLOSED, with its
event, if it has no part in the map left, and is as it was otherwise (R132). -/
def ClosingFollows (s t : State) : Prop :=
  ∀ (n : Fin 16) (st : Machine.Stream), s.streams[n] = some st → st.isSend = true →
    st.state = .closing → ∃ st', t.streams[n] = some st'
      ∧ st'.state = (if t.streamHasPart n st then .closing else .closed)
      ∧ st'.event = (st.event || !t.streamHasPart n st) ∧ st'.closeReason = st.closeReason

/-! ### The arbiter's candidates -/

/-- A preemption of this station under the stream's label is pending, so the stream is excluded
(R55). -/
def Excluded (s : State) (st : Machine.Stream) : Prop :=
  ∃ (i : Fin 24) (c : PendingClaim) (h : Claimant), s.slots[i].entry = .claimPending c (some h)
    ∧ h.station = s.number ∧ h.label = st.defn.label

/-- A stream of the repair set that is not excluded (R55, R106). -/
def Repairable (s : State) (n : Fin 16) (st : Machine.Stream) : Prop :=
  s.streams[n] = some st ∧ st.isSend = true ∧ st.state = .repairing ∧ ¬ Excluded s st

/-- The repair candidate: of the highest priority, and among those of the lowest number (R106). -/
def RepairCandidate (s : State) (n : Fin 16) (st : Machine.Stream) : Prop :=
  Repairable s n st ∧ ∀ m st₂, Repairable s m st₂ →
    st₂.defn.priority.toNat < st.defn.priority.toNat
      ∨ st₂.defn.priority = st.defn.priority ∧ n ≤ m

/-- The queue's candidate: its head, neither SUSPENDED nor excluded (R55, R105, R110). -/
def HeadCandidate (s : State) (n : Fin 16) (st : Machine.Stream) : Prop :=
  s.openQueue.head? = some n ∧ s.streams[n] = some st ∧ st.state ≠ .suspended ∧ ¬ Excluded s st

/-- What of a stream a choice of the arbiter can change and the rest of an arrival then keeps: its
definition, whether it is open, its state while it is open, and its close reason. -/
def Stream.standingShown (st : Machine.Stream) : StreamDef × Option StreamState × CloseReason :=
  (st.defn, if st.isOpen then some st.state else none, st.closeReason)

/-- The state `t` shows the choice that the arbiter made in the state `u`, which an arrival had left: the
map, the win list and the queue, from which closed streams and those that have been full are gone
(R105, R107). -/
def ChoiceShows (u t : State) : Prop :=
  u.membership = .member ∧ u.number = t.number ∧ u.wins = t.wins
  ∧ (∀ i : Fin 24, u.slots[i].entry = t.slots[i].entry)
  ∧ (∀ n ∈ u.openQueue, ∃ st, u.streams[n] = some st ∧ st.isSend = true
      ∧ st.state.openSend = true ∧ st.everFull = false)
  ∧ t.chosenBid = u.chooseBid.chosenBid ∧ t.openQueue = u.chooseBid.openQueue
  ∧ ∀ n : Fin 16, (t.streams[n]).map Stream.standingShown
      = (u.chooseBid.streams[n]).map Stream.standingShown

/-! ### The master port -/

/-- The port serves the first stream in turn that has a transaction, counted from the stream after the
one it served last; with none it serves none (R183). -/
def ServesInTurn (s : State) : Prop :=
  ∀ n : Fin 16, s.portServing = some n ↔
    s.streams[n].any (·.op.isSome) = true
    ∧ ∀ m : Fin 16, (m - s.portLast - 1).val < (n - s.portLast - 1).val →
        s.streams[m].any (·.op.isSome) = false

/-- The master port serves this operation of this stream (R183). -/
def Serves (s : State) (n : Fin 16) (st : Stream) (op : BusOp) : Prop :=
  s.portServing = some n ∧ s.streams[n] = some st ∧ st.op = some op

/-- A stream without what the engine does at the end of every command: its outstanding operation and
the poll that operation serves. -/
def Stream.still (st : Stream) : Stream := { st with op := none, poll := false }

/-- The end of a bus transaction of stream `n` leaves everything but that stream, the engines'
outstanding operations, the port's turn and the words put into host memory. -/
def OnlyStream (n : Fin 16) (s t : State) : Prop :=
  t = { s with streams := t.streams, portServing := t.portServing, portLast := n
               hostWrite := t.hostWrite }
  ∧ ∀ m : Fin 16, m ≠ n → (t.streams[m]).map Stream.still = (s.streams[m]).map Stream.still

end Sys2Proof
end

