-- ==== Sys2Proof/Certificates/Slice0/Obligations.lean ====
section
/-! DEFINITION. The statements for the provers. -/

section Statements

open Sys2Proof Sys2Proof.Machine

/-! ### The queue, and the values after reset -/

/-- A step takes the command at the front of the queue and answers its meaning on the state with the
rest of the queue. On an empty queue the part idles, which is the model's choice (log 3). -/
def Obligations.StepRunsTheFrontCommand : Prop :=
  (∀ (c : Instr) (rest : List Instr) (s : State), s.pending = c :: rest →
    step s = exec c { s with pending := rest })
  ∧ ∀ s : State, s.pending = [] → step s = .next s

/-- After power-on every word of the register window reads 0 but IDENT (R181, R182, R193); the map is
UNKNOWN (R35), the peer table UNHEARD (R94), no stream is defined (R120), the trunk lines and pins are
undriven, the timer is stopped (R1, R2), and stream 0 is served first (R183). -/
def Obligations.ResetReadsZeroButIdent : Prop :=
  (∀ k : Nat, k < 1024 →
    State.reset.readWord (4 * k) = if k = 0 then 0x57440330#32 else 0)
  ∧ State.reset.membership = .offline
  ∧ (∀ i : Fin 24, State.reset.slots[i].entry = .unknown ∧ State.reset.slots[i].intent = false)
  ∧ (∀ k : Fin 32, State.reset.peers[k].state = .unheard)
  ∧ (∀ n : Fin 16, State.reset.streams[n] = none)
  ∧ State.reset.drive = Drive.nothing ∧ State.reset.tsync = .undriven ∧ State.reset.cueOut = 0
  ∧ State.reset.timer = .stopped ∧ State.reset.aligned = false ∧ State.reset.index = 0
  ∧ State.reset.openQueue = [] ∧ State.reset.wins = [] ∧ State.reset.command = none
  ∧ State.reset.inTurn 0 = 0

/-- POWER_ON gives every field its power-on value (R95, R193); the values of the station number, the
forwarding and the join word, which the spec does not give, are the model's choice (log 6), and so is
that the queue, the pin's level and the counter of free values stay (log 23). RESET, the RSTn pin going
low and the pin rising do the same (R182), but for the join word, which is kept until the next load
completion (R80), and what the bus carried last, which is the model's choice (log 23). A pin that is high
does not rise. While the pin is low every write of the host is ignored (R182). -/
def Obligations.ResetCommandsGiveResetValues : Prop :=
  ∀ (startBit leaveBit : Bool) (s : State),
    exec .powerOn s
      = .next { State.reset with pending := s.pending, free := s.free, rstnLow := s.rstnLow } ∧
    (s.rstnLow = false → exec (.reset startBit leaveBit) s
      = .next { State.reset with pending := s.pending, free := s.free, joinWord := s.joinWord
                                 readData := s.readData, hostWrite := s.hostWrite })
    ∧ exec .rstn s
      = .next { State.reset with pending := s.pending, free := s.free, joinWord := s.joinWord
                                 readData := s.readData, hostWrite := s.hostWrite, rstnLow := true }
    ∧ (s.rstnLow = true → exec .rstnRise s
      = .next { State.reset with pending := s.pending, free := s.free, joinWord := s.joinWord
                                 readData := s.readData, hostWrite := s.hostWrite })
    ∧ (s.rstnLow = false → exec .rstnRise s = .next s)
    ∧ (∀ c : Instr, s.rstnLow = true →
      (match c with
        | .start | .leave | .reset _ _ | .openCmd _ | .closeCmd _ | .standingCmd _
        | .profileAddressWrite _ | .eventsWrite _ | .streamEventsWrite _ | .eventEnableWrite _
        | .streamEventEnableWrite _ | .registerWrite _ _ _ | .commandCodeUnknown _ _ => true
        | _ => false) = true →
      exec c s = .next s)

/-! ### Station control -/

/-- The table of R103: what START, LEAVE, RESET and RSTn do in each membership state; an ignored
request changes nothing at all. In MEMBER a LEAVE leads to LEAVING, or through it to OFFLINE when the
station has no part in the map; that a bid whose header is still to come is no such part is the model's
reading (log 24). -/
def Obligations.RequestsFollowTheTable : Prop :=
  ∀ s : State, s.rstnLow = false →
    (∃ t, exec .start s = .next t ∧
      match s.membership with
      | .offline | .refused => t.membership = .loading ∧ t.events = s.events
      | .loading | .listening | .announcing | .member | .leaving | .lost => t = s)
    ∧ (∃ t, exec .leave s = .next t ∧
      match s.membership with
      | .loading | .listening | .announcing => t.membership = .offline ∧ t.events = s.events
      | .member => t.membership = if s.hasPart then Membership.leaving else Membership.offline
      | .offline | .leaving | .lost | .refused => t = s)
    ∧ (∀ startBit leaveBit : Bool, ∃ t, exec (.reset startBit leaveBit) s = .next t ∧
        t.membership = .offline ∧ t.events = 0)
    ∧ ∃ t, exec .rstn s = .next t ∧ t.membership = .offline ∧ t.events = 0

/-- START in OFFLINE or REFUSED begins the fetch in LOADING with the values of R95 and R193's START
column; what that column keeps is kept. LEAVE before membership, and in MEMBER with no part in
the map, puts the station in OFFLINE with the values of R193's second column: PROFILE ADDRESS is kept, and
so is EVENTS, with LEFT raised in MEMBER alone (R101, R103). That a bid whose header is still to come is no
part in the map is the model's reading (log 24). -/
def Obligations.StartAndLeaveGiveTheirValues : Prop :=
  (∀ s : State, s.rstnLow = false → s.membership = .offline ∨ s.membership = .refused →
    ∃ t, exec .start s = .next t
      ∧ t.membership = .loading ∧ t.refusalReason = .none ∧ t.profileFault = .none
      ∧ t.slots = Vector.replicate 24 Slot.reset ∧ t.peers = Vector.replicate 32 Peer.never
      ∧ t.streams = Vector.replicate 16 none ∧ t.standing = none ∧ t.cycle = 0
      ∧ t.damageCount = 0 ∧ t.joinAttempts = 0 ∧ t.censusRun = 0
      ∧ t.aligned = false ∧ t.index = 0 ∧ t.bootstrap = 0 ∧ t.capture = none ∧ t.portLast = 15
      ∧ t.openQueue = [] ∧ t.wins = [] ∧ t.cuePending = 0 ∧ t.vetoOwed = false ∧ t.fetched = []
      ∧ t.profileAddress = s.profileAddress ∧ t.commandArgument = s.commandArgument
      ∧ t.command = s.command ∧ t.rejected = s.rejected ∧ t.lastResult = s.lastResult
      ∧ t.events = s.events ∧ t.eventEnable = s.eventEnable
      ∧ t.streamEventEnable = s.streamEventEnable ∧ t.cueOut = s.cueOut)
  ∧ (∀ s : State, s.rstnLow = false →
    s.membership = .loading ∨ s.membership = .listening ∨ s.membership = .announcing
      ∨ s.membership = .member ∧ s.hasPart = false →
    ∃ t, exec .leave s = .next t
      ∧ t.membership = .offline ∧ t.refusalReason = .none ∧ t.profileFault = .none
      ∧ t.damageCount = 0 ∧ t.joinAttempts = 0 ∧ t.cycle = 0 ∧ t.index = 0
      ∧ t.aligned = false ∧ t.slots = Vector.replicate 24 Slot.reset
      ∧ t.peers = Vector.replicate 32 Peer.never ∧ t.streams = Vector.replicate 16 none
      ∧ t.standing = none ∧ t.command = none ∧ t.rejected = false ∧ t.lastResult = .none
      ∧ t.commandArgument = 0 ∧ t.eventEnable = 0 ∧ t.streamEventEnable = 0 ∧ t.capture = none
      ∧ t.timer = .stopped ∧ t.tsync = .undriven ∧ t.drive = Drive.nothing
      ∧ t.openQueue = [] ∧ t.wins = [] ∧ t.chosenBid = none ∧ t.vetoOwed = false ∧ t.cuePending = 0
      ∧ t.profileAddress = s.profileAddress ∧ t.cueOut = s.cueOut
      ∧ t.events = if s.membership = .member then s.events ||| 0x008 else s.events)

/-- LEAVE in MEMBER with a part in the map: LEAVING, no bid, every entry of the map as it was, and every
stream closed with reason LEAVE: a listener at once, a send stream at once, with its event, when it has no
part in the map, else it is CLOSING. Every slot HELD by this station joins the release intent, and a slot
stays in it only while its entry is one the station may have again. The ring of a stream that was open is
closed (R46, R49, R101, R131 to R133, R137, R151, R168). -/
def Obligations.LeaveClosesEveryStream : Prop :=
  ∀ s : State, s.rstnLow = false → s.membership = .member → s.hasPart = true →
    ∃ t, exec .leave s = .next t ∧ t.membership = .leaving ∧ t.chosenBid = none
      ∧ (∀ i : Fin 24, t.slots[i].entry = s.slots[i].entry
          ∧ (t.slots[i].intent = true ↔ s.slots[i].entry.heldBy s.number = true
              ∨ s.slots[i].intent = true ∧ Entry.StaysIntended s.number s.slots[i].entry))
      ∧ (∀ (n : Fin 16) (st : Machine.Stream), s.streams[n] = some st →
          ∃ st', t.streams[n] = some st' ∧ st'.isOpen = false ∧ st'.defn = st.defn
            ∧ (st.isOpen = true ∨ st.isSend = true ∧ st.state = .closing →
                st'.closeReason = .leave)
            ∧ (st.isOpen = true → st.isSend = true →
                let part := { s with chosenBid := none }.streamHasPart n st
                st'.state = (if part then .closing else .closed)
                ∧ st'.event = (st.event || !part))
            ∧ (st.isOpen = true → st.isSend = false →
                st'.state = .closed ∧ st'.event = st.event)
            ∧ (st.isOpen = true → RingClosed st st')
            ∧ (st.isSend = true → st.state = .closing →
                st'.state = .closing ∧ st'.event = st.event))
      ∧ t.events = s.events ∧ t.peers = s.peers ∧ t.cycle = s.cycle ∧ t.index = s.index

/-! ### Commands -/

/-- OPEN, CLOSE and STANDING written while BUSY is clear become the pending command in a state that
takes commands at a header arrival. In OFFLINE, LOADING and REFUSED they are taken at the write: OPEN and
CLOSE are answered NOT_MEMBER, STANDING sets the standing word but in OFFLINE, and COMMAND_DONE is raised
(R187 to R190). A command written while BUSY is set, and a code that names no command, set REJECTED
(R187). Nothing else changes. -/
def Obligations.CommandWriteIsRecordedTakenOrRejected : Prop :=
  (∀ (n : BitVec 4) (s : State), s.rstnLow = false → s.command = none →
    (s.membership ≠ .offline → s.membership ≠ .loading → s.membership ≠ .refused →
      exec (.openCmd n) s = .next { s with command := some ⟨.openStream, n⟩, rejected := false }
      ∧ exec (.closeCmd n) s = .next { s with command := some ⟨.closeStream, n⟩, rejected := false }
      ∧ exec (.standingCmd n) s
        = .next { s with command := some ⟨.setStanding, n⟩, rejected := false })
    ∧ (s.membership = .offline ∨ s.membership = .loading ∨ s.membership = .refused →
      exec (.openCmd n) s
        = .next { s with rejected := false, lastResult := .notMember, events := s.events ||| 0x100 }
      ∧ exec (.closeCmd n) s
        = .next { s with rejected := false, lastResult := .notMember, events := s.events ||| 0x100 }
      ∧ exec (.standingCmd n) s
        = .next (if s.membership = .offline then
            { s with rejected := false, lastResult := .notMember, events := s.events ||| 0x100 }
          else
            { s with rejected := false, lastResult := .done, events := s.events ||| 0x100
                     standing := some s.commandArgument })))
  ∧ (∀ (code n : BitVec 4) (s : State), s.rstnLow = false →
    (s.command.isSome = true →
      exec (.openCmd n) s = .next { s with rejected := true }
      ∧ exec (.closeCmd n) s = .next { s with rejected := true }
      ∧ exec (.standingCmd n) s = .next { s with rejected := true })
    ∧ (code ≠ 1 → code ≠ 2 → code ≠ 3 →
      exec (.commandCodeUnknown code n) s = .next { s with rejected := true }))

/-- The answers of OPEN and CLOSE, the first refusal that applies (R188, R189). A command that is
refused changes nothing but COMMAND STATUS and COMMAND_DONE. -/
def Obligations.OpenAndCloseAnswers : Prop :=
  ∀ (n : Fin 16) (s : State),
    s.judgeOpen n =
      (if s.membership ≠ .member then .notMember
       else match s.streams[n] with
        | none => .badStream
        | some st =>
          if st.state ≠ .closed then .wrongState
          else if st.defn.direction = .send ∧ 8 ≤ s.openQueue.length then .queueFull else .done)
    ∧ s.judgeClose n =
      (if s.membership ≠ .member then .notMember
       else match s.streams[n] with
        | none => .badStream
        | some st => if st.state = .closed then .wrongState else .done)
    ∧ ∀ c : Command, s.judgeCommand c ≠ .done → s.command = some c →
        s.takeCommand = { s with command := none, lastResult := s.judgeCommand c
                                 events := s.events ||| 0x100 }

/-- An OPEN taken with DONE sets the stream record up and leaves the ring index, every other stream
and the map; a send stream with no slot and no candidacy is CLAIMING at the tail of the open queue
(R104, R121, R123, R135). -/
def Obligations.OpenSetsUpTheStream : Prop :=
  ∀ (n : BitVec 4) (s : State) (st : Machine.Stream), s.membership = .member →
    s.command = some ⟨.openStream, n⟩ → s.streams[n.toFin] = some st → st.state = .closed →
    (st.isSend = true → s.openQueue.length < 8) →
    s.takeCommand.lastResult = .done ∧ s.takeCommand.command = none
    ∧ s.takeCommand.events = s.events ||| 0x100
    ∧ s.takeCommand.slots = s.slots
    ∧ (∀ m : Fin 16, m ≠ n.toFin → s.takeCommand.streams[m] = s.streams[m])
    ∧ s.takeCommand.openQueue
        = (if st.isSend then s.openQueue ++ [n.toFin] else s.openQueue)
    ∧ ∃ st', s.takeCommand.streams[n.toFin] = some st' ∧ st'.isOpen = true
      ∧ st'.nextSeq = 0 ∧ st'.stalled = false ∧ st'.starved = false ∧ st'.latched = false
      ∧ st'.cueMiss = false ∧ st'.overrunSeen = false ∧ st'.closeReason = .none
      ∧ st'.awaiting = st.defn.cue.isSome ∧ st'.ringIndex = st.ringIndex
      ∧ st'.fetchPos = st.ringIndex ∧ st'.expectation = none ∧ st'.staging = []
      ∧ st'.current = none ∧ st'.next = none ∧ st'.writeBack = st.writeBack
      ∧ st'.writeQueue = st.writeQueue ∧ st'.defn = st.defn
      ∧ (st.isSend = true → 1 ≤ st.defn.width →
          ownHoldings s.slots s.number st.defn.label = [] →
          candidacyUnder s.slots s.number st.defn.label = [] →
          st'.state = .claiming ∧ st'.everFull = false)

/-- A CLOSE taken with DONE closes an open stream with reason HOST: a listener at once, a send stream
at once, with its event, when it has no part in the map, else it is CLOSING; a CLOSING stream is left as
it was. The slots HELD by this station under a label that no open send stream of it carries any more join
the release intent, and a slot stays in it only while its entry is one the station may have again. The
ring is closed: a head that was started, or a current descriptor that holds words, is handed back
TRUNCATED, a KEEP head is abandoned, and the rest is dropped untaken (R46, R49, R131, R132, R136, R151, R168). -/
def Obligations.CloseEndsTheStream : Prop :=
  ∀ (n : BitVec 4) (s : State) (st : Machine.Stream), s.membership = .member →
    s.command = some ⟨.closeStream, n⟩ → s.streams[n.toFin] = some st → st.state ≠ .closed →
    s.takeCommand.lastResult = .done ∧ s.takeCommand.command = none
    ∧ (∀ i : Fin 24, s.takeCommand.slots[i].entry = s.slots[i].entry
        ∧ (s.takeCommand.slots[i].intent = true ↔
            Entry.StaysIntended s.number s.slots[i].entry
            ∧ (s.slots[i].intent = true
              ∨ Entry.AskedFor s.number s.takeCommand.streams s.slots[i].entry)))
    ∧ (∀ m : Fin 16, m ≠ n.toFin → s.takeCommand.streams[m] = s.streams[m])
    ∧ (st.isOpen = false → s.takeCommand.streams[n.toFin] = some st)
    ∧ (st.isOpen = true → ∃ st', s.takeCommand.streams[n.toFin] = some st'
        ∧ st'.closeReason = .host ∧ st'.awaiting = false ∧ st'.latched = false
        ∧ st'.stalled = false ∧ st'.starved = false
        ∧ st'.event = (st.event || (st.isSend && !s.streamHasPart n.toFin st))
        ∧ st'.state = (if st.isSend = true ∧ s.streamHasPart n.toFin st = true then .closing
                       else .closed)
        ∧ st'.staging = (if st.isSend then [] else st.staging)
        ∧ (st.isSend = false → st'.current = none ∧ st'.next = none)
        ∧ RingClosed st st' ∧ st'.cueMissMark = st.cueMissMark ∧ st'.overrunMark = st.overrunMark
        ∧ n.toFin ∉ s.takeCommand.openQueue)

/-! ### Registers and windows -/

/-- PROFILE ADDRESS takes a word-aligned value in OFFLINE and REFUSED and keeps its own otherwise
(R185). A 1 written to a bit of EVENTS or STREAM EVENTS clears it, STREAM is not stored, and the enables
take what is written (R191, R199). A write of four bytes at the offset of a register is that register's
write: STATION CONTROL by its three bits, RESET before the others, and START with LEAVE, or neither, is
ignored (R184); COMMAND by its code and stream number (R187, R199); COMMAND ARGUMENT takes what is
written. A write of fewer bytes, to an RO register, to a window or to no register changes nothing
(R182). Nothing else changes. -/
def Obligations.RegisterWritesAct : Prop :=
  ∀ (v : Word) (s : State), s.rstnLow = false →
    exec (.profileAddressWrite v) s = .next
      (if s.membership = .offline ∨ s.membership = .refused
        then { s with profileAddress := v &&& 0xFFFFFFFC#32 } else s)
    ∧ exec (.eventsWrite v) s = .next { s with events := s.events &&& ~~~ (v.extractLsb' 0 9) }
    ∧ exec (.eventEnableWrite v) s = .next { s with eventEnable := v.extractLsb' 0 10 }
    ∧ exec (.streamEventEnableWrite v) s
        = .next { s with streamEventEnable := v.extractLsb' 0 16 }
    ∧ ∃ t, exec (.streamEventsWrite v) s = .next t ∧ t = { s with streams := t.streams }
        ∧ (∀ n : Fin 16, s.streams[n] = none → t.streams[n] = none)
        ∧ (∀ (n : Fin 16) (st : Machine.Stream), s.streams[n] = some st →
            t.streams[n] = some { st with event := st.event && !v.getLsbD n.val })
    ∧ exec (.registerWrite 0x014 4 v) s = .next { s with commandArgument := v }
    ∧ exec (.registerWrite 0x004 4 v) s =
        (if v.getLsbD 2 then exec (.reset (v.getLsbD 0) (v.getLsbD 1)) s
         else match v.getLsbD 0, v.getLsbD 1 with
          | true, false => exec .start s
          | false, true => exec .leave s
          | _, _ => .next s)
    ∧ exec (.registerWrite 0x010 4 v) s =
        (match v.extractLsb' 0 4 with
          | 1#4 => exec (.openCmd (v.extractLsb' 8 4)) s
          | 2#4 => exec (.closeCmd (v.extractLsb' 8 4)) s
          | 3#4 => exec (.standingCmd (v.extractLsb' 8 4)) s
          | code => exec (.commandCodeUnknown code (v.extractLsb' 8 4)) s)
    ∧ exec (.registerWrite 0x00C 4 v) s = exec (.profileAddressWrite v) s
    ∧ exec (.registerWrite 0x01C 4 v) s = exec (.eventsWrite v) s
    ∧ exec (.registerWrite 0x020 4 v) s = exec (.eventEnableWrite v) s
    ∧ exec (.registerWrite 0x024 4 v) s = exec (.streamEventsWrite v) s
    ∧ exec (.registerWrite 0x028 4 v) s = exec (.streamEventEnableWrite v) s
    ∧ (∀ (offset : BitVec 12) (bytes : Nat), bytes < 4 →
        exec (.registerWrite offset bytes v) s = .next s)
    ∧ (∀ offset : BitVec 12, offset.toNat % 4 = 0 →
        offset ≠ 0x004 → offset ≠ 0x00C → offset ≠ 0x010 → offset ≠ 0x014 → offset ≠ 0x01C →
        offset ≠ 0x020 → offset ≠ 0x024 → offset ≠ 0x028 →
        exec (.registerWrite offset 4 v) s = .next s)

/-- EVENTS reads STREAM above the nine stored bits, STREAM is the OR of the enabled STREAM EVENTS
bits, a stream that is not defined has no bit, and IRQn is low while an enabled bit is set (R191). The
status registers and TIME read as R199 lays them out, and the three windows show the map, the peer table
and the streams as R200 does (R36, R94, R138, R182, R196), with the codes of
those rules; a WO register and an offset that names nothing read 0, and a read of fewer than four bytes
returns the addressed bytes of the word. That the candidate count of an entry which is
not UNSURE reads 0 is, for HELD and pending entries, the model's choice (log 42), and that the bytes of a
word are addressed so is its reading (log 30). -/
def Obligations.RegistersAndWindowsShowTheState : Prop :=
  ([Membership.offline, .loading, .listening, .announcing, .member, .leaving, .lost, .refused].map
      Membership.code = [0, 1, 2, 3, 4, 5, 6, 7]
    ∧ [RefusalReason.none, .profile, .profileFault, .duplicate].map RefusalReason.code = [0, 1, 2, 3]
    ∧ [ProfileFault.none, .format, .count, .check, .station, .label, .width, .ringBase, .sendLabel].map
      ProfileFault.code = [0, 1, 2, 3, 4, 5, 6, 7, 8]
    ∧ [CommandResult.none, .done, .queueFull, .badStream, .wrongState, .notMember].map
      CommandResult.code = [0, 1, 2, 3, 4, 5]
    ∧ [CloseReason.none, .host, .lost, .leave, .labelClash, .busFault].map CloseReason.code
      = [0, 1, 2, 3, 4, 5]
    ∧ [StreamState.closed, .claiming, .armed, .running, .repairing, .suspended, .closing, .seeking,
      .tuned].map StreamState.code = [0, 1, 2, 3, 4, 5, 6, 8, 9]
    ∧ [PeerState.unheard, .present, .missing, .absent].map PeerState.code = [0, 1, 2, 3])
  ∧ ∀ s : State,
    (∀ i : Nat, i < 9 → s.eventsRead.getLsbD i = s.events.getLsbD i)
    ∧ (s.eventsRead.getLsbD 9 = true ↔ ∃ (n : Fin 16) (st : Machine.Stream),
        s.streams[n] = some st ∧ st.event = true ∧ s.streamEventEnable.getLsbD n.val = true)
    ∧ (s.irqnLow = true ↔
        ∃ i : Nat, i < 10 ∧ s.eventsRead.getLsbD i = true ∧ s.eventEnable.getLsbD i = true)
    ∧ s.readWord 0x01C = s.eventsRead.setWidth 32
    ∧ (∀ n : Fin 16, (s.readWord 0x024).getLsbD n.val = (s.streams[n]).any (·.event))
    ∧ s.readWord 0x000 = 0x57440330#32 ∧ s.readWord 0x004 = 0 ∧ s.readWord 0x010 = 0
    ∧ s.readWord 0x020 = s.eventEnable.setWidth 32
    ∧ s.readWord 0x028 = s.streamEventEnable.setWidth 32
    ∧ (s.readWord 0x024).extractLsb' 16 16 = 0
    ∧ (∀ k : Nat, 12 ≤ k ∧ k < 64 ∨ 88 ≤ k ∧ k < 128 ∨ 256 ≤ k ∧ k < 1024 → s.readWord (4 * k) = 0)
    ∧ (∀ offset bytes i : Nat, bytes < 4 → i < 32 →
        (s.readBytes offset bytes).getLsbD i = (decide (i < 8 * bytes)
          && (s.readWord (4 * (offset / 4))).getLsbD (8 * (offset % 4) + i)))
    ∧ s.readWord 0x00C = s.profileAddress ∧ s.readWord 0x014 = s.commandArgument
    ∧ s.readWord 0x02C = (0#8 ++ s.cycle ++ s.index : BitVec (8 + 16 + 8))
    ∧ s.readWord 0x008 =
        (0#10 ++ BitVec.ofNat 2 s.joinAttempts ++ 0#1 ++ BitVec.ofNat 3 s.damageCount
          ++ s.faultStream ++ s.profileFault.code ++ 0#1 ++ s.refusalReason.code
          ++ s.membership.code : BitVec (10 + 2 + 1 + 3 + 4 + 4 + 1 + 3 + 4))
    ∧ s.readWord 0x018 =
        (0#25 ++ s.lastResult.code ++ 0#2 ++ BitVec.ofBool s.rejected
          ++ BitVec.ofBool s.command.isSome : BitVec (25 + 3 + 2 + 1 + 1))
    ∧ (∀ i : Fin 24,
        let shows (c : Claimant) (count : BitVec 2) (code : BitVec 4) : Word :=
          (0#4 ++ c.label ++ 0#3 ++ c.station ++ c.priority ++ count ++ code
            : BitVec (4 + 12 + 3 + 5 + 2 + 2 + 4))
        match s.slots[i].entry with
        | .unknown => s.readWord (0x100 + 4 * i.val) = 0
        | .free => s.readWord (0x100 + 4 * i.val) = 1
        | .held h _ => s.readWord (0x100 + 4 * i.val) = shows h 0 2
        | .claimPending c _ => s.readWord (0x100 + 4 * i.val) = shows c.bidder 0 3
        | .releasePending h => s.readWord (0x100 + 4 * i.val) = shows h 0 4
        | .unsure cs => cs ≠ [] → ∃ c ∈ cs, (∀ c' ∈ cs, c.station.toNat ≤ c'.station.toNat)
            ∧ s.readWord (0x100 + 4 * i.val) = shows c (BitVec.ofNat 2 cs.length) 5)
    ∧ (∀ k : Fin 32,
        s.peerWords k =
          [(s.peers[k].lastHeard.getD 0 ++ 0#4
              ++ BitVec.ofNat 4 (heldCount s.slots (BitVec.ofNat 5 k.val)) ++ 0#3
              ++ BitVec.ofBool s.peers[k].standing.isSome ++ BitVec.ofNat 2 s.peers[k].unheard
              ++ s.peers[k].state.code : BitVec (16 + 4 + 4 + 3 + 1 + 2 + 2)),
           s.peers[k].standing.getD 0]
        ∧ s.readWord (0x200 + 8 * k.val) = (s.peerWords k).getD 0 0)
    ∧ ∀ n : Fin 16, s.readWord (0x300 + 16 * n.val) = (s.streamWords n).getD 0 0
        ∧ match s.streams[n] with
          | none => s.streamWords n = [0, 0, 0, 0]
          | some st => s.streamWords n =
            [(0#4 ++ st.defn.label ++ 0#5 ++ st.closeReason.code ++ 0#3 ++ BitVec.ofBool (!st.isSend)
                ++ st.state.code : BitVec (4 + 12 + 5 + 3 + 3 + 1 + 4)),
             (0#22 ++ BitVec.ofBool st.everFull ++ BitVec.ofBool st.awaiting ++ 0#3
                ++ BitVec.ofBool st.overrunSeen ++ BitVec.ofBool st.cueMiss
                ++ BitVec.ofBool st.latched ++ BitVec.ofBool st.starved ++ BitVec.ofBool st.stalled
                : BitVec (22 + 1 + 1 + 3 + 1 + 1 + 1 + 1 + 1)),
             (0#11 ++ BitVec.ofNat 5 (if st.isSend then
                  (ownHoldings s.slots s.number st.defn.label).length
                else (carriers s.slots st.defn.label).length)
                ++ 0#4 ++ (if st.isSend then st.nextSeq else st.expectation.getD 0)
                ++ st.ringIndex : BitVec (11 + 5 + 4 + 4 + 8)),
             0]

/-- A read of the first word of a peer-table or stream-status entry captures the whole entry and
returns its first word; a read anywhere else returns the word there and captures nothing, and no read
changes anything more. The other words of the captured entry are answered from the capture, those of any
other entry live (R182, R192). That an offset which is no multiple of 4 addresses the word it lies in is
the model's reading (log 30). -/
def Obligations.FirstWordReadCapturesTheEntry : Prop :=
  ∀ s : State,
    (∀ (k : Fin 32) (words : List Word), s.capture = some ⟨0x200 + 8 * k.val, words⟩ →
      s.readWord (0x204 + 8 * k.val) = words.getD 1 0)
    ∧ (∀ k : Fin 32, (∀ c, s.capture = some c → c.base ≠ 0x200 + 8 * k.val) →
      s.readWord (0x204 + 8 * k.val) = s.peers[k].standing.getD 0)
    ∧ (∀ (n : Fin 16) (words : List Word) (j : Nat), s.capture = some ⟨0x300 + 16 * n.val, words⟩ →
      1 ≤ j → j ≤ 3 → s.readWord (0x300 + 16 * n.val + 4 * j) = words.getD j 0)
    ∧ (∀ (n : Fin 16) (j : Nat), (∀ c, s.capture = some c → c.base ≠ 0x300 + 16 * n.val) →
      1 ≤ j → j ≤ 3 → s.readWord (0x300 + 16 * n.val + 4 * j) = (s.streamWords n).getD j 0)
    ∧ (∀ (k : Fin 32), ∃ t, exec (.entryCapture (BitVec.ofNat 12 (0x200 + 8 * k.val))) s = .next t
      ∧ t = { s with readData := t.readData, capture := t.capture }
      ∧ t.capture = some ⟨0x200 + 8 * k.val, s.peerWords k⟩
      ∧ t.readData = (s.peerWords k).getD 0 0)
    ∧ (∀ (n : Fin 16), ∃ t, exec (.entryCapture (BitVec.ofNat 12 (0x300 + 16 * n.val))) s = .next t
      ∧ t = { s with readData := t.readData, capture := t.capture }
      ∧ t.capture = some ⟨0x300 + 16 * n.val, s.streamWords n⟩
      ∧ t.readData = (s.streamWords n).getD 0 0)
    ∧ (∀ offset : BitVec 12, (∀ k : Nat, k < 32 → 4 * (offset.toNat / 4) ≠ 0x200 + 8 * k) →
      (∀ n : Nat, n < 16 → 4 * (offset.toNat / 4) ≠ 0x300 + 16 * n) →
      exec (.entryCapture offset) s
        = .next { s with readData := s.readWord (4 * (offset.toNat / 4)) })

/-! ### Pins and timers -/

/-- A rising edge on a CUEIN pin sets the pending edge of its line in MEMBER, or merges with one that
is pending and raises CUE_MERGED; a pin that is not forwarded, or another membership state, leaves no
trace (R172). The end of a pulse takes its CUEOUT pin low and leaves the others (R173). The quiet wait
ends with a plain edge; the frame timer ends with the census mark at an ALIGNED station of index 255, and
with a plain edge otherwise (R2, R3, R4). That the expiry of a timer which does not run changes nothing is
the model's choice (log 1). -/
def Obligations.PinsAndTimersAct : Prop :=
  (∀ (pin : BitVec 2) (s : State),
    (∃ t, exec (.cueoutPulseEnd pin) s = .next t
      ∧ t = { s with cueOut := t.cueOut } ∧ t.cueOut.getLsbD pin.toNat = false
      ∧ ∀ c : Nat, c ≠ pin.toNat → t.cueOut.getLsbD c = s.cueOut.getLsbD c)
    ∧ (∀ line : BitVec 2, s.membership = .member →
      s.cueForward[pin.toNat]'pin.isLt = some line →
      exec (.cueEdge pin) s = .next
        (if s.cuePending.getLsbD line.toNat = true then { s with events := s.events ||| 0x80 }
         else { s with cuePending := s.cuePending ||| 1#4 <<< line.toNat }))
    ∧ (s.membership ≠ .member ∨ s.cueForward[pin.toNat]'pin.isLt = none →
      exec (.cueEdge pin) s = .next s))
  ∧ ∀ s : State,
    (s.timer = .quietWait →
      exec .quietWaitExpiry s = .next { s with timer := .expired, tsync := .plain })
    ∧ (s.timer = .ordinary ∨ s.timer = .census →
      exec .frameTimerExpiry s = .next
        { s with timer := .expired
                 tsync := if s.aligned = true ∧ s.index = 255 then .mark else .plain })
    ∧ (s.timer ≠ .quietWait → exec .quietWaitExpiry s = .next s)
    ∧ (s.timer ≠ .ordinary → s.timer ≠ .census → exec .frameTimerExpiry s = .next s)

/-! ### Frame starts -/

/-- A frame start cuts the frame in progress short: what it had not delivered arrives first, the header
damaged, then each cell damaged if its VALID bit was received set and silent otherwise, or each census
cell damaged (R9). Nothing is cut from a frame that has been delivered, and a station that takes no
arrival sees no frame start (R1). That a cell cut off after a damaged header is silent, as no VALID bit is
known, is the model's reading (log 20); that a cell of this station whose turn had not come has a damaged
readback is its choice (log 34). -/
def Obligations.FrameStartCutsTheFrameShort : Prop :=
  ∀ (mark : Bool) (arb : List Halves) (s : State),
    (Delivered s → s.cutShort arb = s)
    ∧ (∀ f, s.frame = some f → f.header = .due →
        s.cutShort arb = (s.takeHeader (.damaged arb)).cutShort arb)
    ∧ (∀ f, s.frame = some f → f.header ≠ .due → f.census = false → f.arrived < 24 →
        s.cutShort arb = (s.takeCell f.arrived
          (if f.validAt f.arrived = some true then .damaged else .silent)).cutShort arb)
    ∧ (∀ f, s.frame = some f → f.header ≠ .due → f.census = true → f.arrived < 32 →
        s.cutShort arb = (s.takeCensus f .damaged).cutShort arb)
    ∧ (s.membership.receives = false → exec (.frameStart mark arb) s = .next s.pump)
    ∧ (s.membership.receives = true → (s.cutShort arb).membership.receives = false →
        exec (.frameStart mark arb) s = .next (s.cutShort arb).pump)

/-- Once the frame in progress has been cut, a frame start moves the index, the alignment and the cycle
number on, restarts the timer, opens the frame, and ends LOST at a census mark (R2, R4 to R6, R8, R75,
R91); the map, the peer table and the events stay. Each plain frame start of an UNALIGNED LISTENING
station raises the bootstrap count by one, and a LOST station enters LISTENING with the count at 0 (R8).
The edge is long, too, where this station drives the mark itself, which is the model's reading of R4
(log 8). BOOTSTRAP, the plain frame start that brings the count to 512, makes the station ALIGNED with
index 255 (R8). -/
def Obligations.FrameStartMovesTheIndex : Prop :=
  (∀ (mark long boots : Bool) (arb : List Halves) (s u : State), s.membership.receives = true →
    u = s.cutShort arb → u.membership.receives = true →
    (u.membership = .leaving → u.hasPart = true) → long = (mark || u.tsync == .mark) →
    boots = (u.membership == .listening && !u.aligned && !long && 512 ≤ u.bootstrap + 1) →
    ∃ t, exec (.frameStart mark arb) s = .next t
      ∧ t.index = (if long then 0 else if u.aligned then (if u.index = 255 then 255 else u.index + 1)
                   else if boots then 255 else 0)
      ∧ t.aligned = (u.aligned || long || boots)
      ∧ (long = false → t.bootstrap = if u.membership = .listening ∧ u.aligned = false then u.bootstrap + 1
          else u.bootstrap)
      ∧ (long = true → u.membership = .lost → t.bootstrap = 0)
      ∧ t.cycle = (if long then u.cycle + 1 else u.cycle)
      ∧ t.timer = (if long then .census else .ordinary) ∧ t.tsync = .undriven
      ∧ t.membership = (if u.membership = .lost ∧ long = true then .listening else u.membership)
      ∧ t.frame = some
          { census := long
            unexpected := u.membership.drives && u.aligned && (long != (u.index == 255))
            header := .due, arrived := 0, heard := [], ownReadback := none }
      ∧ t.slots = u.slots ∧ t.peers = u.peers ∧ t.events = u.events ∧ t.standing = u.standing
      ∧ t.damageCount = u.damageCount ∧ t.command = u.command)
  ∧ ∀ (arb : List Halves) (s : State), s.membership = .listening → s.aligned = false →
    s.bootstrap = 511 → Delivered s → s.tsync ≠ .mark →
    ∃ t, exec (.bootstrap arb) s = .next t ∧ t.aligned = true ∧ t.index = 255
      ∧ t.bootstrap = 512 ∧ t.membership = .listening ∧ t.timer = .ordinary ∧ t.cycle = s.cycle
      ∧ t.slots = s.slots

/-- At a frame start a MEMBER or LEAVING station drives the veto it owes, its pending cue edges, the
RELEASE bits of its intended held slots in an ordinary header, and, in a frame that opened as expected,
its chosen bid and a VALID bit exactly where it drives a cell; veto and edges are then spent. A cell goes
into a slot HELD by the station and outside its release intent, and every such slot that a sending stream
chose for a staged word gets one. A listener's cue action takes effect, and in an ordinary header STALL is
driven for the carriers of each TUNED listener that no WAIT hold stops and whose room is below twice their
number (R7, R10, R14, R33, R47, R48, R50, R115, R125, R164, R172, R179). The edge is long, too, where this
station drives the mark itself, which is the model's reading of R4 (log 8). -/
def Obligations.FrameStartDrivesWhatIsOwed : Prop :=
  ∀ (mark long : Bool) (arb : List Halves) (s u : State), s.membership.receives = true →
    u = s.cutShort arb → u.membership.drives = true →
    (u.membership = .leaving → u.hasPart = true) → long = (mark || u.tsync == .mark) →
    ∃ t, exec (.frameStart mark arb) s = .next t
      ∧ t.drive.header.veto = u.vetoOwed ∧ t.vetoOwed = false
      ∧ t.drive.header.cue = u.cuePending ∧ t.cuePending = 0
      ∧ (∀ i : Fin 24, t.drive.header.release.getLsbD i.val
          = (!long && u.slots[i].intent && u.slots[i].entry.heldBy u.number))
      ∧ (∀ i : Fin 24, t.drive.header.valid.getLsbD i.val = (t.drive.cells[i]).isSome)
      ∧ (∀ (i : Fin 24) (c : Cell), t.drive.cells[i] = some c →
          long = false ∧ (u.aligned = true → u.index ≠ 255) ∧ c.owner = u.number
          ∧ u.slots[i].intent = false
          ∧ ∃ h damage, u.slots[i].entry = .held h damage ∧ h.station = u.number
              ∧ h.label = c.label ∧ h.priority = c.priority)
      ∧ t.drive.header.bid
          = (if long = false ∧ (u.aligned = true → u.index ≠ 255) then u.chosenBid.map (·.bid)
             else none)
      ∧ (long = true → t.drive.header.stall = 0)
      ∧ t.drive.census = none ∧ t.chosenBid = none
      ∧ (∀ (n : Fin 16) (st : Machine.Stream) (i : Fin 24), u.streams[n] = some st →
          st.isSend = true → st.cueAction = none → st.sending = true →
          st.chosen.length ≤ st.staging.length → i ∈ st.chosen →
          u.slots[i].entry.heldBy u.number = true → u.slots[i].intent = false →
          long = false → (u.aligned = true → u.index ≠ 255) → (t.drive.cells[i]).isSome = true)
      ∧ (long = false → ∀ i : Fin 24, t.drive.header.stall.getLsbD i.val = true ↔
          ∃ (n : Fin 16) (st : Machine.Stream), t.streams[n] = some st ∧ st.isSend = false
            ∧ st.stalled = true ∧ ∃ h damage, u.slots[i].entry = .held h damage
              ∧ h.label = st.defn.label)
      ∧ (∀ (n : Fin 16) (st : Machine.Stream), u.streams[n] = some st → st.isSend = false →
          ∃ st', t.streams[n] = some st'
            ∧ Sys2Proof.Stream.still { st' with stalled := st.stalled }
              = Sys2Proof.Stream.still { st.applyCue u.slots with stalled := st.stalled }
            ∧ (long = true → st'.stalled = st.stalled)
            ∧ (long = false → (st'.stalled = true ↔ st'.state = .tuned ∧ st'.listenHold = false
                ∧ (st'.current.elim 0 fun d => d.capacity - d.count)
                    + st'.next.elim 0 (·.capacity)
                  < 2 * (carriers u.slots st.defn.label).length)))

/-- What a send stream sends in the frame that a frame start opens. In an ordinary frame that opened as
the station expected, a stream still sending drives its first staged words, in order, in its chosen
slots that it may still fill; a LOSSY stream short of slots then discards what it planned, if every
chosen word was driven; and the choice is spent. Each cell carries this station, the label and priority
of the slot's entry, the next sequence, which rises with each word, the block mark of the word and the
word (R125 to R127, R146). A word that leaves is counted in the descriptor it belongs to, and the
descriptor's last word finishes it: the ring index passes it, NOTIFY of a KEEP one sets the event, one
that is not KEEP joins the write-back queue, and so does every zero-count one behind it, EMPTY (R145,
R148, R150). When the last staged word leaves at a ring end the stream is STARVED, with its event at the
onset (R144). The edge is long, too, where this station drives the mark itself, which is the model's
reading of R4 (log 8). -/
def Obligations.FrameStartSendsTheChosenWords : Prop :=
  (∀ (mark long : Bool) (arb : List Halves) (s u : State) (n : Fin 16) (st : Machine.Stream),
    s.membership.receives = true → u = s.cutShort arb → u.membership.drives = true →
    (u.membership = .leaving → u.hasPart = true) → long = (mark || u.tsync == .mark) →
    u.streams[n] = some st → st.isSend = true → st.cueAction = none →
    let expected := long = false ∧ (u.aligned = true → u.index ≠ 255)
    let sent : List (Fin 24) :=
      if expected ∧ (st.state = .running ∨ st.state = .repairing) ∧ st.awaiting = false then
        st.chosen.filter fun i => u.slots[i].entry.heldBy u.number && !u.slots[i].intent
      else []
    let gone : Nat :=
      if expected ∧ st.defn.cls = .lossy ∧ (st.state = .repairing ∨ st.state = .suspended)
        ∧ st.awaiting = false ∧ sent.length = st.chosen.length then st.discards else 0
    ∃ t st', exec (.frameStart mark arb) s = .next t ∧ t.streams[n] = some st'
      ∧ st'.chosen = [] ∧ st'.discards = 0
      ∧ st'.staging
        = ((st.leaveWords true t.stamp sent.length).leaveWords false t.stamp gone).staging
      ∧ st'.nextSeq
        = ((st.leaveWords true t.stamp sent.length).leaveWords false t.stamp gone).nextSeq
      ∧ st'.held = ((st.leaveWords true t.stamp sent.length).leaveWords false t.stamp gone).held
      ∧ st'.ringIndex
        = ((st.leaveWords true t.stamp sent.length).leaveWords false t.stamp gone).ringIndex
      ∧ st'.writeBack
        = ((st.leaveWords true t.stamp sent.length).leaveWords false t.stamp gone).writeBack
      ∧ (let starves := 0 < sent.length + gone ∧ st.ringEnd = true ∧ st'.staging = []
        (st'.starved = true ↔ st.starved = true ∨ starves)
        ∧ (st.isOpen = true → (st'.event = true ↔
            ((st.leaveWords true t.stamp sent.length).leaveWords false t.stamp gone).event = true
            ∨ starves ∧ st.starved = false)))
      ∧ ∀ (j : Nat) (i : Fin 24) (w : Staged), sent[j]? = some i → st.staging[j]? = some w →
          st.chosen.Nodup →
          (∀ (m : Fin 16) (st₂ : Machine.Stream), m ≠ n → u.streams[m] = some st₂ →
            i ∉ st₂.chosen) →
          ∃ h damage, u.slots[i].entry = .held h damage
            ∧ t.drive.cells[i] = some ⟨u.number, h.priority, h.label,
                st.nextSeq + BitVec.ofNat 4 j, st.blockMark w, w.word⟩)
  ∧ ∀ (driven : Bool) (now : Stamp) (st : Machine.Stream) (w : Staged) (ws : List Staged)
      (d : TxDesc) (rest : List TxDesc), st.staging = w :: ws → st.held = d :: rest →
    let left := { d with
      sent := if driven then d.sent + 1 else d.sent
      gone := d.gone + 1
      discarded := d.discarded || !driven
      lastStamp := now }
    let x := st.leaveWord driven now
    (∀ k, st.leaveWords driven now (k + 1) = x.leaveWords driven now k)
    ∧ x.staging = ws ∧ x.nextSeq = st.nextSeq + 1
    ∧ (d.gone + 1 < d.count → x.held = left :: rest ∧ x.ringIndex = st.ringIndex
        ∧ x.writeBack = st.writeBack ∧ x.event = st.event)
    ∧ (d.count ≤ d.gone + 1 →
      let empties := rest.takeWhile fun z => z.count == 0
      let last := (empties.getLast?.map fun z => (z.index, z.wrap)).getD (d.index, d.wrap)
      x.event = (st.event || (d.keep && d.notify))
      ∧ x.held = rest.dropWhile (fun z => z.count == 0) ∧ x.ringIndex = nextIndex last.1 last.2
      ∧ x.writeBack = (if d.keep then st.writeBack
          else st.writeBack ++ [⟨left, now, false, false, false, false⟩])
        ++ empties.map fun z => ⟨z, now, false, true, false, false⟩)

/-! ### Headers -/

/-- An intact header in ANNOUNCING, MEMBER or LEAVING settles, judges and releases, in that order, and
leaves the entries so, but for a LEAVING station that then has no part in the map: it is OFFLINE, with
LEFT raised (R37, R101). A slot is then in the release intent exactly when its entry allows it and it was
in the intent or is asked for, by the streams as they were or as the arrival leaves them (R46, R49, R52).
In MEMBER and LEAVING the CUE bits pulse their CUEOUT pins (R173). In LISTENING and LOST only a pending
command is taken (R21, R187). In a frame that opened unexpectedly the header is a damaged one
(R5, R6). -/
def Obligations.IntactHeaderSettlesJudgesReleases : Prop :=
  ∀ (bits : HeaderBits) (s m : State) (f : Frame),
    s.frame = some f → f.header = .due →
    m = ((s.settleAll (headerFields f bits).veto).judgeBid (headerFields f bits).bid).applyReleases
          (headerFields f bits).release →
    (f.unexpected = false → s.membership.judges = true →
      ∃ t, exec (.headerArrival bits) s = .next t
        ∧ if s.membership = .leaving ∧ m.hasPart = false then
            t.membership = .offline ∧ t.events.getLsbD 3 = true
              ∧ t.slots = Vector.replicate 24 Slot.reset
          else
            (∀ i : Fin 24, t.slots[i].entry = m.slots[i].entry
              ∧ (t.slots[i].intent = true ↔ Entry.StaysIntended s.number m.slots[i].entry
                ∧ (s.slots[i].intent = true
                  ∨ Entry.AskedFor s.number s.streams m.slots[i].entry
                  ∨ Entry.AskedFor s.number t.streams m.slots[i].entry)))
            ∧ t.cueOut = (if s.membership.drives then s.cueOut ||| (headerFields f bits).cue
                else s.cueOut)
            ∧ t.frame = some { f with header := .intact (headerFields f bits).valid }
            ∧ t.membership = s.membership ∧ t.damageCount = s.damageCount
            ∧ t.vetoOwed = s.vetoOwed ∧ t.index = s.index ∧ t.cycle = s.cycle ∧ t.peers = s.peers
            ∧ t.bidDriven = none ∧ t.command = none)
    ∧ (f.unexpected = false → s.membership = .listening ∨ s.membership = .lost →
      ∃ t, exec (.headerArrival bits) s = .next t
        ∧ t.frame = some { f with header := .intact (headerFields f bits).valid }
        ∧ t.slots = s.slots ∧ t.membership = s.membership ∧ t.peers = s.peers ∧ t.command = none)
    ∧ (f.unexpected = true →
      exec (.headerArrival bits) s = exec (.damagedHeader []) s)

/-- Settling: with VETO clear a pending claim becomes HELD by its bidder with readback damage count 0
and a pending release FREE; with VETO set each goes back to what it was; other entries stay
(R38, R39). A set RELEASE bit makes a HELD entry RELEASE_PENDING when its holder is PRESENT or MISSING,
or UNHEARD while this station is ANNOUNCING, and nothing else does (R44). A peer's entry stores 0 as its
readback damage count (log 27). -/
def Obligations.VetoDecidesPendingEntries : Prop :=
  ∀ (veto : Bool) (bits : BitVec 24) (s : State) (i : Fin 24),
    (s.settleAll veto).slots[i].intent = s.slots[i].intent
    ∧ (s.settleAll veto).slots[i].entry =
      (match s.slots[i].entry, veto with
      | .claimPending c _, false => .held c.bidder 0
      | .releasePending _, false => .free
      | .claimPending _ none, true => .free
      | .claimPending _ (some h), true => .held h 0
      | .releasePending h, true => .held h 0
      | e, _ => e)
    ∧ (s.applyReleases bits).slots[i].intent = s.slots[i].intent
    ∧ (s.applyReleases bits).slots[i].entry =
      match s.slots[i].entry with
      | .held h d =>
        if bits.getLsbD i.val = true ∧ ((s.peer h.station).state = .present
          ∨ (s.peer h.station).state = .missing
          ∨ (s.peer h.station).state = .unheard ∧ s.membership = .announcing)
        then .releasePending h else .held h d
      | e => e

/-- A bid whose target is FREE or HELD is valid exactly when the bidder has standing, the target may
be had, no other station uses the label, and the bidder is below the holding limit (R41). -/
def Obligations.BidIsValidByFourConditions : Prop :=
  ∀ (s : State) (b : Bid) (e : Entry), (e = .free ∨ ∃ h d, e = .held h d) →
    (s.bidValid b e = true ↔
      ((s.peer b.station).state = .present ∨ (s.peer b.station).state = .missing
        ∨ (s.peer b.station).state = .unheard ∧ s.membership = .announcing)
      ∧ (e = .free ∨ ∃ h d, e = .held h d ∧ h.station ≠ b.station ∧ b.preempt = true
          ∧ h.priority.toNat < b.priority.toNat)
      ∧ (∀ k ∈ labelUsers s.slots b.label, k = b.station)
      ∧ holdingCount s.slots b.station < 8)

/-- What a bid with a label and a target slot does: a valid one makes the entry CLAIM_PENDING with the
bid frame of the header, keeping a holder as prior holder; an invalid one changes nothing; at an UNSURE
entry the bidder joins fewer than three candidates it is not among; an UNKNOWN entry stays; no other
slot changes (R20, R40, R42, R43). -/
def Obligations.BidActsOnItsTarget : Prop :=
  ∀ (b : Bid) (s : State) (i : Fin 24),
    (b.label = 0 ∨ b.slot.toNat ≠ i.val →
      (s.judgeBid (some b)).slots[i].entry = s.slots[i].entry)
    ∧ (b.label ≠ 0 → b.slot.toNat = i.val →
        (s.judgeBid (some b)).slots[i].entry =
        match s.slots[i].entry with
        | .free =>
          if s.bidValid b .free then
            .claimPending ⟨⟨b.station, b.label, b.priority⟩, s.stamp⟩ none
          else .free
        | .held h d =>
          if s.bidValid b (.held h d) then
            .claimPending ⟨⟨b.station, b.label, b.priority⟩, s.stamp⟩ (some h)
          else .held h d
        | .unsure cs =>
          if (∃ c ∈ cs, c.station = b.station) ∨ 3 ≤ cs.length then .unsure cs
          else .unsure (cs ++ [⟨b.station, b.label, b.priority⟩])
        | e => e)

/-- A damaged header turns pending entries UNSURE with their candidates and leaves no bid and no word of
a PACED stream for the next frame; in MEMBER and LEAVING, below the limit, it also counts and is owed a
veto, every open stream bound to a cue line is marked CUE_MISS with its event and the mark for its next
hand-back, and no CUEOUT pin pulses; in ANNOUNCING it does none of this (R50, R63 to R66, R70, R98,
R180). A slot is then in the release intent exactly when its entry allows it and it was in the intent or
is asked for, by the streams as they were or as the arrival leaves them (R46, R49). A LEAVING station
with no part in the map is OFFLINE (R101). In LISTENING and LOST only a pending command is taken (R187).
That CUE_MISS is marked before a command pending there is taken is the model's reading (log 9). -/
def Obligations.DamagedHeaderUnsettlesTheMap : Prop :=
  ∀ (arb : List Halves) (s : State) (f : Frame), s.frame = some f → f.header = .due →
    (s.membership.judges = true → (s.membership.drives = true → s.damageCount < 4) →
      ∃ t, exec (.damagedHeader arb) s = .next t
        ∧ if s.membership = .leaving ∧ s.hasPart = false then
            t.membership = .offline ∧ t.events.getLsbD 3 = true
          else
            t.membership = s.membership
            ∧ t.damageCount = (if s.membership.drives then s.damageCount + 1 else s.damageCount)
            ∧ t.vetoOwed = (s.vetoOwed || s.membership.drives)
            ∧ t.chosenBid = none ∧ t.bidDriven = none ∧ t.command = none
            ∧ t.frame = some { f with header := .damaged }
            ∧ (∀ i : Fin 24, t.slots[i].entry =
                match s.slots[i].entry with
                | .claimPending c none => .unsure [c.bidder]
                | .claimPending c (some h) => .unsure [h, c.bidder]
                | .releasePending h => .unsure [h]
                | e => e)
            ∧ (∀ i : Fin 24, t.slots[i].intent = true ↔
                Entry.StaysIntended s.number t.slots[i].entry
                ∧ (s.slots[i].intent = true
                  ∨ Entry.AskedFor s.number s.streams t.slots[i].entry
                  ∨ Entry.AskedFor s.number t.streams t.slots[i].entry))
            ∧ (∀ (n : Fin 16) (st : Machine.Stream), t.streams[n] = some st → st.isSend = true →
                st.defn.cls = .paced → st.chosen = [])
            ∧ (∀ (n : Fin 16) (st : Machine.Stream), s.streams[n] = some st →
                ∃ st', t.streams[n] = some st'
                ∧ (s.membership.drives = true → st.isOpen = true → st.defn.cue.isSome = true →
                    st'.cueMiss = true ∧ st'.cueMissMark = true ∧ st'.event = true)
                ∧ (s.command = none →
                    (s.membership.drives = false ∨ st.isOpen = false ∨ st.defn.cue = none) →
                    st'.cueMiss = st.cueMiss ∧ st'.cueMissMark = st.cueMissMark))
            ∧ t.cueOut = s.cueOut ∧ t.peers = s.peers)
    ∧ (s.membership = .listening ∨ s.membership = .lost →
      ∃ t, exec (.damagedHeader arb) s = .next t
        ∧ t.frame = some { f with header := .damaged } ∧ t.slots = s.slots
        ∧ t.membership = s.membership ∧ t.damageCount = s.damageCount
        ∧ t.vetoOwed = s.vetoOwed ∧ t.command = none)

/-- The fifth damaged header of a cycle ends membership: MEMBER enters LOST with every stream that is
open or CLOSING made CLOSED with reason LOST and no event, the map and the peer table emptied, nothing
driven and no veto owed; LEAVING enters OFFLINE, its streams gone. LOST is raised, and LEFT is as it was
(R71, R73, R76, R133, R137). -/
def Obligations.FifthDamagedHeaderEndsMembership : Prop :=
  ∀ (arb : List Halves) (s : State) (f : Frame), s.membership.drives = true →
    s.frame = some f → f.header = .due → s.damageCount = 4 →
    ∃ t, exec (.damageLimit arb) s = .next t
      ∧ t.membership = (if s.membership = .member then .lost else .offline)
      ∧ t.slots = Vector.replicate 24 Slot.reset ∧ t.peers = Vector.replicate 32 Peer.never
      ∧ t.openQueue = [] ∧ t.wins = [] ∧ t.chosenBid = none ∧ t.vetoOwed = false
      ∧ t.drive = Drive.nothing ∧ t.cuePending = 0
      ∧ (∀ (n : Fin 16) (st : Machine.Stream), t.streams[n] = some st → st.isOpen = false)
      ∧ (s.membership = .leaving → t.streams = Vector.replicate 16 none)
      ∧ (s.membership = .member → ∀ (n : Fin 16) (st : Machine.Stream), s.streams[n] = some st →
          ∃ st', t.streams[n] = some st' ∧ st'.defn = st.defn ∧ st'.event = st.event
            ∧ (st.isOpen = true ∨ st.isSend = true ∧ st.state = .closing →
                st'.state = .closed ∧ st'.closeReason = .lost)
            ∧ (st.state = .closed → st'.state = .closed ∧ st'.closeReason = st.closeReason))
      ∧ t.events.getLsbD 2 = true ∧ t.events.getLsbD 3 = s.events.getLsbD 3
      ∧ t.damageCount = (if s.membership = .member then 5 else 0)

/-- The pending command is taken at the header arrival, intact or damaged, of every state that takes headers:
BUSY is cleared, the result is written and COMMAND_DONE raised (R187). STANDING is answered DONE and sets the
standing word to COMMAND ARGUMENT (R190). OPEN and CLOSE are answered NOT_MEMBER outside MEMBER, and where
the header takes the station to LOST; in MEMBER by R188 and R189, QUEUE_FULL by the queue that the departures of
this header leave. An OPEN answered DONE opens the stream, placed by the map as the header leaves it and, if it
sends and is not full, queued, unless the label check closes it in this same header (R111, R121, R123, R135);
a CLOSE answered DONE closes it and its ring, at once or through CLOSING (R131, R132, R136). A command pending
at entry to REFUSED is taken there, and one pending at entry to OFFLINE is dropped (R187). Without a pending
command nothing of this happens. -/
def Obligations.HeaderTakesTheCommand : Prop :=
  (∀ (header : HeaderRx) (s : State) (f : Frame), s.membership.receives = true →
    s.frame = some f → f.header = .due →
    ∃ t, exec header.command s = .next t ∧ t.command = none
      ∧ (t.membership = .offline → t.lastResult = .none ∧ t.rejected = false ∧ t.standing = none)
      ∧ (t.membership ≠ .offline → t.rejected = s.rejected
        ∧ (s.command = none → t.lastResult = s.lastResult ∧ t.standing = s.standing
            ∧ t.events.getLsbD 8 = s.events.getLsbD 8)
        ∧ ∀ c : Command, s.command = some c → t.events.getLsbD 8 = true
          ∧ t.standing = (if c.code = .setStanding then some s.commandArgument else s.standing)
          ∧ (c.code = .setStanding → t.lastResult = .done)
          ∧ (c.code ≠ .setStanding → t.membership ≠ .member → t.lastResult = .notMember)
          ∧ (c.code ≠ .setStanding → t.membership = .member →
            match s.streams[c.stream.toFin] with
            | none => t.lastResult = .badStream ∧ t.streams[c.stream.toFin] = none
            | some st => t.lastResult =
              if c.code = .closeStream then (if st.state = .closed then .wrongState else .done)
              else if st.state ≠ .closed then .wrongState
              else if st.isSend = true ∧ 8 ≤ (s.openQueue.filter fun m => (s.streams[m]).any fun x =>
                let y := x.report s.number s.slots t.slots
                y.isSend && y.state.openSend && !y.everFull).length then .queueFull
              else .done)
          ∧ (t.membership = .member → t.lastResult = .done → ∀ st : Machine.Stream,
              s.streams[c.stream.toFin] = some st → ∃ st', t.streams[c.stream.toFin] = some st'
              ∧ st'.defn = st.defn
              ∧ (c.code = .closeStream → st.isOpen = true → st'.closeReason = .host
                ∧ st'.state = (if st.isSend = true ∧ t.streamHasPart c.stream.toFin st = true then .closing
                    else .closed)
                ∧ (st.event = true ∨ st.isSend = true ∧ st'.state = .closed → st'.event = true)
                ∧ RingClosed st st' ∧ c.stream.toFin ∉ t.openQueue)
              ∧ (c.code = .openStream → st'.ringIndex = st.ringIndex ∧ st'.nextSeq = 0
                ∧ st'.cueMiss = false ∧ st'.overrunSeen = false ∧ st'.writeBack = st.writeBack
                ∧ st'.writeQueue = st.writeQueue ∧ st'.staging = [] ∧ st'.current = none
                ∧ (st'.isOpen = false → st'.closeReason = .labelClash ∧ st'.event = true)
                ∧ (st'.isOpen = true → st'.closeReason = .none ∧ st'.awaiting = st.defn.cue.isSome
                  ∧ st'.fetchPos = st.ringIndex
                  ∧ (st.isSend = true → st'.everFull = false → c.stream.toFin ∈ t.openQueue)
                  ∧ (let l := st.defn.label
                    (st.isSend = false → st'.state = if st'.awaiting then .armed
                      else if carriers t.slots l = [] then .seeking else .tuned)
                    ∧ (st.isSend = true → (ownHoldings t.slots s.number l).length ≤ st.defn.width →
                      st'.state = (if candidacyUnder t.slots s.number l ≠ [] then .suspended
                        else if (ownHoldings t.slots s.number l).length = st.defn.width then
                          (if st'.awaiting then .armed else .running)
                        else .claiming))))))))
  ∧ ∀ (i : Instr) (s t : State) (c : Command),
    (i = .profileFault ∨ (∃ words, i = .profileReadDone words) ∨ ∃ bits, i = .censusCellArrival bits) →
    exec i s = .next t → s.membership ≠ .refused → t.membership = .refused → s.command = some c →
    t.command = none ∧ t.events.getLsbD 8 = true
    ∧ t.lastResult = (if c.code = .setStanding then .done else .notMember)
    ∧ t.standing = (if c.code = .setStanding then some s.commandArgument else s.standing)

/-- At a header arrival, intact or damaged, every win record ages by one, the record whose age would
reach 31 is removed, and a win of this header is recorded at age 0 (R108); the station has driven its bid
up to the first bit it read back otherwise, its content part only if it won (R12, R13). A station that
the header takes to OFFLINE keeps no record. The row WIN_RECORD_EXPIRY is that header arrival when a
record expires at it, and changes nothing otherwise, which is the model's reading of the table
(log 2). -/
def Obligations.HeaderAgesTheWins : Prop :=
  ∀ (header : HeaderRx) (s : State) (f : Frame),
    s.membership.judges = true → (s.membership.drives = true → s.damageCount < 4) →
    s.frame = some f → f.header = .due →
    let read := if f.unexpected then (match header with
        | .intact _ => []
        | .damaged arb => arb.map bitOfHalves) else header.read
    ∃ t, exec header.command s = .next t
      ∧ (t.membership = s.membership →
          t.wins = (s.wins.map (· + 1)).filter (· < 31)
            ++ (if s.wonHeader read then [0] else [])
          ∧ t.drive.bidBits = s.bidDriven.elim [] fun b => bidBitsDriven read b.bid)
      ∧ (t.membership ≠ s.membership → t.wins = [])
      ∧ ((∃ a ∈ s.wins, 30 ≤ a) →
          t.wins.length ≤ s.wins.length ∧ exec (.winRecordExpiry header) s = .next t)
      ∧ ((∀ a ∈ s.wins, a < 30) → exec (.winRecordExpiry header) s = .next s)

/-- The choice of words at a header arrival, for every send stream that is open when it has been handled.
After an intact header a PACED stream that sends, with STALL set for a slot it held before or holds now,
is STALLED and chooses nothing; STALLED is clear otherwise, and the stall-run attribute with it. Every
other stream that sends chooses one ready word for each usable slot, lowest first, and a LOSSY stream
short of slots plans to discard the rest of its width. After a damaged header only LOSSY streams choose.
Nothing is chosen for a census frame (R65, R124, R126, R128, R129). -/
def Obligations.HeaderChoosesTheWords : Prop :=
  ∀ (header : HeaderRx) (s : State) (f : Frame),
    s.membership.judges = true → (s.membership.drives = true → s.damageCount < 4) →
    s.frame = some f → f.header = .due →
    (∀ bits, header = .intact bits → f.unexpected = false) →
    ∃ t, exec header.command s = .next t
      ∧ ∀ (n : Fin 16) (st : Machine.Stream), t.streams[n] = some st → st.isSend = true →
        st.state.openSend = true →
        let sends := (st.state = .running ∨ st.state = .repairing) ∧ st.awaiting = false
        let stall := match header with
          | .intact bits => st.defn.cls = .paced ∧ sends ∧ ∃ i : Fin 24,
              (headerFields f bits).stall.getLsbD i.val = true
              ∧ (HeldAs s.slots s.number st.defn.label i ∨ HeldAs t.slots s.number st.defn.label i)
          | .damaged _ => st.defn.cls = .paced
        (∀ bits, header = .intact bits → f.census = false →
            (st.stalled = true ↔ stall) ∧ (st.stalled = false → st.stallRun = false))
        ∧ (f.census = false → s.index = 255 → st.chosen = [] ∧ st.discards = 0)
        ∧ (f.census = true ∨ s.index ≠ 255 →
          (sends → ¬ stall → ∃ us, UsableSlots t.slots s.number st.defn.label us
            ∧ st.chosen = us.take st.ready.length)
          ∧ (¬ sends ∨ stall → st.chosen = [])
          ∧ ((st.defn.cls = .lossy ∧ (st.state = .repairing ∨ st.state = .suspended)
              ∧ st.awaiting = false) →
            st.discards = min (st.defn.width - st.chosen.length)
              (st.ready.length - st.chosen.length))
          ∧ (st.defn.cls = .paced ∨ st.state = .running → st.discards = 0))

/-- An arrival that changes what a stream reads of the map places it: a header, intact or damaged, a
cell, and a census completion. A stream that is open then stands where the standing rule or the listen
state rule puts it, and where its view has not changed it stands as it stood (R34, R122, R134). A stream
that was open is closed by no such arrival but by the label check of the arbiter, with its event (R111,
R133), and by its own CLOSE. A stream whose OPEN or CLOSE a header takes, and one that a cue of the
header is for, are the subject of other statements. The standing rule places an open send stream that
holds at most its width (R122), and the listen state rule an open listen stream (R134); neither touches
another stream. -/
def Obligations.StreamsFollowTheMap : Prop :=
  (∀ (header : HeaderRx) (s : State) (f : Frame),
    s.membership.judges = true → (s.membership.drives = true → s.damageCount < 4) →
    s.frame = some f → f.header = .due →
    (∀ bits, header = .intact bits → f.unexpected = false) →
    ∃ t, exec header.command s = .next t
      ∧ (t.membership = s.membership → ∀ (n : Fin 16) (st : Machine.Stream),
        s.streams[n] = some st → st.isOpen = true → ¬ Commanded s t n →
        (∀ bits b, header = .intact bits → s.membership.drives = true → st.defn.cue = some b →
          (headerFields f bits).cue.getLsbD b.line.toNat = false) →
        ∃ st', t.streams[n] = some st'
          ∧ (st'.isOpen = true → FollowsMap s.number s.slots t.slots st st')
          ∧ (st'.isOpen = false → st'.closeReason = .labelClash ∧ st'.event = true)))
  ∧ (∀ (bits : CellBits) (s : State) (f : Frame), s.membership.maps = true →
    s.frame = some f → f.census = false → f.header ≠ .due → f.arrived < 24 →
    ∃ t, exec (.cellArrival bits) s = .next t
      ∧ (t.membership = s.membership → ∀ (n : Fin 16) (st : Machine.Stream),
        s.streams[n] = some st → st.isOpen = true →
        ∃ st', t.streams[n] = some st' ∧ st'.isOpen = true
          ∧ FollowsMap s.number s.slots t.slots st st'))
  ∧ (∀ (bits : CensusBits) (s : State) (f : Frame), s.membership.maps = true →
    s.frame = some f → f.census = true → f.header ≠ .due → f.arrived = 31 →
    ∃ t, exec (.censusCellArrival bits) s = .next t
      ∧ (t.membership.maps = true → ∀ (n : Fin 16) (st : Machine.Stream),
        s.streams[n] = some st → st.isOpen = true →
        ∃ st', t.streams[n] = some st'
          ∧ (st'.isOpen = true → FollowsMap s.number s.slots t.slots st st')
          ∧ (st'.isOpen = false → st'.closeReason = .labelClash ∧ st'.event = true)))
  ∧ ∀ (k : Station) (slots : Vector Slot 24) (st : Machine.Stream),
    (st.isSend = true → st.state.openSend = true →
      (ownHoldings slots k st.defn.label).length ≤ st.defn.width →
      (st.standing k slots).state =
        (if candidacyUnder slots k st.defn.label ≠ [] then .suspended
         else if (ownHoldings slots k st.defn.label).length = st.defn.width then
           (if st.awaiting then .armed else .running)
         else if st.everFull then .repairing else .claiming)
      ∧ ((st.standing k slots).state = .armed ∨ (st.standing k slots).state = .running →
          (st.standing k slots).everFull = true))
    ∧ (st.isSend = false → st.state.openListen = true →
      (st.listenRule slots).state =
        (if st.awaiting then .armed
         else if carriers slots st.defn.label = [] then .seeking else .tuned))
    ∧ (st.isSend = false ∨ st.state.openSend = false → st.standing k slots = st)
    ∧ (st.isSend = true ∨ st.state.openListen = false → st.listenRule slots = st)

/-! ### Cells -/

/-- A CLOSING send stream passes to CLOSED, with its event, at the end of the first arrival after which it
has no part in the map, and stays CLOSING until then: a header, intact or damaged, a cell, a census completion,
and a frame start, at which a dropped bid ends its part (R115, R132). A stream has a part through an entry
HELD, pending or UNSURE with this station under its label, or through a bid chosen for it or driven (R130). -/
def Obligations.ClosingStreamsPassToClosed : Prop :=
  (∀ (s : State) (n : Fin 16) (st : Machine.Stream), s.streamHasPart n st = true ↔
    (∃ i : Fin 24, match s.slots[i].entry with
      | .held h _ => h.station = s.number ∧ h.label = st.defn.label
      | .releasePending h => h.station = s.number ∧ h.label = st.defn.label
      | .claimPending c prior =>
        ∃ h ∈ c.bidder :: prior.toList, h.station = s.number ∧ h.label = st.defn.label
      | .unsure cs => ∃ h ∈ cs, h.station = s.number ∧ h.label = st.defn.label
      | _ => False)
    ∨ (∃ b, s.chosenBid = some b ∧ b.stream = n) ∨ ∃ b, s.bidDriven = some b ∧ b.stream = n)
  ∧ (∀ (header : HeaderRx) (s : State) (f : Frame), s.membership.judges = true →
    s.frame = some f → f.header = .due →
    ∃ t, exec header.command s = .next t ∧ (t.membership = s.membership → ClosingFollows s t))
  ∧ (∀ (bits : CellBits) (s : State) (f : Frame), s.membership.maps = true →
    s.frame = some f → f.census = false → f.header ≠ .due → f.arrived < 24 →
    ∃ t, exec (.cellArrival bits) s = .next t ∧ (t.membership = s.membership → ClosingFollows s t))
  ∧ (∀ (bits : CensusBits) (s : State) (f : Frame), s.membership.maps = true →
    s.frame = some f → f.census = true → f.header ≠ .due → f.arrived = 31 →
    ∃ t, exec (.censusCellArrival bits) s = .next t ∧ (t.membership.maps = true → ClosingFollows s t))
  ∧ ∀ (mark : Bool) (arb : List Halves) (s u : State), s.membership.receives = true →
    u = s.cutShort arb → u.membership.drives = true →
    ∃ t, exec (.frameStart mark arb) s = .next t ∧ (t.membership = u.membership → ClosingFollows u t)

/-- How the arrivals are read and classed (R15, R17, R18, R195). The fields of a header, a cell and a census
cell stand at these bits, the first bit sent the highest; a check passes when the last bits sent are the check
of those before them. A cell is classed by the VALID bit of its slot in an intact header, and by its contents
alone after a damaged one. A census cell of station k is silent when it is all zeros, and intact exactly when its
check passes, it echoes k, and it declares at most eight slots, none above 23 and none under label 0. -/
def Obligations.ArrivalsAreClassedByTheirBits : Prop :=
  (∀ w : HeaderBits,
    (parseHeader w).veto = w.getLsbD 102
    ∧ (∀ i : Nat, i < 4 → (parseHeader w).cue.getLsbD i = w.getLsbD (101 - i))
    ∧ (∀ i : Nat, i < 24 → (parseHeader w).valid.getLsbD i = w.getLsbD (97 - i)
        ∧ (parseHeader w).stall.getLsbD i = w.getLsbD (73 - i)
        ∧ (parseHeader w).release.getLsbD i = w.getLsbD (49 - i))
    ∧ (parseHeader w).bid = (if w.getLsbD 25 then some
        { priority := w.extractLsb' 23 2, station := ~~~ w.extractLsb' 18 5, preempt := w.getLsbD 17,
          slot := w.extractLsb' 12 5, label := w.extractLsb' 0 12 } else none)
    ∧ parseCensusHeader w
      = { Header.blank with veto := (parseHeader w).veto, cue := (parseHeader w).cue })
  ∧ (∀ w : CellBits,
    parseCell w =
      { owner := w.extractLsb' 59 5, priority := w.extractLsb' 57 2, label := w.extractLsb' 45 12,
        sequence := w.extractLsb' 41 4, mark := w.getLsbD 40, word := w.extractLsb' 8 32 }
    ∧ (cellPasses w = true ↔ w.extractLsb' 0 8 = cellCheck (w.extractLsb' 8 56))
    ∧ classifyCell (some true) w = (if cellPasses w then .intact (parseCell w) else .damaged)
    ∧ classifyCell (some false) w = (if w = 0 then .silent else .damaged)
    ∧ classifyCell none w = (if w = 0 then .silent
        else if cellPasses w then .intact (parseCell w) else .damaged))
  ∧ (∀ (f : Frame) (i : Nat), (∀ v, f.header = .intact v → f.validAt i = some (v.getLsbD i))
    ∧ (f.header = .damaged → f.validAt i = none))
  ∧ (∀ w : CensusBits,
    (parseCensusCell w).echo = w.extractLsb' 221 5 ∧ (parseCensusCell w).cycle = w.extractLsb' 205 16
    ∧ (parseCensusCell w).present = w.getLsbD 204 ∧ (parseCensusCell w).word = w.extractLsb' 172 32
    ∧ (parseCensusCell w).heldCount = w.extractLsb' 168 4
    ∧ (∀ i : Fin 8, (parseCensusCell w).declarations[i] =
        { slot := w.extractLsb' (163 - 19 * i.val) 5, label := w.extractLsb' (151 - 19 * i.val) 12,
          priority := w.extractLsb' (149 - 19 * i.val) 2 })
    ∧ (censusPasses w = true ↔ w.extractLsb' 0 16 = censusCheck (w.extractLsb' 16 210))
    ∧ ∀ k : Nat, (classifyCensus k w = .silent ↔ w = 0)
      ∧ ∀ c, classifyCensus k w = .intact c ↔ w ≠ 0 ∧ c = parseCensusCell w ∧ censusPasses w = true
        ∧ c.echo.toNat = k ∧ c.heldCount.toNat ≤ 8
        ∧ ∀ i : Fin 8, i.val < c.heldCount.toNat →
            (c.declarations[i]).slot.toNat < 24 ∧ (c.declarations[i]).label ≠ 0)
  ∧ (∀ x : BitVec 56, cellCheck x = ((List.range 56).map fun i => x.getLsbD (55 - i)).foldl
      (fun (r : BitVec 8) b => if r.msb != b then (r <<< 1) ^^^ 0x07#8 else r <<< 1) (BitVec.allOnes 8))
  ∧ ∀ x : BitVec 210, censusCheck x = ((List.range 210).map fun i => x.getLsbD (209 - i)).foldl
      (fun (r : BitVec 16) b => if r.msb != b then (r <<< 1) ^^^ 0x1021#16 else r <<< 1) (BitVec.allOnes 16)

/-- A cell arrival acts on the entry of its slot alone: an UNKNOWN entry, and an UNSURE one with the
owner among its candidates, become HELD by an intact cell that R30 does not withhold; a readback counts
at an entry HELD by this station, and the second damaged one in a row makes it UNSURE with this station
alone (R27 to R32). A slot is then in the release intent exactly when its entry allows it and it was in
the intent or is asked for (R46, R49). A LEAVING station that then has no part in the map is OFFLINE
(R101), and in LOST a cell changes no entry (R21). A peer's entry stores 0 as its readback damage count,
and a cell of label 0 resolves as any other, which are the model's choices (logs 27, 35).
READBACK_COLLISION is the second damaged readback in a row in a slot HELD by this MEMBER or LEAVING
station: the entry becomes UNSURE with this station alone, and the open send stream of its label
SUSPENDED (R32, R122). -/
def Obligations.CellActsOnItsSlot : Prop :=
  (∀ (bits : CellBits) (s : State) (f : Frame),
    s.frame = some f → f.census = false → f.header ≠ .due → f.arrived < 24 →
    (s.membership.maps = true →
      ∃ (m : Vector Slot 24) (t : State), exec (.cellArrival bits) s = .next t
        ∧ (∀ i : Fin 24, i.val ≠ f.arrived → m[i].entry = s.slots[i].entry)
        ∧ (∀ i : Fin 24, i.val = f.arrived → m[i].entry =
            match s.slots[i].entry, classifyCell (f.validAt f.arrived) bits with
            | .unknown, .intact c =>
              if s.withholds c then .unknown else .held ⟨c.owner, c.label, c.priority⟩ 0
            | .unsure cs, .intact c =>
              if (∃ x ∈ cs, x.station = c.owner) ∧ s.withholds c = false then
                .held ⟨c.owner, c.label, c.priority⟩ 0
              else .unsure cs
            | .held h d, rx =>
              match (if s.membership.drives = true ∧ h.station = s.number then s.drive.cells[i]
                     else none) with
              | none => .held h d
              | some c =>
                if rx = .intact c then .held h 0 else if d = 0 then .held h 1 else .unsure [h]
            | e, _ => e)
        ∧ if s.membership = .leaving ∧ ∀ i : Fin 24, m[i].entry.hasPart s.number = false then
            t.membership = .offline ∧ t.events.getLsbD 3 = true
          else
            (∀ i : Fin 24, t.slots[i].entry = m[i].entry
              ∧ (t.slots[i].intent = true ↔ Entry.StaysIntended s.number m[i].entry
                ∧ (s.slots[i].intent = true ∨ Entry.AskedFor s.number s.streams m[i].entry)))
            ∧ t.frame = some { f with arrived := f.arrived + 1 }
            ∧ t.membership = s.membership ∧ t.events = s.events ∧ t.peers = s.peers)
    ∧ (s.membership = .lost →
      ∃ t, exec (.cellArrival bits) s = .next t ∧ t.slots = s.slots
        ∧ t.frame = some { f with arrived := f.arrived + 1 } ∧ t.membership = .lost))
  ∧ ∀ (bits : CellBits) (s : State) (f : Frame) (i : Fin 24) (c : Cell) (h : Claimant) (d : Nat),
    s.membership.drives = true → s.frame = some f → f.census = false → f.header ≠ .due →
    f.arrived = i.val → s.drive.cells[i] = some c → s.slots[i].entry = .held h d →
    h.station = s.number → 1 ≤ d → classifyCell (f.validAt i.val) bits ≠ .intact c →
    ∃ t, exec (.readbackCollision bits) s = .next t ∧ t.slots[i].entry = .unsure [h]
      ∧ t.frame = some { f with arrived := i.val + 1 }
      ∧ (∀ (n : Fin 16) (st : Machine.Stream), t.streams[n] = some st → st.isSend = true →
          st.defn.label = h.label → st.state.openSend = true → st.state = .suspended)
      ∧ (∀ j : Fin 24, j ≠ i → t.slots[j].entry = s.slots[j].entry)

/-- An intact cell does not resolve its entry in exactly three cases: its owner is this station, its
label is carried under another holder by an entry that is not UNSURE, or its owner is at the holding
limit. The entry then stays as it was (R30). -/
def Obligations.CellIsWithheldInThreeCases : Prop :=
  ∀ (s : State) (c : Cell),
    (s.withholds c = true ↔
      c.owner = s.number
      ∨ (∃ i : Fin 24, (∀ cs, s.slots[i].entry ≠ .unsure cs)
          ∧ ∃ k ∈ s.slots[i].entry.users c.label, k ≠ c.owner)
      ∨ 8 ≤ holdingCount s.slots c.owner)
    ∧ (s.withholds c = true → ∀ e : Entry, s.resolve c e = e)

/-- A cell arrival at a listen stream: a TUNED or SEEKING one accepts every intact cell of its label,
from any slot and any owner; a TUNED one under no WAIT hold marks DAMAGE on its current descriptor for a
damaged cell in a slot that carries its label; and no other cell leaves a trace in its record but for the
state that the listen state rule gives it (R159, R163). That the cell meets the map as it was before the
arrival is the model's reading (log 19). -/
def Obligations.CellReachesTheListeners : Prop :=
  ∀ (bits : CellBits) (s : State) (f : Frame), s.membership.maps = true →
    s.frame = some f → f.census = false → f.header ≠ .due → (h : f.arrived < 24) →
    ∃ t, exec (.cellArrival bits) s = .next t
      ∧ (t.membership = s.membership → ∀ (n : Fin 16) (st : Machine.Stream),
          s.streams[n] = some st → st.isSend = false →
          ∃ st', t.streams[n] = some st'
            ∧ Sys2Proof.Stream.still { st' with state := st.state } = Sys2Proof.Stream.still
              (match classifyCell (f.validAt f.arrived) bits with
              | .intact c =>
                if (st.state = .tuned ∨ st.state = .seeking) ∧ c.label = st.defn.label then
                  { st.acceptWord c s.stamp with state := st.state }
                else st
              | .damaged =>
                if st.state = .tuned ∧ st.listenHold = false
                  ∧ ((s.slots[f.arrived]'h).entry.holder.map (·.label)) = some st.defn.label then
                  { st with current := st.current.map fun d => { d with damage := true } }
                else st
              | .silent => st))

/-! ### The census -/

/-- At a census header, intact or damaged, a station that judges headers composes and drives its census
cell from the map as the header left it: its number, its cycle number, the standing word or else the join
word, and in MEMBER and LEAVING the declarations of its HELD slots and of the slots in which it is a
candidate, in slot order and at most eight; in ANNOUNCING none. With a STANDING command pending, which of
the two comes first is free (R7, R79, R80, R93, R98; log 7). -/
def Obligations.CensusHeaderComposesTheCell : Prop :=
  ∀ (header : HeaderRx) (s : State) (f : Frame),
    s.membership.judges = true → (s.membership.drives = true → s.damageCount < 4) →
    s.frame = some f → f.header = .due → f.census = true →
    ∃ t, exec header.command s = .next t
      ∧ (t.membership = s.membership → ∃ cell, t.drive.census = some cell
        ∧ cell.echo = s.number ∧ cell.cycle = s.cycle
        ∧ (cell.present, cell.word)
            ∈ [(s.standing.isSome, s.standing.getD s.joinWord),
               (t.standing.isSome, t.standing.getD s.joinWord)]
        ∧ ((∀ c, s.command = some c → c.code ≠ .setStanding) →
            cell.present = s.standing.isSome ∧ cell.word = s.standing.getD s.joinWord)
        ∧ (s.membership = .announcing → cell.heldCount = 0#4)
        ∧ (∀ j : Fin 8, cell.heldCount.toNat ≤ j.val → cell.declarations[j] = ⟨0, 0, 0⟩)
        ∧ (s.membership.drives = true → ∃ all : List Declaration,
            cell.meaningful = all.take 8 ∧ cell.heldCount.toNat = min 8 all.length
            ∧ (all.map (·.slot.toNat)).Pairwise (· < ·)
            ∧ ∀ d : Declaration, d ∈ all ↔ ∃ i : Fin 24, d.slot.toNat = i.val
                ∧ ((∃ h damage, t.slots[i].entry = .held h damage ∧ h.station = s.number
                      ∧ d.label = h.label ∧ d.priority = h.priority)
                  ∨ ∃ (cs : List Claimant) (c : Claimant), t.slots[i].entry = .unsure cs
                      ∧ cs.find? (fun x => x.station == s.number) = some c
                      ∧ d.label = c.label ∧ d.priority = c.priority)))

/-- A LISTENING station leaves LISTENING at its first census completion: to REFUSED(DUPLICATE) when the
census cell of its own number arrived intact, and to ANNOUNCING otherwise (R97). An ANNOUNCING station
whose own readback is intact becomes MEMBER at a census completion at which no census cell arrived
damaged: no entry is UNKNOWN any more, JOINED is raised, and the counts are 0 (R89, R98, R99). At every
completion in ANNOUNCING an intact readback makes a MEMBER unless reconciliation leaves an entry UNKNOWN,
and leaves the join attempts; a damaged one below the third raises them by one and the station stays; and
with no cell of its own driven nothing changes (R81, R98). -/
def Obligations.CensusEndsListeningAndAnnouncing : Prop :=
  (∀ (bits : CensusBits) (s : State) (f : Frame), s.membership = .listening →
    s.frame = some f → f.census = true → f.header ≠ .due → f.arrived = 31 →
    ∃ t, exec (.censusCellArrival bits) s = .next t
      ∧ (match (f.heard ++ [classifyCensus 31 bits]).getD s.number.toNat .silent with
          | .intact _ => t.membership = .refused ∧ t.refusalReason = .duplicate
              ∧ t.events.getLsbD 1 = true ∧ t.slots = Vector.replicate 24 Slot.reset
              ∧ t.timer = .stopped
          | _ => t.membership = .announcing ∧ t.number = s.number))
  ∧ (∀ (bits : CensusBits) (s : State) (f : Frame), s.membership = .announcing →
    s.frame = some f → f.census = true → f.header ≠ .due → f.arrived = 31 →
    (∀ rx ∈ f.heard ++ [classifyCensus 31 bits], rx ≠ .damaged) →
    (s.censusReadback 31 (classifyCensus 31 bits)).or f.ownReadback = some true →
    ∃ t, exec (.censusCellArrival bits) s = .next t ∧ t.membership = .member
      ∧ t.events.getLsbD 0 = true ∧ t.damageCount = 0 ∧ t.censusRun = 0
      ∧ t.joinAttempts = s.joinAttempts
      ∧ ∀ i : Fin 24, t.slots[i].entry ≠ .unknown)
  ∧ ∀ (bits : CensusBits) (s : State) (f : Frame) (c : Census), s.membership = .announcing →
    s.frame = some f → f.census = true → f.header ≠ .due → f.arrived = 31 →
    c.rx = f.heard ++ [classifyCensus 31 bits] →
    c.own = (s.censusReadback 31 (classifyCensus 31 bits)).or f.ownReadback →
    ∃ t, exec (.censusCellArrival bits) s = .next t
      ∧ (c.own = some true →
        (t.membership = .announcing ↔
          ∃ i : Fin 24, (s.reconcileWith c).slot i s.slots[i].entry = .unknown)
        ∧ (t.membership ≠ .announcing → t.membership = .member)
        ∧ t.joinAttempts = s.joinAttempts)
      ∧ (c.own = some false → s.joinAttempts < 2 →
        t.membership = .announcing ∧ t.joinAttempts = s.joinAttempts + 1)
      ∧ (c.own = none → t.membership = .announcing ∧ t.joinAttempts = s.joinAttempts)

/-- Census cells 0 to 30 are recorded as they arrive, with the readback of this station's own, and act
on nothing else until census completion (R18, R81, R82). The arrival of census cell 31 reconciles the
peer table, the map and the cycle number, at a station that stays LISTENING, ANNOUNCING, MEMBER or
LEAVING or passes between them. The cycle number becomes that of the lowest-numbered heard station, and
this station's own where that station is this one or none is heard; PEER_CHANGE, CENSUS_REPAIR and
CYCLE_ADJUST are raised by their causes (R82, R91, R92). The damage count is 0 (R70), and the stall-run
attribute of an open PACED send stream raises its event if it was set, and is set (R129). A slot is then
in the release intent exactly when its entry allows it and it was in the intent or is asked for, by the
streams as they were or as the completion leaves them (R46, R49, R90). That an UNSURE entry that only
loses candidates raises no CENSUS_REPAIR is the model's choice (log 44). -/
def Obligations.CensusCompletionReconciles : Prop :=
  (∀ (bits : CensusBits) (s : State) (f : Frame), s.membership.receives = true →
    s.frame = some f → f.census = true → f.header ≠ .due → f.arrived < 31 →
    ∃ t, exec (.censusCellArrival bits) s = .next t
      ∧ t.frame = some
          { f with arrived := f.arrived + 1
                   heard := f.heard ++ [classifyCensus f.arrived bits]
                   ownReadback :=
                    (s.censusReadback f.arrived (classifyCensus f.arrived bits)).or f.ownReadback }
      ∧ t.slots = s.slots ∧ t.peers = s.peers ∧ t.membership = s.membership
      ∧ t.events = s.events ∧ t.cycle = s.cycle ∧ t.drive = s.drive)
  ∧ ∀ (bits : CensusBits) (s : State) (f : Frame) (c : Census), s.membership.maps = true →
    s.frame = some f → f.census = true → f.header ≠ .due → f.arrived = 31 →
    c.rx = f.heard ++ [classifyCensus 31 bits] →
    c.own = (s.censusReadback 31 (classifyCensus 31 bits)).or f.ownReadback →
    ∃ t, exec (.censusCellArrival bits) s = .next t
      ∧ (t.membership.maps = true →
        t.peers = reconcilePeers c s.number (s.membership == Membership.listening) s.peers
        ∧ (∀ i : Fin 24, t.slots[i].entry = (s.reconcileWith c).slot i s.slots[i].entry
            ∧ (t.slots[i].intent = true ↔ Entry.StaysIntended s.number t.slots[i].entry
              ∧ (s.slots[i].intent = true
                ∨ Entry.AskedFor s.number s.streams t.slots[i].entry
                ∨ Entry.AskedFor s.number t.streams t.slots[i].entry)))
        ∧ (∀ k cell, c.heard s.number k = some cell →
            (∀ j : Station, j.toNat < k.toNat → c.heard s.number j = none) →
            t.cycle = if k = s.number then s.cycle else cell.cycle)
        ∧ ((∀ k, c.heard s.number k = none) → t.cycle = s.cycle)
        ∧ (t.events.getLsbD 5 = true ↔ s.events.getLsbD 5 = true
            ∨ ∃ k : Fin 32, t.peers[k].state ≠ s.peers[k].state)
        ∧ (t.events.getLsbD 4 = true ↔ s.events.getLsbD 4 = true
            ∨ s.membership.drives = true
              ∧ ∃ i : Fin 24, t.slots[i].entry.face ≠ s.slots[i].entry.face)
        ∧ (t.events.getLsbD 6 = true ↔ s.events.getLsbD 6 = true
            ∨ s.membership ≠ .listening ∧ t.cycle ≠ s.cycle)
        ∧ t.damageCount = 0 ∧ t.index = s.index
        ∧ ∀ (n : Fin 16) (st : Machine.Stream), s.streams[n] = some st →
            ∃ st', t.streams[n] = some st'
              ∧ (st.isSend = true ∧ st.state.openSend = true ∧ st.defn.cls = .paced →
                  st'.stallRun = true ∧ (st.stallRun = true → st'.event = true))
              ∧ (st.isSend = false ∨ st.state.openSend = false ∨ st.defn.cls = .lossy →
                  st'.stallRun = st.stallRun))

/-- A station is heard when its census cell arrived intact and, if it is this station, its own readback
was not damaged (R82). The peer step: a heard station is PRESENT with what its cell carried (R83); one
that is not heard changes by its state, keeping its last heard cycle and standing word (R84). The label
step and the slot step of reconciliation. Of the declarations of the heard stations those of each
label's best declarer remain (R85). A slot that a remaining declaration names is HELD by its best
declarer, and keeps its readback damage count only if that station held it before (R86). Of the others a
HELD one is FREE when its holder was heard or has departed, or its label remains with another station
(R87); an UNSURE one loses the candidates that departed or whose label remains with another station, and
is FREE when every candidate left was heard (R88); an UNKNOWN one is FREE outside LISTENING when no
census cell arrived damaged (R89); and the rest stay. Departed is read before or after the peer step,
the model's reading (log 12); this station's damaged readback counts as a damaged cell, the model's
reading (log 11). Where one cell declares a slot twice the higher priority stands, the model's reading
(log 33), and a peer's entry carries 0 as its readback damage count, the model's choice (log 27). -/
def Obligations.ReconciliationFollowsTheHeardSet : Prop :=
  (∀ (c : Census) (self k : Station) (cell : CensusCell),
    c.heard self k = some cell ↔
      c.rx[k.toNat]? = some (.intact cell) ∧ (k = self → c.own ≠ some false))
  ∧ (∀ (c : Census) (self : Station) (listening : Bool) (ps : Vector Peer 32) (k : Fin 32),
    let p := ps[k]
    (∀ cell, c.heard self (BitVec.ofNat 5 k.val) = some cell →
      (reconcilePeers c self listening ps)[k]
        = ⟨.present, 0, some cell.cycle, if cell.present then some cell.word else none⟩)
    ∧ (c.heard self (BitVec.ofNat 5 k.val) = none →
      (reconcilePeers c self listening ps)[k] =
        match p.state, listening with
        | .present, _ => ⟨.missing, 1, p.lastHeard, p.standing⟩
        | .missing, _ => ⟨.absent, 2, p.lastHeard, p.standing⟩
        | .unheard, true => ⟨.unheard, 1, p.lastHeard, p.standing⟩
        | .unheard, false => ⟨.absent, 2, p.lastHeard, p.standing⟩
        | .absent, _ => ⟨.absent, 2, p.lastHeard, p.standing⟩)
    ∧ (c.rx.getD k.val .silent = .damaged ∨ c.rx.getD k.val .silent = .silent →
      c.heard self (BitVec.ofNat 5 k.val) = none))
  ∧ ∀ (s : State) (c : Census),
    let r := s.reconcileWith c
    let ds := c.declared s.number
    let heard (k : Station) := ∃ cell, c.heard s.number k = some cell
    let gone (k : Station) := (s.peer k).state = .absent
      ∨ ((reconcilePeers c s.number (s.membership == .listening) s.peers)[k.toNat]'k.isLt).state
          = .absent
    let elsewhere (l : Label) (k : Station) := ∃ d ∈ r.left, d.decl.label = l ∧ d.station ≠ k
    (∀ d : Declared, d ∈ ds ↔ ∃ cell, c.heard s.number d.station = some cell
      ∧ d.decl ∈ cell.meaningful)
    ∧ (∀ d : Declared, d ∈ r.left ↔ d ∈ ds ∧ ∃ b ∈ ds, b.station = d.station
        ∧ b.decl.label = d.decl.label
        ∧ ∀ x ∈ ds, x.decl.label = d.decl.label → x.decl.priority.toNat < b.decl.priority.toNat
            ∨ x.decl.priority = b.decl.priority ∧ b.station.toNat ≤ x.station.toNat)
    ∧ ∀ (i : Fin 24) (e : Entry),
      (∀ d ∈ r.left, d.decl.slot.toNat = i.val →
        (∀ x ∈ r.left, x.decl.slot.toNat = i.val → x = d
          ∨ x.decl.priority.toNat < d.decl.priority.toNat
          ∨ x.decl.priority = d.decl.priority ∧ d.station.toNat < x.station.toNat) →
        r.slot i e = .held ⟨d.station, d.decl.label, d.decl.priority⟩
          (match e with
            | .held h damage => if h.station = d.station then damage else 0
            | _ => 0))
      ∧ ((∀ d ∈ r.left, d.decl.slot.toNat ≠ i.val) →
        match e with
        | .held h _ =>
          (heard h.station ∨ gone h.station ∨ elsewhere h.label h.station → r.slot i e = .free)
          ∧ (¬ heard h.station → ¬ gone h.station → ¬ elsewhere h.label h.station →
              r.slot i e = e)
        | .unsure cs => ∃ cs', cs'.Sublist cs
          ∧ (∀ x, x ∈ cs' ↔ x ∈ cs ∧ ¬ gone x.station ∧ ¬ elsewhere x.label x.station)
          ∧ ((∀ x ∈ cs', heard x.station) → r.slot i e = .free)
          ∧ ((∃ x ∈ cs', ¬ heard x.station) → r.slot i e = .unsure cs')
        | .unknown =>
          (s.membership = .listening ∨ .damaged ∈ c.rx ∨ c.own = some false →
            r.slot i e = .unknown)
          ∧ (s.membership ≠ .listening → .damaged ∉ c.rx → c.own ≠ some false →
            r.slot i e = .free)
        | _ => r.slot i e = e)

/-- The third damaged own readback in ANNOUNCING refuses the station as a duplicate (R98), and the
second in a row in MEMBER or LEAVING ends membership, in LOST or OFFLINE, with LOST raised
(R72, R76). Below that, a completion in MEMBER or LEAVING sets the readback run to 0 by an intact readback,
to 1 by a damaged one, and leaves it where the station drove no cell; a MEMBER stays MEMBER, and a LEAVING
station is LEAVING or, with no part in the map left, OFFLINE (R81, R101). -/
def Obligations.OwnReadbackLimits : Prop :=
  (∀ (bits : CensusBits) (s : State), s.ownDamagedAt bits = true →
    (s.membership = .announcing → s.joinAttempts = 2 →
      ∃ t, exec (.joinAttemptsLimit bits) s = .next t ∧ t.membership = .refused
        ∧ t.refusalReason = .duplicate ∧ t.joinAttempts = 3 ∧ t.events.getLsbD 1 = true
        ∧ t.slots = Vector.replicate 24 Slot.reset ∧ t.timer = .stopped
        ∧ t.streams = Vector.replicate 16 none ∧ t.drive = Drive.nothing)
    ∧ (s.membership.drives = true → s.censusRun = 1 →
      ∃ t, exec (.censusReadbackLimit bits) s = .next t
        ∧ t.membership = (if s.membership = .member then .lost else .offline)
        ∧ t.events.getLsbD 2 = true ∧ t.censusRun = 0
        ∧ t.slots = Vector.replicate 24 Slot.reset ∧ t.peers = Vector.replicate 32 Peer.never
        ∧ t.drive = Drive.nothing))
  ∧ ∀ (bits : CensusBits) (s : State) (f : Frame) (own : Option Bool),
    s.membership.drives = true → s.frame = some f → f.census = true → f.header ≠ .due →
    f.arrived = 31 → own = (s.censusReadback 31 (classifyCensus 31 bits)).or f.ownReadback →
    (own = some false → s.censusRun = 0) →
    ∃ t, exec (.censusCellArrival bits) s = .next t
      ∧ (s.membership = .member → t.membership = .member)
      ∧ (s.membership = .leaving → t.membership = .leaving
        ∨ t.membership = .offline ∧ t.events.getLsbD 3 = true)
      ∧ (t.membership = s.membership → t.censusRun =
        match own with
        | some true => 0
        | some false => 1
        | none => s.censusRun)

/-! ### The profile -/

/-- The layouts of host memory: the descriptors' fields as they are taken and as they are handed back (R139,
R197), and the profile's header words and stream records (R198), with its length, its sum, and the checks in their
order: format and stream count on the header words, and of each stream its label, a SEND stream's width, the ring
base, and a SEND stream's label against those of lower number (R185, R186). -/
def Obligations.HostMemoryLayouts : Prop :=
  (∀ (index : BitVec 8) (w0 w1 : Word),
    TxDesc.ofWords index w0 w1 =
      { index := index, wrap := w0.getLsbD 30, blockStart := w0.getLsbD 29, wait := w0.getLsbD 28
        notify := w0.getLsbD 27, keep := w0.getLsbD 26, count := (w0.extractLsb' 0 12).toNat
        address := w1 &&& 0xFFFFFFFC#32, fetched := 0, sent := 0, gone := 0, discarded := false
        released := false, lastStamp := 0 }
    ∧ RxDesc.ofWords index w0 w1 =
      { index := index, wrap := w0.getLsbD 30, wait := w0.getLsbD 28, notify := w0.getLsbD 27
        capacity := (w0.extractLsb' 0 12).toNat, address := w1 &&& 0xFFFFFFFC#32, count := 0
        stamp := 0, source := 0, blockStart := false, gap := false, damage := false
        released := false }
    ∧ nextIndex index (w0.getLsbD 30)
      = (if w0.getLsbD 30 = true ∨ index = 255 then 0 else index + 1))
  ∧ (∀ (st : Machine.Stream) (index : BitVec 8),
    st.descriptor index = st.defn.ringBase + 16 * index.setWidth 32)
  ∧ (∀ (r : TxDone) (miss : Bool),
    r.firstWord = (0#1 ++ BitVec.ofBool r.desc.wrap ++ BitVec.ofBool r.desc.blockStart
      ++ BitVec.ofBool r.desc.wait ++ BitVec.ofBool r.desc.notify ++ BitVec.ofBool r.desc.keep ++ 0#14
      ++ BitVec.ofNat 12 r.desc.count : BitVec (1 + 1 + 1 + 1 + 1 + 1 + 14 + 12))
    ∧ r.statusWord miss = (0#11 ++ BitVec.ofBool r.busFault ++ BitVec.ofBool r.empty
      ++ BitVec.ofBool miss ++ BitVec.ofBool r.desc.discarded ++ BitVec.ofBool r.truncated ++ 0#4
      ++ BitVec.ofNat 12 r.desc.sent : BitVec (11 + 1 + 1 + 1 + 1 + 1 + 4 + 12)))
  ∧ (∀ (r : RxDone) (overrun miss : Bool),
    r.firstWord overrun miss = (0#1 ++ BitVec.ofBool r.desc.wrap ++ 0#1 ++ BitVec.ofBool r.desc.wait
      ++ BitVec.ofBool r.desc.notify ++ 0#2 ++ BitVec.ofBool r.busFault ++ BitVec.ofBool miss
      ++ BitVec.ofBool r.cueStop ++ BitVec.ofBool r.truncated ++ BitVec.ofBool overrun
      ++ BitVec.ofBool r.desc.damage ++ BitVec.ofBool r.desc.gap ++ BitVec.ofBool r.blockEnd
      ++ BitVec.ofBool r.desc.blockStart ++ 0#4 ++ BitVec.ofNat 12 r.desc.count
      : BitVec (1 + 1 + 1 + 1 + 1 + 2 + 1 + 1 + 1 + 1 + 1 + 1 + 1 + 1 + 1 + 4 + 12)))
  ∧ ∀ ws : List Word,
    let word (i : Nat) : Word := ws.getD i 0
    profileFormat ws = ((word 0).extractLsb' 24 8).toNat
    ∧ profileStation ws = ((word 0).extractLsb' 16 8).toNat
    ∧ profileCount ws = ((word 0).extractLsb' 0 8).toNat
    ∧ profileLength ws = 3 + 4 * profileCount ws ∧ profileSum ws = ws.sum
    ∧ (∀ pin : Fin 4, parseForward (word 1) pin = if (word 1).getLsbD (4 * pin.val + 3) then
        some ((word 1).extractLsb' (4 * pin.val) 2) else none)
    ∧ headerFault ws = (if profileFormat ws ≠ 1 then .format
        else if 1 ≤ profileCount ws ∧ profileCount ws ≤ 16 then .none else .count)
    ∧ ∀ n : Nat,
      let d := profileStream ws n
      let w0 := word (2 + 4 * n)
      let w1 := word (3 + 4 * n)
      d.direction = (if w0.getLsbD 31 then .listen else .send)
      ∧ d.cls = (if w0.getLsbD 30 then .lossy else .paced)
      ∧ d.startMode = (if w0.getLsbD 29 then .preempt else .wait)
      ∧ d.priority = w0.extractLsb' 24 2 ∧ d.width = (w0.extractLsb' 16 4).toNat
      ∧ d.label = w0.extractLsb' 0 12 ∧ d.ringBase = word (4 + 4 * n)
      ∧ d.cue = (if w1.getLsbD 15 then
          some ⟨w1.extractLsb' 0 2, if w1.getLsbD 8 then .startStop else .start⟩ else none)
      ∧ (d.label = 0 → streamFault ws n = .label)
      ∧ (d.label ≠ 0 → d.direction = .send → d.width ≠ 1 → d.width ≠ 2 → d.width ≠ 4 →
          streamFault ws n = .width)
      ∧ (d.label ≠ 0 → (d.direction = .send → d.width = 1 ∨ d.width = 2 ∨ d.width = 4) →
        (d.ringBase.toNat % 16 ≠ 0 → streamFault ws n = .ringBase)
        ∧ (d.ringBase.toNat % 16 = 0 →
          let taken := d.direction = .send ∧ ∃ m < n, (profileStream ws m).direction = .send
            ∧ (profileStream ws m).label = d.label
          (taken → streamFault ws n = .sendLabel) ∧ (¬ taken → streamFault ws n = .none)))

/-- The read that completes a valid profile is the load completion: the station takes its number, its
cue forwarding and its streams, each CLOSED with ring index 0, and enters LISTENING in the quiet wait
(R80, R96, R121, R186). That a read which ends in LOADING is one of the present fetch is the model's
choice (log 45). -/
def Obligations.ValidProfileLoads : Prop :=
  ∀ (words : List Word) (s : State), s.membership = .loading → s.fetched ++ words ≠ [] →
    (s.fetched ++ words).length = profileLength (s.fetched ++ words) →
    headerFault (s.fetched ++ words) = .none → profileSum (s.fetched ++ words) = 0 →
    profileStation (s.fetched ++ words) ≤ 31 →
    (∀ n : Nat, n < profileCount (s.fetched ++ words) → streamFault (s.fetched ++ words) n = .none) →
    ∃ t, exec (.profileReadDone words) s = .next t ∧ t.membership = .listening
      ∧ t.timer = .quietWait ∧ t.joinAttempts = 0 ∧ t.bootstrap = 0 ∧ t.fetched = []
      ∧ t.number.toNat = profileStation (s.fetched ++ words)
      ∧ (∀ pin : Fin 4, t.cueForward[pin] = parseForward (profileWord (s.fetched ++ words) 1) pin)
      ∧ (∀ n : Fin 16, profileCount (s.fetched ++ words) ≤ n.val → t.streams[n] = none)
      ∧ (∀ n : Fin 16, n.val < profileCount (s.fetched ++ words) →
          ∃ st, t.streams[n] = some st ∧ st.defn = profileStream (s.fetched ++ words) n.val
            ∧ st.state = .closed ∧ st.ringIndex = 0 ∧ st.nextSeq = 0 ∧ st.awaiting = false
            ∧ st.everFull = false ∧ st.closeReason = .none ∧ st.event = false)
      ∧ t.slots = s.slots ∧ t.peers = s.peers ∧ t.events = s.events

/-- A profile that fails a check refuses the station with the first check that fails, in the order of
R186, and a bus error refuses it with reason PROFILE_FAULT; a fetch that is not complete goes on (R96,
R102, R185, R186). That a read which ends in LOADING is one of the present fetch is the model's choice
(log 45). -/
def Obligations.BadProfileRefuses : Prop :=
  ∀ (words : List Word) (s : State), s.membership = .loading → s.fetched ++ words ≠ [] →
    (∀ (f : ProfileFault) (n : Nat),
      (headerFault (s.fetched ++ words) = f ∧ f ≠ .none ∧ n = 0
        ∨ headerFault (s.fetched ++ words) = .none
          ∧ (s.fetched ++ words).length = profileLength (s.fetched ++ words)
          ∧ (profileSum (s.fetched ++ words) ≠ 0 ∧ f = .check ∧ n = 0
            ∨ profileSum (s.fetched ++ words) = 0
              ∧ (31 < profileStation (s.fetched ++ words) ∧ f = .station ∧ n = 0
                ∨ profileStation (s.fetched ++ words) ≤ 31
                  ∧ n < profileCount (s.fetched ++ words)
                  ∧ streamFault (s.fetched ++ words) n = f ∧ f ≠ .none
                  ∧ ∀ m < n, streamFault (s.fetched ++ words) m = .none))) →
      ∃ t, exec (.profileReadDone words) s = .next t ∧ t.membership = .refused
        ∧ t.refusalReason = .profile ∧ t.profileFault = f ∧ t.faultStream.toNat = n
        ∧ t.events.getLsbD 1 = true ∧ t.streams = Vector.replicate 16 none)
    ∧ (headerFault (s.fetched ++ words) = .none →
        (s.fetched ++ words).length < profileLength (s.fetched ++ words) →
        exec (.profileReadDone words) s = .next { s with fetched := s.fetched ++ words })
    ∧ ∃ t, exec .profileFault s = .next t ∧ t.membership = .refused
        ∧ t.refusalReason = .profileFault ∧ t.profileFault = s.profileFault
        ∧ t.events.getLsbD 1 = true ∧ t.command = none

/-! ### Send rings -/

/-- The end of a send descriptor's read: a first word read as HOST is a ring end, with STARVED and its
event where no word is staged; one read as PART with words to come asks for the second word; a
zero-count one at the head is finished EMPTY; the second word takes the descriptor (R143 to R145). -/
def Obligations.SendDescriptorReadActs : Prop :=
  ∀ (w : Word) (s : State) (n : Fin 16) (st : Machine.Stream) (op : BusOp), Serves s n st op →
    st.isSend = true → op.discard = false →
    (op.kind = .firstWord → ∃ t st', exec (.sendDescriptorRead w) s = .next t ∧ OnlyStream n s t
      ∧ t.hostWrite = s.hostWrite ∧ t.streams[n] = some st'
      ∧ (w.getLsbD 31 = false → st'.ringEnd = true ∧ st'.fetchPos = st.fetchPos
          ∧ st'.starved = (st.starved || st.staging.isEmpty)
          ∧ st'.event = (st.event || (st.staging.isEmpty && !st.starved)))
      ∧ (w.getLsbD 31 = true → w.extractLsb' 0 12 ≠ 0 →
          st'.ringEnd = false ∧ st'.reading = some w ∧ st'.held = st.held)
      ∧ (w.getLsbD 31 = true → w.extractLsb' 0 12 = 0 → st.held = [] →
          st'.held = [] ∧ st'.ringIndex = nextIndex st.fetchPos (w.getLsbD 30)
          ∧ st'.fetchPos = nextIndex st.fetchPos (w.getLsbD 30)
          ∧ ∃ r, st'.writeBack = st.writeBack ++ [r] ∧ r.empty = true ∧ r.stamp = s.stamp
              ∧ r.desc.index = st.fetchPos))
    ∧ ((∃ index first, op.kind = .secondWord index first) → ∀ w0, st.reading = some w0 →
      ∃ t st', exec (.sendDescriptorRead w) s = .next t ∧ OnlyStream n s t
        ∧ t.hostWrite = s.hostWrite ∧ t.streams[n] = some st' ∧ st'.reading = none
        ∧ st'.held = st.held ++ [TxDesc.ofWords st.fetchPos w0 w])

/-- The end of a buffer read stages the words in order, the descriptor's first word marked so and no
other, clears STARVED, and moves the fetch position when the descriptor has been read whole (R143,
R144). -/
def Obligations.BufferReadStagesItsWords : Prop :=
  ∀ (words : List Word) (s : State) (n : Fin 16) (st : Machine.Stream) (op : BusOp) (d : TxDesc),
    Serves s n st op → st.isSend = true → op.discard = false → op.kind = .bufferRead words.length →
    st.fetching = some d →
    ∃ t st', exec (.sendBufferRead words) s = .next t ∧ OnlyStream n s t
      ∧ t.hostWrite = s.hostWrite ∧ t.streams[n] = some st'
      ∧ st'.staging.map (·.word) = st.staging.map (·.word) ++ words
      ∧ st'.staging.take st.staging.length = st.staging
      ∧ (∀ (j : Nat) (w : Word), words[j]? = some w →
          st'.staging[st.staging.length + j]? = some ⟨w, d.index, decide (d.fetched + j = 0)⟩)
      ∧ st'.starved = false ∧ st'.writeBack = st.writeBack
      ∧ st'.fetchPos = (if d.count ≤ d.fetched + words.length then d.after else st.fetchPos)

/-- A send descriptor is handed back in two writes: the third and fourth words, with the stamp, the
words sent, the flags and the pending CUE_MISS mark, which is cleared; then the first word, its owner
HOST, at which the descriptor leaves the queue and NOTIFY sets the stream's event (R140, R149,
R197). That the mark is taken at the write's end is the model's choice (log 14). -/
def Obligations.SendHandBackInTwoWrites : Prop :=
  ∀ (s : State) (n : Fin 16) (st : Machine.Stream) (op : BusOp) (r : TxDone) (rest : List TxDone),
    Serves s n st op → st.isSend = true → st.writeBack = r :: rest →
    (op.kind = .statusWrite → ∃ t st', exec .sendStatusWrite s = .next t ∧ OnlyStream n s t
      ∧ t.streams[n] = some st'
      ∧ t.hostWrite =
        [(st.descriptor r.desc.index + 8, r.stamp.setWidth 32),
         (st.descriptor r.desc.index + 12, r.statusWord st.cueMissMark)]
      ∧ (r.statusWord st.cueMissMark).extractLsb' 0 12 = BitVec.ofNat 12 r.desc.sent
      ∧ (r.statusWord st.cueMissMark).getLsbD 16 = r.truncated
      ∧ (r.statusWord st.cueMissMark).getLsbD 17 = r.desc.discarded
      ∧ (r.statusWord st.cueMissMark).getLsbD 18 = st.cueMissMark
      ∧ (r.statusWord st.cueMissMark).getLsbD 19 = r.empty
      ∧ (r.statusWord st.cueMissMark).getLsbD 20 = r.busFault
      ∧ st'.cueMissMark = false ∧ st'.writeBack = { r with statusDone := true } :: rest
      ∧ (st.dead = false → st'.op = some ⟨.handBack, st.descriptor r.desc.index, false⟩))
    ∧ (op.kind = .handBack → ∃ t st', exec .sendHandBack s = .next t ∧ OnlyStream n s t
      ∧ t.streams[n] = some st'
      ∧ t.hostWrite = [(st.descriptor r.desc.index, r.firstWord)]
      ∧ r.firstWord.getLsbD 31 = false ∧ r.firstWord.getLsbD 30 = r.desc.wrap
      ∧ r.firstWord.extractLsb' 0 12 = BitVec.ofNat 12 r.desc.count
      ∧ st'.writeBack = rest ∧ st'.event = (st.event || r.desc.notify)
      ∧ st'.cueMissMark = st.cueMissMark)

/-- A bus error on an open send stream's transaction closes it with reason BUS_FAULT and its event; a
failed write ends the engine's work and empties the write-back queue; an error on a discarded read only
ends that read (R133, R151, R153). After a failed first-word read the ring is closed as by any closure. The
descriptor whose second word or buffer words could not be read is handed back with BUS_FAULT: the head with
TRUNCATED if it was started, and the ring index past it; one beyond the head behind the truncated head, the
ring index past that. A CLOSING stream takes reason BUS_FAULT, unless its reason is LEAVE, and a CLOSED one
stays as it is (R133). That the emptied queue includes a truncated head, and that the event of a CLOSING
stream is set with its reason, are the model's readings (logs 21, 22). -/
def Obligations.SendBusErrorClosesTheStream : Prop :=
  ∀ (s : State) (n : Fin 16) (st : Machine.Stream) (op : BusOp), Serves s n st op →
    st.isSend = true →
    (op.discard = false → st.isOpen = true →
      ∃ t st', exec .sendBusError s = .next t ∧ t.streams[n] = some st'
        ∧ st'.closeReason = .busFault ∧ st'.event = true ∧ st'.staging = [] ∧ st'.held = []
        ∧ st'.state = (if s.streamHasPart n st then .closing else .closed)
        ∧ st'.defn = st.defn ∧ n ∉ t.openQueue ∧ t.portLast = n
        ∧ (op.kind = .statusWrite ∨ op.kind = .handBack →
            st'.writeBack = [] ∧ st'.dead = true ∧ st'.op = none)
        ∧ (op.kind = .firstWord → st'.fetchPos = st.fetchPos ∧ SendRingClosed st st')
        ∧ (∀ d : TxDesc, ((∃ k, op.kind = .bufferRead k) ∧ st.fetching = some d
            ∨ (∃ i w, op.kind = .secondWord i w) ∧ st.fetching = none
              ∧ ∃ w0, st.reading = some w0 ∧ d = TxDesc.ofWords st.fetchPos w0 0) →
          let r : TxDone :=
            ⟨d, if d.gone = 0 then s.stamp else d.lastStamp, d.gone != 0, false, true, false⟩
          ((∀ h ∈ st.held.head?, h.index = d.index) →
            st'.writeBack = st.writeBack ++ [r] ∧ st'.ringIndex = nextIndex d.index d.wrap)
          ∧ ∀ h rest, st.held = h :: rest → h.index ≠ d.index →
            st'.writeBack = (if h.gone ≠ 0 ∧ h.keep = false then
                st.writeBack ++ [⟨h, h.lastStamp, true, false, false, false⟩] else st.writeBack)
              ++ [r]
            ∧ st'.ringIndex = if h.gone ≠ 0 then nextIndex h.index h.wrap else st.ringIndex)
        ∧ (∀ i : Fin 24, t.slots[i].entry = s.slots[i].entry)
        ∧ t.events = s.events ∧ t.membership = s.membership)
    ∧ (op.discard = false → st.isOpen = false →
      ∃ t st', exec .sendBusError s = .next t ∧ t.streams[n] = some st' ∧ st'.state = st.state
        ∧ st'.closeReason = (if st.state = .closing ∧ st.closeReason ≠ .leave then .busFault
            else st.closeReason)
        ∧ st'.event = (st.event || (st.state == .closing && st.closeReason != .leave))
        ∧ (op.kind = .statusWrite ∨ op.kind = .handBack →
            st'.writeBack = [] ∧ st'.dead = true ∧ st'.op = none)
        ∧ (∀ i : Fin 24, t.slots[i].entry = s.slots[i].entry)
        ∧ t.events = s.events ∧ t.membership = s.membership)
    ∧ (op.discard = true → ∃ t st', exec .sendBusError s = .next t ∧ OnlyStream n s t
        ∧ t.streams[n] = some st' ∧ Sys2Proof.Stream.still st' = Sys2Proof.Stream.still st)

/-! ### Listen rings -/

/-- The end of a receive descriptor's read: a first word read as HOST is a ring end, STARVED where no
descriptor is current; one read as PART with room asks for the second word; a zero-capacity one joins
the write queue for its hand-back; the second word takes the descriptor as current, or as next
(R157, R158). -/
def Obligations.ListenDescriptorReadActs : Prop :=
  ∀ (w : Word) (s : State) (n : Fin 16) (st : Machine.Stream) (op : BusOp), Serves s n st op →
    st.isSend = false → op.discard = false →
    (op.kind = .firstWord → ∃ t st', exec (.listenDescriptorRead w) s = .next t ∧ OnlyStream n s t
      ∧ t.hostWrite = s.hostWrite ∧ t.streams[n] = some st'
      ∧ (w.getLsbD 31 = false → st'.ringEnd = true ∧ st'.fetchPos = st.fetchPos
          ∧ st'.starved = st.current.isNone ∧ st'.event = st.event)
      ∧ (w.getLsbD 31 = true → w.extractLsb' 0 12 ≠ 0 →
          st'.ringEnd = false ∧ st'.reading = some w ∧ st'.writeQueue = st.writeQueue)
      ∧ (w.getLsbD 31 = true → w.extractLsb' 0 12 = 0 →
          st'.fetchPos = nextIndex st.fetchPos (w.getLsbD 30)
          ∧ st'.current = st.current ∧ st'.next = st.next
          ∧ ∃ r, st'.writeQueue = st.writeQueue ++ [WriteItem.done r] ∧ r.desc.count = 0
              ∧ r.desc.index = st.fetchPos))
    ∧ ((∃ index first, op.kind = .secondWord index first) → ∀ w0, st.reading = some w0 →
      ∃ t st', exec (.listenDescriptorRead w) s = .next t ∧ OnlyStream n s t
        ∧ t.hostWrite = s.hostWrite ∧ t.streams[n] = some st' ∧ st'.reading = none
        ∧ st'.fetchPos = nextIndex st.fetchPos (w0.getLsbD 30)
        ∧ (st.current = none → st'.current = some (RxDesc.ofWords st.fetchPos w0 w)
            ∧ st'.ringIndex = st.fetchPos ∧ st'.starved = false)
        ∧ (st.current.isSome = true → st'.current = st.current
            ∧ st'.next = some (RxDesc.ofWords st.fetchPos w0 w)))

/-- The writes of a listen stream: placed words go to their addresses and leave the queue; a finished
descriptor gets its third and fourth words, with stamp, source and label, then its first word, owner
HOST with the pending marks, which are cleared, and NOTIFY sets the stream's event (R156, R167,
R197). That the marks are taken at the write's end, and that placed words leave the queue
when their write ends, are the model's choices (logs 14, 39). -/
def Obligations.ListenWritesAct : Prop :=
  ∀ (s : State) (n : Fin 16) (st : Machine.Stream) (op : BusOp), Serves s n st op →
    st.isSend = false →
    (∀ k : Nat, op.kind = .wordWrite k → ∃ t st', exec .listenWordWrite s = .next t
      ∧ OnlyStream n s t ∧ t.streams[n] = some st' ∧ st'.writeQueue = st.writeQueue.drop k
      ∧ st'.current = st.current
      ∧ (∀ a x, (a, x) ∈ t.hostWrite ↔ ∃ i, WriteItem.word i a x ∈ st.writeQueue.take k))
    ∧ (∀ (r : RxDone) (rest : List WriteItem), st.writeQueue = WriteItem.done r :: rest →
      (op.kind = .statusWrite → ∃ t st', exec .listenStatusWrite s = .next t ∧ OnlyStream n s t
        ∧ t.streams[n] = some st'
        ∧ t.hostWrite =
          [(st.descriptor r.desc.index + 8,
            if r.desc.count = 0 then s.stamp.setWidth 32
            else (0#3 ++ r.desc.source ++ r.desc.stamp : BitVec (3 + 5 + 24))),
           (st.descriptor r.desc.index + 12, st.defn.label.setWidth 32)]
        ∧ st'.writeQueue = WriteItem.done { r with statusDone := true } :: rest)
      ∧ (op.kind = .handBack → ∃ t st' w, exec .listenHandBack s = .next t ∧ OnlyStream n s t
        ∧ t.streams[n] = some st' ∧ t.hostWrite = [(st.descriptor r.desc.index, w)]
        ∧ w.getLsbD 31 = false ∧ w.getLsbD 30 = r.desc.wrap
        ∧ w.extractLsb' 0 12 = BitVec.ofNat 12 r.desc.count
        ∧ w.getLsbD 16 = r.desc.blockStart ∧ w.getLsbD 17 = r.blockEnd
        ∧ w.getLsbD 18 = r.desc.gap ∧ w.getLsbD 19 = r.desc.damage
        ∧ w.getLsbD 20 = st.overrunMark ∧ w.getLsbD 21 = r.truncated
        ∧ w.getLsbD 22 = r.cueStop ∧ w.getLsbD 23 = st.cueMissMark ∧ w.getLsbD 24 = r.busFault
        ∧ st'.writeQueue = rest ∧ st'.overrunMark = false ∧ st'.cueMissMark = false
        ∧ st'.event = (st.event || r.desc.notify)))

/-- A bus error on a listen stream's transaction. An open stream, even one reopened while the failed read
of an earlier walk was outstanding, is closed with reason BUS_FAULT and its event, no descriptor in hand;
one that is not open keeps its state, reason and event. A failed second-word read hands that descriptor
back with BUS_FAULT and word count 0, a failed hand-back write empties the write queue and ends the
engine's work, and a failed word write removes the placed words of its buffer and hands its descriptor back
with BUS_FAULT, the word count less the words removed, the rest of the queue as it stands
(R133, R168, R169). That the emptied queue includes a truncated current descriptor is the model's reading
(log 21), and that BLOCK START and GAP stay as removed words had made them its choice (log 43). -/
def Obligations.ListenBusErrorClosesTheStream : Prop :=
  ∀ (s : State) (n : Fin 16) (st : Machine.Stream) (op : BusOp), Serves s n st op →
    st.isSend = false →
      ∃ t st', exec .listenBusError s = .next t ∧ t.streams[n] = some st'
        ∧ (st.isOpen = true → st'.state = .closed ∧ st'.closeReason = .busFault ∧ st'.event = true
            ∧ st'.current = none ∧ st'.next = none ∧ st'.stalled = false ∧ st'.starved = false)
        ∧ (st.isOpen = false → st'.state = st.state ∧ st'.closeReason = st.closeReason
            ∧ st'.event = st.event)
        ∧ st'.defn = st.defn ∧ t.portLast = n
        ∧ (op.kind = .firstWord → st'.fetchPos = st.fetchPos)
        ∧ (∀ i w, op.kind = .secondWord i w → ∃ q r, st'.writeQueue = q ++ [WriteItem.done r]
            ∧ r.busFault = true ∧ r.desc.count = 0 ∧ r.desc.index = i
            ∧ r.desc.wrap = w.getLsbD 30 ∧ r.desc.notify = w.getLsbD 27
            ∧ (st.current = none → st'.ringIndex
                = if st.ringIndex = i then nextIndex i (w.getLsbD 30) else st.ringIndex))
        ∧ (op.kind = .statusWrite ∨ op.kind = .handBack →
            st'.writeQueue = [] ∧ st'.dead = true ∧ st'.op = none)
        ∧ (∀ k i a x rest, op.kind = .wordWrite k → st.writeQueue = WriteItem.word i a x :: rest →
          let ended : List WriteItem := match st.current with
            | some d => if st.isOpen = true ∧ d.count ≠ 0 then
                [WriteItem.done ⟨d, false, true, false, false, false⟩] else []
            | none => []
          let lost := (st.writeQueue.filter fun w => match w with
            | .word j _ _ => j == i
            | .done _ => false).length
          st'.writeQueue = (st.writeQueue ++ ended).filterMap fun w => match w with
            | .word j b y => if j = i then none else some (WriteItem.word j b y)
            | .done r => some (WriteItem.done (if r.desc.index = i then
                { r with busFault := true, desc := { r.desc with count := r.desc.count - lost } }
              else r)))
        ∧ (∀ i : Fin 24, t.slots[i].entry = s.slots[i].entry)
        ∧ t.events = s.events ∧ t.membership = s.membership

/-- A word that a TUNED or SEEKING listener accepts while no WAIT hold stands: it is placed in the
current descriptor, marking GAP where its sequence is not the expected one, the first word with its block
mark; the word that fills the descriptor sends it to the write queue and makes the next one current; and
it is dropped with the overrun marks where none is current or the write queue is full. A word with the
block mark first hands a current descriptor that holds words back with BLOCK END, and is then taken as
the first word of the next one; that the hand-back comes before a drop or a hold is the model's reading
(log 18), and that words of an outstanding write count in the queue its choice (log 39). The expectation moves on either way, and under a WAIT hold it alone moves (R159 to R162,
R165). -/
def Obligations.AcceptedWordIsPlacedOrDropped : Prop :=
  ∀ (c : Cell) (now : Stamp) (st : Machine.Stream),
    (st.acceptWord c now).expectation = some (c.sequence + 1)
    ∧ (st.listenHold = true → st.acceptWord c now = { st with expectation := some (c.sequence + 1) })
    ∧ (st.listenHold = false → (c.mark = false ∨ ∀ d ∈ st.current, d.count = 0) →
      (st.current = none ∨ 32 ≤ st.queuedWords →
        (st.acceptWord c now).overrunMark = true ∧ (st.acceptWord c now).overrunSeen = true
        ∧ (st.acceptWord c now).event = (st.event || !st.overrunMark)
        ∧ (st.acceptWord c now).writeQueue = st.writeQueue
        ∧ (st.acceptWord c now).current = st.current)
      ∧ (∀ d, st.current = some d → st.queuedWords < 32 → d.count + 1 < d.capacity →
        (st.acceptWord c now).overrunMark = st.overrunMark
        ∧ (st.acceptWord c now).writeQueue = st.writeQueue
            ++ [WriteItem.word d.index (d.address + 4 * BitVec.ofNat 32 (d.count % 4096)) c.word]
        ∧ ∃ d', (st.acceptWord c now).current = some d' ∧ d'.count = d.count + 1
          ∧ d'.gap = (d.gap || st.expectation.any (· != c.sequence))
          ∧ (d.count = 0 → d'.stamp = now ∧ d'.source = c.owner ∧ d'.blockStart = c.mark)
          ∧ (d.count ≠ 0 → d'.stamp = d.stamp ∧ d'.source = d.source
              ∧ d'.blockStart = d.blockStart))
      ∧ (∀ d, st.current = some d → st.queuedWords < 32 → d.capacity ≤ d.count + 1 →
        (st.acceptWord c now).current = st.next ∧ (st.acceptWord c now).next = none
        ∧ (st.acceptWord c now).ringIndex = st.next.elim st.fetchPos (·.index)
        ∧ (st.acceptWord c now).overrunMark = st.overrunMark
        ∧ ∃ r, (st.acceptWord c now).writeQueue = st.writeQueue
            ++ [WriteItem.word d.index (d.address + 4 * BitVec.ofNat 32 (d.count % 4096)) c.word,
                WriteItem.done r]
          ∧ r.desc.index = d.index ∧ r.desc.count = d.count + 1 ∧ r.blockEnd = false
          ∧ r.truncated = false ∧ r.cueStop = false ∧ r.busFault = false ∧ r.statusDone = false
          ∧ r.desc.gap = (d.gap || st.expectation.any (· != c.sequence))))
    ∧ (st.listenHold = false → c.mark = true → ∀ d, st.current = some d → d.count ≠ 0 →
        (∃ rest, (st.acceptWord c now).writeQueue = st.writeQueue
          ++ WriteItem.done ⟨d, true, false, false, false, false⟩ :: rest)
        ∧ (st.next = none → (st.acceptWord c now).current = none
            ∧ (st.acceptWord c now).ringIndex = st.fetchPos
            ∧ (st.acceptWord c now).overrunMark = true ∧ (st.acceptWord c now).overrunSeen = true)
        ∧ (∀ d₂, st.next = some d₂ → (st.defn.cue.isSome = true → d₂.wait = true →
              d₂.released = true) → d₂.count = 0 → 1 < d₂.capacity → st.queuedWords < 32 →
            (st.acceptWord c now).ringIndex = d₂.index ∧ (st.acceptWord c now).next = none
            ∧ (st.acceptWord c now).writeQueue = st.writeQueue
              ++ [WriteItem.done ⟨d, true, false, false, false, false⟩,
                  WriteItem.word d₂.index d₂.address c.word]
            ∧ (st.acceptWord c now).current = some { d₂ with
                count := 1, stamp := now, source := c.owner, blockStart := true
                gap := d₂.gap || st.expectation.any (· != c.sequence) }))

/-- Which operation an engine issues next, one at a time for a stream, none while one is outstanding and none
after a failed hand-back write. A send stream: the front of the write-back queue, its third and fourth words and
then its first; with that queue empty and the stream open, as many buffer words of the descriptor in hand as the
staging queue has room for; then the second word of the descriptor at the fetch position, and its first
word unless it is held or the walk is stopped at a ring end (R142 to R144, R149). A listen stream: the
front of the write queue, a run of placed words of one buffer at consecutive addresses, or a descriptor's two
writes; with that queue empty, the stream open and fewer than two descriptors in hand, a second or a first
word (R157, R158, R167). After every step every engine has issued what it has to issue. A header of an ordinary
frame, intact or damaged, makes an open stream that stands at a ring end read it again; a census header makes none
(R144, R158). That headers which come before that read can be issued bring one is the model's choice (log 38). -/
def Obligations.EnginesIssueInOrder : Prop :=
  (∀ st : Machine.Stream, st.op.isSome = true ∨ st.dead = true → st.issue = st)
  ∧ (∀ st : Machine.Stream, st.op = none → st.dead = false →
    let base (i : BitVec 8) : Word := st.defn.ringBase + 16 * i.setWidth 32
    (st.isSend = true →
      (∀ r rest, st.writeBack = r :: rest → st.issue = { st with
          op := some (if r.statusDone then ⟨.handBack, base r.desc.index, false⟩
            else ⟨.statusWrite, base r.desc.index + 8, false⟩) })
      ∧ (st.writeBack = [] → st.isOpen = false → st.issue = st)
      ∧ (st.writeBack = [] → st.isOpen = true →
        (∀ d, st.held.getLast? = some d → d.fetched < d.count →
          let k := min (8 - st.staging.length) (d.count - d.fetched)
          st.issue = if k = 0 then st else { st with
            op := some ⟨.bufferRead k, d.address + 4 * BitVec.ofNat 32 (d.fetched % 4096), false⟩ })
        ∧ ((∀ d, st.held.getLast? = some d → d.count ≤ d.fetched) →
          (∀ w, st.reading = some w → st.issue = { st with
            op := some ⟨.secondWord st.fetchPos w, base st.fetchPos + 4, false⟩ })
          ∧ (st.reading = none → st.issue =
            if (∀ d ∈ st.held, d.index ≠ st.fetchPos) ∧ (st.ringEnd = false ∨ st.poll = true) then
              { st with op := some ⟨.firstWord, base st.fetchPos, false⟩, poll := false }
            else st))))
    ∧ (st.isSend = false →
      (∀ i a x rest, st.writeQueue = WriteItem.word i a x :: rest →
        ∃ k : Nat, 1 ≤ k ∧ st.issue = { st with op := some ⟨.wordWrite k, a, false⟩ }
          ∧ (∀ j < k, ∃ y, st.writeQueue[j]? = some (.word i (a + 4 * BitVec.ofNat 32 j) y))
          ∧ ∀ y, st.writeQueue[k]? ≠ some (.word i (a + 4 * BitVec.ofNat 32 k) y))
      ∧ (∀ r rest, st.writeQueue = WriteItem.done r :: rest → st.issue = { st with
          op := some (if r.statusDone then ⟨.handBack, base r.desc.index, false⟩
            else ⟨.statusWrite, base r.desc.index + 8, false⟩) })
      ∧ (st.writeQueue = [] →
        (st.isOpen = false ∨ st.current.isSome = true ∧ st.next.isSome = true → st.issue = st)
        ∧ (st.isOpen = true → st.current = none ∨ st.next = none →
          (∀ w, st.reading = some w → st.issue = { st with
            op := some ⟨.secondWord st.fetchPos w, base st.fetchPos + 4, false⟩ })
          ∧ (st.reading = none → st.issue =
            if (∀ d ∈ st.current, d.index ≠ st.fetchPos) ∧ (∀ d ∈ st.next, d.index ≠ st.fetchPos)
              ∧ (st.ringEnd = false ∨ st.poll = true) then
              { st with op := some ⟨.firstWord, base st.fetchPos, false⟩, poll := false }
            else st)))))
  ∧ Keeps EnginesIssued
  ∧ ∀ (header : HeaderRx) (s : State) (f : Frame), s.membership.judges = true →
    s.frame = some f → f.header = .due →
    ∃ t, exec header.command s = .next t ∧ EnginesIssued t
      ∧ (t.membership = s.membership → ∀ (n : Fin 16) (st st' : Machine.Stream),
        s.streams[n] = some st → t.streams[n] = some st' → st.isOpen = true → st'.isOpen = true →
        st'.ringEnd = st.ringEnd
        ∧ (f.census = false → st.ringEnd = true →
            st'.poll = true ∨ ∃ op, st'.op = some op ∧ op.kind = .firstWord)
        ∧ (f.census = true → st.poll = false → st'.poll = false
          ∧ (st.ringEnd = true → st.op = none → ∀ op, st'.op = some op → op.kind ≠ .firstWord)))

/-- The master port serves one transaction at a time and takes the next one in turn, from the stream
numbered after the one it served last, wrapping from 15 to 0; the end of a transaction makes its stream
the one served last (R183). In LOADING the profile's words are read in order from PROFILE ADDRESS, the two
header words first and then as many as the stream count gives (R183, R185). -/
def Obligations.MasterPortServesInTurn : Prop :=
  (∀ s : State, (s.portServing.isSome = true → s.pump.portServing = s.portServing)
    ∧ (s.portServing = none → ServesInTurn s.pump) ∧ s.pump.portLast = s.portLast)
  ∧ (∀ (w : Word) (s : State) (n : Fin 16) (st : Machine.Stream) (op : BusOp), Serves s n st op →
      op.kind = .firstWord →
      ∃ t, exec (if st.isSend then .sendDescriptorRead w else .listenDescriptorRead w) s = .next t
        ∧ t.portLast = n ∧ ServesInTurn t)
  ∧ (∀ (s : State) (n : Fin 16) (st : Machine.Stream) (op : BusOp), Serves s n st op →
      ∃ t, exec (if st.isSend then .sendBusError else .listenBusError) s = .next t
        ∧ t.portLast = n ∧ ServesInTurn t)
  ∧ ∀ s : State,
      s.nextProfileRead = (if s.membership = .loading then
          some (s.profileAddress + 4 * BitVec.ofNat 32 (s.fetched.length % 4096),
            if s.fetched.length < 2 then 2 - s.fetched.length
            else 3 + 4 * profileCount s.fetched - s.fetched.length)
        else none)

/-! ### The arbiter -/

/-- While the map holds a FREE entry, every candidate's target is the lowest FREE slot, with the preempt
flag clear, whatever its start mode and priority (R113). With no FREE entry, a PREEMPT candidate's target
is, of the entries HELD by other stations at a priority strictly below its own, the one of lowest priority
and then of highest slot; it has none where there is no such entry, as at priority 0, and a WAIT candidate
has none (R114). -/
def Obligations.TargetsAreChosenInOrder : Prop :=
  (∀ (slots : Vector Slot 24) (k : Station) (d : StreamDef) (i : Fin 24),
    slots[i].entry = .free → (∀ j : Fin 24, j < i → slots[j].entry ≠ .free) →
    target slots k d = some (i, false))
  ∧ ∀ (slots : Vector Slot 24) (k : Station) (d : StreamDef),
    (∀ j : Fin 24, slots[j].entry ≠ .free) →
    (d.startMode = .wait → target slots k d = none)
    ∧ (d.startMode = .preempt →
      (∀ (i : Fin 24) (h : Claimant) (x : Nat), slots[i].entry = .held h x → h.station ≠ k →
        h.priority.toNat < d.priority.toNat →
        (∀ (j : Fin 24) (g : Claimant) (y : Nat), slots[j].entry = .held g y → g.station ≠ k →
          g.priority.toNat < d.priority.toNat →
          h.priority.toNat < g.priority.toNat ∨ h.priority = g.priority ∧ j ≤ i) →
        target slots k d = some (i, true))
      ∧ ((∀ (i : Fin 24) (h : Claimant) (x : Nat), slots[i].entry = .held h x → h.station ≠ k →
          d.priority.toNat ≤ h.priority.toNat) → target slots k d = none)
      ∧ (d.priority = 0 → target slots k d = none))

/-- A choice finds no bid when the win list holds a record of age 0 or four records (R109). A chosen bid
is made by a MEMBER below the holding limit for a label that no other station uses and a target that is
FREE, or HELD by another station at a strictly lower priority with the preempt flag set (R107, R111 to
R115); so its own station would judge it valid as long as the station's own entry in its peer table is
PRESENT or MISSING (R41). A MEMBER makes a choice at each intact header of an ordinary frame whose index
is not 255, and at each census completion, by the map, the streams, the queue and the win list as the
arrival leaves them; no other intact header and no other station leaves a chosen bid (R105, R107). That
the choice is made at a census completion whose header arrived damaged too is the model's reading (log
36). -/
def Obligations.ChosenBidIsFitToBid : Prop :=
  (∀ s : State, 0 ∈ s.wins ∨ 4 ≤ s.wins.length → s.chooseBid = { s with chosenBid := none })
  ∧ (∀ (s : State) (b : ChosenBid), s.chooseBid.chosenBid = some b →
    s.membership = .member ∧ b.bid.station = s.number ∧ holdingCount s.slots s.number < 8
    ∧ (∀ k ∈ labelUsers s.slots b.bid.label, k = s.number)
    ∧ (∃ st, s.streams[b.stream] = some st ∧ b.bid.label = st.defn.label
        ∧ b.bid.priority = st.defn.priority)
    ∧ ∃ i : Fin 24, b.bid.slot.toNat = i.val
        ∧ (s.slots[i].entry = .free ∧ b.bid.preempt = false
          ∨ ∃ h x, s.slots[i].entry = .held h x ∧ h.station ≠ s.number ∧ b.bid.preempt = true
              ∧ h.priority.toNat < b.bid.priority.toNat)
        ∧ ((s.peer s.number).state = .present ∨ (s.peer s.number).state = .missing →
            s.bidValid b.bid s.slots[i].entry = true))
  ∧ (∀ (bits : HeaderBits) (s : State) (f : Frame), s.membership.judges = true →
    s.frame = some f → f.header = .due → f.unexpected = false →
    ∃ t, exec (.headerArrival bits) s = .next t
      ∧ (s.membership = .member → f.census = false → s.index ≠ 255 → ∃ u, ChoiceShows u t
        ∧ (s.command = none → u.openQueue = s.openQueue.filter fun n =>
            (u.streams[n]).any fun st => st.isSend && st.state.openSend && !st.everFull))
      ∧ (s.membership ≠ .member ∨ f.census = true ∨ s.index = 255 → t.chosenBid = none))
  ∧ ∀ (bits : CensusBits) (s : State) (f : Frame), s.membership.maps = true →
    s.frame = some f → f.census = true → f.header ≠ .due → f.arrived = 31 →
    ∃ t, exec (.censusCellArrival bits) s = .next t
      ∧ (t.membership = .member → ∃ u, ChoiceShows u t)
      ∧ (t.membership ≠ .member → t.chosenBid = none)

/-- How the arbiter of a MEMBER within its win budget makes a choice. The candidates are the repair
candidate and the head of the open queue, neither of them with a preemption of this station pending under
its label; the one of higher stream priority is tried first, the repair candidate on equal priority, and
the other where that gives no bid (R55, R105, R106, R110). A candidate whose label another station uses
other than through a pending release is closed with reason LABEL_CLASH and its event and leaves the queue;
one whose label is used through pending releases alone is left as it is; and any other gives the bid for
its target, if it has one and the station is below the holding limit (R111, R112, R115, R133). -/
def Obligations.CandidatesAreTriedInOrder : Prop :=
  (∀ s : State, s.membership = .member → 0 ∉ s.wins → s.wins.length < 4 →
    ∃ order : List (Fin 16), s.chooseBid = { s with chosenBid := none }.tryCandidates order
      ∧ (∀ r st h st₂, RepairCandidate s r st → HeadCandidate s h st₂ →
          order = if st.defn.priority.toNat < st₂.defn.priority.toNat then [h, r] else [r, h])
      ∧ (∀ r st, RepairCandidate s r st → (∀ h st₂, ¬ HeadCandidate s h st₂) → order = [r])
      ∧ (∀ h st₂, HeadCandidate s h st₂ → (∀ r st, ¬ RepairCandidate s r st) → order = [h])
      ∧ ((∀ r st, ¬ RepairCandidate s r st) → (∀ h st₂, ¬ HeadCandidate s h st₂) → order = []))
  ∧ (∀ (s : State) (n : Fin 16) (ns : List (Fin 16)), s.tryCandidates [] = s
    ∧ ((s.tryCandidate n).chosenBid ≠ none → s.tryCandidates (n :: ns) = s.tryCandidate n)
    ∧ ((s.tryCandidate n).chosenBid = none →
        s.tryCandidates (n :: ns) = (s.tryCandidate n).tryCandidates ns))
  ∧ ∀ (s : State) (n : Fin 16) (st : Machine.Stream), s.streams[n] = some st →
    let l := st.defn.label
    let clash := ∃ (i : Fin 24), (∀ h, s.slots[i].entry ≠ .releasePending h)
      ∧ ∃ k ∈ s.slots[i].entry.users l, k ≠ s.number
    (clash → (s.tryCandidate n).chosenBid = s.chosenBid ∧ n ∉ (s.tryCandidate n).openQueue
      ∧ (∀ i : Fin 24, (s.tryCandidate n).slots[i].entry = s.slots[i].entry)
      ∧ (∀ m : Fin 16, m ≠ n → (s.tryCandidate n).streams[m] = s.streams[m])
      ∧ ∃ st', (s.tryCandidate n).streams[n] = some st' ∧ st'.defn = st.defn
        ∧ (st.isSend = true → st.state.openSend = true →
            st'.state = (if s.streamHasPart n st then .closing else .closed)
            ∧ st'.closeReason = .labelClash ∧ st'.event = true))
    ∧ (¬ clash → (∃ k ∈ labelUsers s.slots l, k ≠ s.number) → s.tryCandidate n = s)
    ∧ ((∀ k ∈ labelUsers s.slots l, k = s.number) →
      s.tryCandidate n = { s with
        chosenBid := if 8 ≤ holdingCount s.slots s.number then none
          else (target s.slots s.number st.defn).map fun t => ⟨n, st.defn.priority, s.number, t.2,
            BitVec.ofNat 5 t.1.val, l⟩ })

/-! ### Streams and cues -/

/-- At an intact header in MEMBER or LEAVING the CUEOUT pins of the set CUE bits go high, an open stream
with a latched cue under a WAIT hold consumes it, and every open stream bound to a set line, but one whose
OPEN or CLOSE is taken there with DONE (log 10), then takes one cue action, in this order: a start while it
awaits a cue, a stop in mode START_STOP outside a WAIT hold, the release of a WAIT hold, and otherwise the
latch, whose second cue is lost with the stream's event. A listen stream's first three, and its
consumption, wait for the next frame start: the start leaves no expectation, the stop hands back a current
descriptor that holds words with CUE_STOP (R166, R173 to R179). -/
def Obligations.CueActionsTakePrecedence : Prop :=
  (∀ (bits : HeaderBits) (s m : State) (f : Frame), s.membership.drives = true →
    s.frame = some f → f.header = .due → f.unexpected = false →
    m = ((s.settleAll (headerFields f bits).veto).judgeBid (headerFields f bits).bid).applyReleases
          (headerFields f bits).release →
    ∃ t, exec (.headerArrival bits) s = .next t
      ∧ (t.membership = s.membership → t.cueOut = s.cueOut ||| (headerFields f bits).cue
        ∧ ∀ (n : Fin 16) (st : Machine.Stream), s.streams[n] = some st →
          ∃ st', t.streams[n] = some st' ∧ (st'.isOpen = true →
            (¬ Commanded s t n →
              let x := (st.report s.number s.slots m.slots).heedCue (headerFields f bits).cue false
                s.number m.slots
              st'.awaiting = x.awaiting ∧ st'.latched = x.latched ∧ st'.cueAction = x.cueAction
              ∧ st'.state = x.state ∧ st'.everFull = x.everFull ∧ st'.event = x.event
              ∧ st'.held = x.held)
            ∧ (Commanded s t n → st'.awaiting = st.defn.cue.isSome ∧ st'.latched = false
              ∧ st'.cueAction = none))))
  ∧ ∀ (k : Station) (slots : Vector Slot 24) (st : Machine.Stream),
    (st.awaiting = true →
      st.cueEvent k slots = (if st.isSend then { st with awaiting := false }.standing k slots
        else { st with cueAction := some .start }))
    ∧ (st.awaiting = false → st.startStop = true → st.underHold = false →
      st.cueEvent k slots = (if st.isSend then { st with awaiting := true }.standing k slots
        else { st with cueAction := some .stop }))
    ∧ (st.awaiting = false → st.underHold = true →
      st.cueEvent k slots = (if st.isSend then st.releaseHead
        else { st with cueAction := some .release }))
    ∧ (st.awaiting = false → st.startStop = false → st.underHold = false →
      st.cueEvent k slots = { st with latched := true, event := st.event || st.latched })
    ∧ (∀ (bits : BitVec 4) (skip : Bool),
      let consumes := st.isOpen = true ∧ st.latched = true ∧ st.underHold = true
      let cued := st.isOpen = true ∧ skip = false
        ∧ ∃ b, st.defn.cue = some b ∧ bits.getLsbD b.line.toNat = true
      (consumes → st.consumeLatch = if st.isSend then { st.releaseHead with latched := false }
        else { st with cueAction := some .consume })
      ∧ (¬ consumes → st.consumeLatch = st)
      ∧ (cued → st.heedCue bits skip k slots = st.consumeLatch.cueEvent k slots)
      ∧ (¬ cued → st.heedCue bits skip k slots = st.consumeLatch))
    ∧ (st.cueAction = none → st.applyCue slots = st)
    ∧ (st.cueAction = some .start → st.applyCue slots
        = { st with cueAction := none, awaiting := false, expectation := none }.listenRule slots)
    ∧ (st.cueAction = some .stop →
      let x := { st with cueAction := none, awaiting := true }.listenRule slots
      ((∀ d ∈ st.current, d.count = 0) → st.applyCue slots = x)
      ∧ (∀ d, st.current = some d → d.count ≠ 0 →
          (st.applyCue slots).writeQueue
            = st.writeQueue ++ [WriteItem.done ⟨d, false, false, true, false, false⟩]
          ∧ (st.applyCue slots).current = st.next ∧ (st.applyCue slots).next = none
          ∧ (st.applyCue slots).ringIndex = st.next.elim st.fetchPos (·.index)
          ∧ (st.applyCue slots).state = x.state ∧ (st.applyCue slots).awaiting = true
          ∧ (st.applyCue slots).expectation = st.expectation))
    ∧ (st.cueAction = some .release ∨ st.cueAction = some .consume → st.applyCue slots
        = { st with
            cueAction := none
            latched := if st.cueAction = some .consume then false else st.latched
            current := st.current.map fun d => { d with released := true } })

/-! ### Encodings -/

/-- A header is read back from the 103 bits it is sent as, and a cell from its 64: every field is as it
was, the cell's check passes, and in a slot with VALID set it arrives intact. A cell of all zeros never
passes. A header's halves are read back as its bits, and a census header's as its VETO and CUE; a header
with a corrupt bit, or cut short, arrives damaged; and the wired-OR of two stations' bits is never
corrupt. A bidder that stops has driven the bits of its arbitration part up to that one, and the winner
the whole BID field (R9 to R12, R14, R15, R195). A census cell of station `k` with at most eight
declarations of slots 0 to 23 and labels that are not 0 arrives intact, every field as it was; one of all
zeros is silent (R17, R18, R195). -/
def Obligations.TrunkFormatsRoundTrip : Prop :=
  (∀ h : Header, parseHeader (encodeHeader h) = h) ∧
  (∀ c : Cell, parseCell (encodeCell c) = c ∧ cellPasses (encodeCell c) = true
    ∧ classifyCell (some true) (encodeCell c) = .intact c)
  ∧ cellPasses 0 = false
  ∧ (∀ h : Header, receiveHeader false (sendHeader (encodeHeader h)) = .intact (encodeHeader h)
    ∧ ∃ bits, receiveHeader true (sendHeader (encodeCensusHeader h)) = .intact bits
      ∧ parseCensusHeader bits = { Header.blank with veto := h.veto, cue := h.cue })
  ∧ (∀ (census : Bool) (halves : List Halves),
    (∃ i, i < headerLength census ∧ (halves[i]?.all (·.2)) = true) ↔
      ∃ arb, receiveHeader census halves = .damaged arb)
  ∧ (∀ a b : Bool, bitOfHalves (wiredOr (halvesOf a) (halvesOf b)) = some (a || b))
  ∧ (∀ (read : List (Option Bool)) (b : Bid),
    (droveThrough read b = true → bidBitsDriven read b = sendOrder (encodeBid (some b)))
    ∧ (droveThrough read b = false → read.length ≤ 8 →
      ∃ k, k < 8 ∧ bidBitsDriven read b = (arbitrationPart b).take (k + 1)
        ∧ read.take k = ((arbitrationPart b).take k).map some
        ∧ read[k]? ≠ ((arbitrationPart b)[k]?).map some))
  ∧ (∀ c : CensusCell, parseCensusCell (encodeCensusCell c) = c
    ∧ censusPasses (encodeCensusCell c) = true
    ∧ (c.heldCount.toNat ≤ 8 → (∀ d ∈ c.meaningful, d.slot.toNat < 24 ∧ d.label ≠ 0) →
        encodeCensusCell c ≠ 0 → classifyCensus c.echo.toNat (encodeCensusCell c) = .intact c))
  ∧ censusPasses 0 = false ∧ ∀ k : Nat, classifyCensus k 0 = .silent

/-! ### Invariants -/

/-- Every step keeps what a station drives to what its membership state allows (R1), and the map UNKNOWN,
with no release intent, where it does not act (R21, R35, R46). -/
def Obligations.EveryStepDrivesByMembership : Prop :=
  Keeps fun s => DrivesByMembership s ∧ MapUnknownOutside s

/-- Every step keeps every entry of the map in order (R19, R20, R31, R41), and keeps the law that no label
is carried under two stations by entries that are HELD, CLAIM_PENDING or RELEASE_PENDING (R25), together
with what that law needs: pending entries only where headers are judged, and none between the header and
the end of a census frame (R10, R37, R63). No station comes to hold or to claim more than 8 entries
(R24) by a step before which a revert of every pending entry would give none more than 8: the limit counts
no pending release and no prior holder, so a cell may resolve a slot to a station that a veto then gives
others back (R24, R30, R39). -/
def Obligations.EveryStepKeepsTheMapInOrder : Prop :=
  Keeps MapInOrder ∧ Keeps (fun s => LabelsInOrder s ∧ PendingInOrder s)
  ∧ ∀ s t : State, PendingInOrder s → HoldingsInOrder s → RevertsInOrder s → step s = .next t →
    HoldingsInOrder t

/-- Every step keeps the counts in their ranges: a MEMBER or LEAVING station has fewer than 5 damaged
headers since its last census, and fewer than 2 damaged readbacks in a row (R70, R81, R104, R108, R109). It
keeps every write queue at 32 placed words or fewer (R167). -/
def Obligations.EveryStepKeepsTheCounts : Prop := Keeps CountsInRange ∧ Keeps WriteQueuesBounded

/-- The invariants hold after reset. -/
def Obligations.InvariantsHoldAtReset : Prop :=
  DrivesByMembership State.reset ∧ MapUnknownOutside State.reset ∧ MapInOrder State.reset
  ∧ LabelsInOrder State.reset ∧ PendingInOrder State.reset ∧ HoldingsInOrder State.reset
  ∧ RevertsInOrder State.reset ∧ EnginesIssued State.reset ∧ CountsInRange State.reset ∧ WriteQueuesBounded State.reset

end Statements
end

