-- ==== Sys2Proof/Laws/State.lean ====
section
/-! SUPPORT. What each named update of the state leaves as it was, one lemma for each field. -/

namespace Sys2Proof.Machine

/-! `raise` sets one bit of EVENTS (R191). -/

@[simp] theorem State.raise_pending (s : State) (e : StationEvent) : (s.raise e).pending = s.pending := rfl
@[simp] theorem State.raise_free (s : State) (e : StationEvent) : (s.raise e).free = s.free := rfl
@[simp] theorem State.raise_rstnLow (s : State) (e : StationEvent) : (s.raise e).rstnLow = s.rstnLow := rfl
@[simp] theorem State.raise_tsync (s : State) (e : StationEvent) : (s.raise e).tsync = s.tsync := rfl
@[simp] theorem State.raise_cueOut (s : State) (e : StationEvent) : (s.raise e).cueOut = s.cueOut := rfl
@[simp] theorem State.raise_drive (s : State) (e : StationEvent) : (s.raise e).drive = s.drive := rfl
@[simp] theorem State.raise_timer (s : State) (e : StationEvent) : (s.raise e).timer = s.timer := rfl
@[simp] theorem State.raise_aligned (s : State) (e : StationEvent) : (s.raise e).aligned = s.aligned := rfl
@[simp] theorem State.raise_index (s : State) (e : StationEvent) : (s.raise e).index = s.index := rfl
@[simp] theorem State.raise_bootstrap (s : State) (e : StationEvent) : (s.raise e).bootstrap = s.bootstrap := rfl
@[simp] theorem State.raise_frame (s : State) (e : StationEvent) : (s.raise e).frame = s.frame := rfl
@[simp] theorem State.raise_slots (s : State) (e : StationEvent) : (s.raise e).slots = s.slots := rfl
@[simp] theorem State.raise_vetoOwed (s : State) (e : StationEvent) : (s.raise e).vetoOwed = s.vetoOwed := rfl
@[simp] theorem State.raise_membership (s : State) (e : StationEvent) : (s.raise e).membership = s.membership := rfl
@[simp] theorem State.raise_refusalReason (s : State) (e : StationEvent) : (s.raise e).refusalReason = s.refusalReason := rfl
@[simp] theorem State.raise_profileFault (s : State) (e : StationEvent) : (s.raise e).profileFault = s.profileFault := rfl
@[simp] theorem State.raise_faultStream (s : State) (e : StationEvent) : (s.raise e).faultStream = s.faultStream := rfl
@[simp] theorem State.raise_number (s : State) (e : StationEvent) : (s.raise e).number = s.number := rfl
@[simp] theorem State.raise_cycle (s : State) (e : StationEvent) : (s.raise e).cycle = s.cycle := rfl
@[simp] theorem State.raise_damageCount (s : State) (e : StationEvent) : (s.raise e).damageCount = s.damageCount := rfl
@[simp] theorem State.raise_joinAttempts (s : State) (e : StationEvent) : (s.raise e).joinAttempts = s.joinAttempts := rfl
@[simp] theorem State.raise_censusRun (s : State) (e : StationEvent) : (s.raise e).censusRun = s.censusRun := rfl
@[simp] theorem State.raise_joinWord (s : State) (e : StationEvent) : (s.raise e).joinWord = s.joinWord := rfl
@[simp] theorem State.raise_standing (s : State) (e : StationEvent) : (s.raise e).standing = s.standing := rfl
@[simp] theorem State.raise_peers (s : State) (e : StationEvent) : (s.raise e).peers = s.peers := rfl
@[simp] theorem State.raise_openQueue (s : State) (e : StationEvent) : (s.raise e).openQueue = s.openQueue := rfl
@[simp] theorem State.raise_wins (s : State) (e : StationEvent) : (s.raise e).wins = s.wins := rfl
@[simp] theorem State.raise_chosenBid (s : State) (e : StationEvent) : (s.raise e).chosenBid = s.chosenBid := rfl
@[simp] theorem State.raise_bidDriven (s : State) (e : StationEvent) : (s.raise e).bidDriven = s.bidDriven := rfl
@[simp] theorem State.raise_streams (s : State) (e : StationEvent) : (s.raise e).streams = s.streams := rfl
@[simp] theorem State.raise_cuePending (s : State) (e : StationEvent) : (s.raise e).cuePending = s.cuePending := rfl
@[simp] theorem State.raise_cueForward (s : State) (e : StationEvent) : (s.raise e).cueForward = s.cueForward := rfl
@[simp] theorem State.raise_profileAddress (s : State) (e : StationEvent) : (s.raise e).profileAddress = s.profileAddress := rfl
@[simp] theorem State.raise_fetched (s : State) (e : StationEvent) : (s.raise e).fetched = s.fetched := rfl
@[simp] theorem State.raise_portServing (s : State) (e : StationEvent) : (s.raise e).portServing = s.portServing := rfl
@[simp] theorem State.raise_portLast (s : State) (e : StationEvent) : (s.raise e).portLast = s.portLast := rfl
@[simp] theorem State.raise_command (s : State) (e : StationEvent) : (s.raise e).command = s.command := rfl
@[simp] theorem State.raise_rejected (s : State) (e : StationEvent) : (s.raise e).rejected = s.rejected := rfl
@[simp] theorem State.raise_lastResult (s : State) (e : StationEvent) : (s.raise e).lastResult = s.lastResult := rfl
@[simp] theorem State.raise_commandArgument (s : State) (e : StationEvent) : (s.raise e).commandArgument = s.commandArgument := rfl
@[simp] theorem State.raise_eventEnable (s : State) (e : StationEvent) : (s.raise e).eventEnable = s.eventEnable := rfl
@[simp] theorem State.raise_streamEventEnable (s : State) (e : StationEvent) : (s.raise e).streamEventEnable = s.streamEventEnable := rfl
@[simp] theorem State.raise_capture (s : State) (e : StationEvent) : (s.raise e).capture = s.capture := rfl
@[simp] theorem State.raise_readData (s : State) (e : StationEvent) : (s.raise e).readData = s.readData := rfl
@[simp] theorem State.raise_hostWrite (s : State) (e : StationEvent) : (s.raise e).hostWrite = s.hostWrite := rfl

/-! `onStream` changes one stream. -/

@[simp] theorem State.onStream_pending (s : State) (n : Fin 16) (f : Stream → Stream) : (s.onStream n f).pending = s.pending := by
  dsimp only [State.onStream]
@[simp] theorem State.onStream_free (s : State) (n : Fin 16) (f : Stream → Stream) : (s.onStream n f).free = s.free := by
  dsimp only [State.onStream]
@[simp] theorem State.onStream_rstnLow (s : State) (n : Fin 16) (f : Stream → Stream) : (s.onStream n f).rstnLow = s.rstnLow := by
  dsimp only [State.onStream]
@[simp] theorem State.onStream_tsync (s : State) (n : Fin 16) (f : Stream → Stream) : (s.onStream n f).tsync = s.tsync := by
  dsimp only [State.onStream]
@[simp] theorem State.onStream_cueOut (s : State) (n : Fin 16) (f : Stream → Stream) : (s.onStream n f).cueOut = s.cueOut := by
  dsimp only [State.onStream]
@[simp] theorem State.onStream_drive (s : State) (n : Fin 16) (f : Stream → Stream) : (s.onStream n f).drive = s.drive := by
  dsimp only [State.onStream]
@[simp] theorem State.onStream_timer (s : State) (n : Fin 16) (f : Stream → Stream) : (s.onStream n f).timer = s.timer := by
  dsimp only [State.onStream]
@[simp] theorem State.onStream_aligned (s : State) (n : Fin 16) (f : Stream → Stream) : (s.onStream n f).aligned = s.aligned := by
  dsimp only [State.onStream]
@[simp] theorem State.onStream_index (s : State) (n : Fin 16) (f : Stream → Stream) : (s.onStream n f).index = s.index := by
  dsimp only [State.onStream]
@[simp] theorem State.onStream_bootstrap (s : State) (n : Fin 16) (f : Stream → Stream) : (s.onStream n f).bootstrap = s.bootstrap := by
  dsimp only [State.onStream]
@[simp] theorem State.onStream_frame (s : State) (n : Fin 16) (f : Stream → Stream) : (s.onStream n f).frame = s.frame := by
  dsimp only [State.onStream]
@[simp] theorem State.onStream_slots (s : State) (n : Fin 16) (f : Stream → Stream) : (s.onStream n f).slots = s.slots := by
  dsimp only [State.onStream]
@[simp] theorem State.onStream_vetoOwed (s : State) (n : Fin 16) (f : Stream → Stream) : (s.onStream n f).vetoOwed = s.vetoOwed := by
  dsimp only [State.onStream]
@[simp] theorem State.onStream_membership (s : State) (n : Fin 16) (f : Stream → Stream) : (s.onStream n f).membership = s.membership := by
  dsimp only [State.onStream]
@[simp] theorem State.onStream_refusalReason (s : State) (n : Fin 16) (f : Stream → Stream) : (s.onStream n f).refusalReason = s.refusalReason := by
  dsimp only [State.onStream]
@[simp] theorem State.onStream_profileFault (s : State) (n : Fin 16) (f : Stream → Stream) : (s.onStream n f).profileFault = s.profileFault := by
  dsimp only [State.onStream]
@[simp] theorem State.onStream_faultStream (s : State) (n : Fin 16) (f : Stream → Stream) : (s.onStream n f).faultStream = s.faultStream := by
  dsimp only [State.onStream]
@[simp] theorem State.onStream_number (s : State) (n : Fin 16) (f : Stream → Stream) : (s.onStream n f).number = s.number := by
  dsimp only [State.onStream]
@[simp] theorem State.onStream_cycle (s : State) (n : Fin 16) (f : Stream → Stream) : (s.onStream n f).cycle = s.cycle := by
  dsimp only [State.onStream]
@[simp] theorem State.onStream_damageCount (s : State) (n : Fin 16) (f : Stream → Stream) : (s.onStream n f).damageCount = s.damageCount := by
  dsimp only [State.onStream]
@[simp] theorem State.onStream_joinAttempts (s : State) (n : Fin 16) (f : Stream → Stream) : (s.onStream n f).joinAttempts = s.joinAttempts := by
  dsimp only [State.onStream]
@[simp] theorem State.onStream_censusRun (s : State) (n : Fin 16) (f : Stream → Stream) : (s.onStream n f).censusRun = s.censusRun := by
  dsimp only [State.onStream]
@[simp] theorem State.onStream_joinWord (s : State) (n : Fin 16) (f : Stream → Stream) : (s.onStream n f).joinWord = s.joinWord := by
  dsimp only [State.onStream]
@[simp] theorem State.onStream_standing (s : State) (n : Fin 16) (f : Stream → Stream) : (s.onStream n f).standing = s.standing := by
  dsimp only [State.onStream]
@[simp] theorem State.onStream_peers (s : State) (n : Fin 16) (f : Stream → Stream) : (s.onStream n f).peers = s.peers := by
  dsimp only [State.onStream]
@[simp] theorem State.onStream_openQueue (s : State) (n : Fin 16) (f : Stream → Stream) : (s.onStream n f).openQueue = s.openQueue := by
  dsimp only [State.onStream]
@[simp] theorem State.onStream_wins (s : State) (n : Fin 16) (f : Stream → Stream) : (s.onStream n f).wins = s.wins := by
  dsimp only [State.onStream]
@[simp] theorem State.onStream_chosenBid (s : State) (n : Fin 16) (f : Stream → Stream) : (s.onStream n f).chosenBid = s.chosenBid := by
  dsimp only [State.onStream]
@[simp] theorem State.onStream_bidDriven (s : State) (n : Fin 16) (f : Stream → Stream) : (s.onStream n f).bidDriven = s.bidDriven := by
  dsimp only [State.onStream]
@[simp] theorem State.onStream_cuePending (s : State) (n : Fin 16) (f : Stream → Stream) : (s.onStream n f).cuePending = s.cuePending := by
  dsimp only [State.onStream]
@[simp] theorem State.onStream_cueForward (s : State) (n : Fin 16) (f : Stream → Stream) : (s.onStream n f).cueForward = s.cueForward := by
  dsimp only [State.onStream]
@[simp] theorem State.onStream_profileAddress (s : State) (n : Fin 16) (f : Stream → Stream) : (s.onStream n f).profileAddress = s.profileAddress := by
  dsimp only [State.onStream]
@[simp] theorem State.onStream_fetched (s : State) (n : Fin 16) (f : Stream → Stream) : (s.onStream n f).fetched = s.fetched := by
  dsimp only [State.onStream]
@[simp] theorem State.onStream_portServing (s : State) (n : Fin 16) (f : Stream → Stream) : (s.onStream n f).portServing = s.portServing := by
  dsimp only [State.onStream]
@[simp] theorem State.onStream_portLast (s : State) (n : Fin 16) (f : Stream → Stream) : (s.onStream n f).portLast = s.portLast := by
  dsimp only [State.onStream]
@[simp] theorem State.onStream_command (s : State) (n : Fin 16) (f : Stream → Stream) : (s.onStream n f).command = s.command := by
  dsimp only [State.onStream]
@[simp] theorem State.onStream_rejected (s : State) (n : Fin 16) (f : Stream → Stream) : (s.onStream n f).rejected = s.rejected := by
  dsimp only [State.onStream]
@[simp] theorem State.onStream_lastResult (s : State) (n : Fin 16) (f : Stream → Stream) : (s.onStream n f).lastResult = s.lastResult := by
  dsimp only [State.onStream]
@[simp] theorem State.onStream_commandArgument (s : State) (n : Fin 16) (f : Stream → Stream) : (s.onStream n f).commandArgument = s.commandArgument := by
  dsimp only [State.onStream]
@[simp] theorem State.onStream_events (s : State) (n : Fin 16) (f : Stream → Stream) : (s.onStream n f).events = s.events := by
  dsimp only [State.onStream]
@[simp] theorem State.onStream_eventEnable (s : State) (n : Fin 16) (f : Stream → Stream) : (s.onStream n f).eventEnable = s.eventEnable := by
  dsimp only [State.onStream]
@[simp] theorem State.onStream_streamEventEnable (s : State) (n : Fin 16) (f : Stream → Stream) : (s.onStream n f).streamEventEnable = s.streamEventEnable := by
  dsimp only [State.onStream]
@[simp] theorem State.onStream_capture (s : State) (n : Fin 16) (f : Stream → Stream) : (s.onStream n f).capture = s.capture := by
  dsimp only [State.onStream]
@[simp] theorem State.onStream_readData (s : State) (n : Fin 16) (f : Stream → Stream) : (s.onStream n f).readData = s.readData := by
  dsimp only [State.onStream]
@[simp] theorem State.onStream_hostWrite (s : State) (n : Fin 16) (f : Stream → Stream) : (s.onStream n f).hostWrite = s.hostWrite := by
  dsimp only [State.onStream]

/-! `mapStreams` changes streams. -/

@[simp] theorem State.mapStreams_pending (s : State) (f : Fin 16 → Stream → Stream) : (s.mapStreams f).pending = s.pending := by
  dsimp only [State.mapStreams]
@[simp] theorem State.mapStreams_free (s : State) (f : Fin 16 → Stream → Stream) : (s.mapStreams f).free = s.free := by
  dsimp only [State.mapStreams]
@[simp] theorem State.mapStreams_rstnLow (s : State) (f : Fin 16 → Stream → Stream) : (s.mapStreams f).rstnLow = s.rstnLow := by
  dsimp only [State.mapStreams]
@[simp] theorem State.mapStreams_tsync (s : State) (f : Fin 16 → Stream → Stream) : (s.mapStreams f).tsync = s.tsync := by
  dsimp only [State.mapStreams]
@[simp] theorem State.mapStreams_cueOut (s : State) (f : Fin 16 → Stream → Stream) : (s.mapStreams f).cueOut = s.cueOut := by
  dsimp only [State.mapStreams]
@[simp] theorem State.mapStreams_drive (s : State) (f : Fin 16 → Stream → Stream) : (s.mapStreams f).drive = s.drive := by
  dsimp only [State.mapStreams]
@[simp] theorem State.mapStreams_timer (s : State) (f : Fin 16 → Stream → Stream) : (s.mapStreams f).timer = s.timer := by
  dsimp only [State.mapStreams]
@[simp] theorem State.mapStreams_aligned (s : State) (f : Fin 16 → Stream → Stream) : (s.mapStreams f).aligned = s.aligned := by
  dsimp only [State.mapStreams]
@[simp] theorem State.mapStreams_index (s : State) (f : Fin 16 → Stream → Stream) : (s.mapStreams f).index = s.index := by
  dsimp only [State.mapStreams]
@[simp] theorem State.mapStreams_bootstrap (s : State) (f : Fin 16 → Stream → Stream) : (s.mapStreams f).bootstrap = s.bootstrap := by
  dsimp only [State.mapStreams]
@[simp] theorem State.mapStreams_frame (s : State) (f : Fin 16 → Stream → Stream) : (s.mapStreams f).frame = s.frame := by
  dsimp only [State.mapStreams]
@[simp] theorem State.mapStreams_slots (s : State) (f : Fin 16 → Stream → Stream) : (s.mapStreams f).slots = s.slots := by
  dsimp only [State.mapStreams]
@[simp] theorem State.mapStreams_vetoOwed (s : State) (f : Fin 16 → Stream → Stream) : (s.mapStreams f).vetoOwed = s.vetoOwed := by
  dsimp only [State.mapStreams]
@[simp] theorem State.mapStreams_membership (s : State) (f : Fin 16 → Stream → Stream) : (s.mapStreams f).membership = s.membership := by
  dsimp only [State.mapStreams]
@[simp] theorem State.mapStreams_refusalReason (s : State) (f : Fin 16 → Stream → Stream) : (s.mapStreams f).refusalReason = s.refusalReason := by
  dsimp only [State.mapStreams]
@[simp] theorem State.mapStreams_profileFault (s : State) (f : Fin 16 → Stream → Stream) : (s.mapStreams f).profileFault = s.profileFault := by
  dsimp only [State.mapStreams]
@[simp] theorem State.mapStreams_faultStream (s : State) (f : Fin 16 → Stream → Stream) : (s.mapStreams f).faultStream = s.faultStream := by
  dsimp only [State.mapStreams]
@[simp] theorem State.mapStreams_number (s : State) (f : Fin 16 → Stream → Stream) : (s.mapStreams f).number = s.number := by
  dsimp only [State.mapStreams]
@[simp] theorem State.mapStreams_cycle (s : State) (f : Fin 16 → Stream → Stream) : (s.mapStreams f).cycle = s.cycle := by
  dsimp only [State.mapStreams]
@[simp] theorem State.mapStreams_damageCount (s : State) (f : Fin 16 → Stream → Stream) : (s.mapStreams f).damageCount = s.damageCount := by
  dsimp only [State.mapStreams]
@[simp] theorem State.mapStreams_joinAttempts (s : State) (f : Fin 16 → Stream → Stream) : (s.mapStreams f).joinAttempts = s.joinAttempts := by
  dsimp only [State.mapStreams]
@[simp] theorem State.mapStreams_censusRun (s : State) (f : Fin 16 → Stream → Stream) : (s.mapStreams f).censusRun = s.censusRun := by
  dsimp only [State.mapStreams]
@[simp] theorem State.mapStreams_joinWord (s : State) (f : Fin 16 → Stream → Stream) : (s.mapStreams f).joinWord = s.joinWord := by
  dsimp only [State.mapStreams]
@[simp] theorem State.mapStreams_standing (s : State) (f : Fin 16 → Stream → Stream) : (s.mapStreams f).standing = s.standing := by
  dsimp only [State.mapStreams]
@[simp] theorem State.mapStreams_peers (s : State) (f : Fin 16 → Stream → Stream) : (s.mapStreams f).peers = s.peers := by
  dsimp only [State.mapStreams]
@[simp] theorem State.mapStreams_openQueue (s : State) (f : Fin 16 → Stream → Stream) : (s.mapStreams f).openQueue = s.openQueue := by
  dsimp only [State.mapStreams]
@[simp] theorem State.mapStreams_wins (s : State) (f : Fin 16 → Stream → Stream) : (s.mapStreams f).wins = s.wins := by
  dsimp only [State.mapStreams]
@[simp] theorem State.mapStreams_chosenBid (s : State) (f : Fin 16 → Stream → Stream) : (s.mapStreams f).chosenBid = s.chosenBid := by
  dsimp only [State.mapStreams]
@[simp] theorem State.mapStreams_bidDriven (s : State) (f : Fin 16 → Stream → Stream) : (s.mapStreams f).bidDriven = s.bidDriven := by
  dsimp only [State.mapStreams]
@[simp] theorem State.mapStreams_cuePending (s : State) (f : Fin 16 → Stream → Stream) : (s.mapStreams f).cuePending = s.cuePending := by
  dsimp only [State.mapStreams]
@[simp] theorem State.mapStreams_cueForward (s : State) (f : Fin 16 → Stream → Stream) : (s.mapStreams f).cueForward = s.cueForward := by
  dsimp only [State.mapStreams]
@[simp] theorem State.mapStreams_profileAddress (s : State) (f : Fin 16 → Stream → Stream) : (s.mapStreams f).profileAddress = s.profileAddress := by
  dsimp only [State.mapStreams]
@[simp] theorem State.mapStreams_fetched (s : State) (f : Fin 16 → Stream → Stream) : (s.mapStreams f).fetched = s.fetched := by
  dsimp only [State.mapStreams]
@[simp] theorem State.mapStreams_portServing (s : State) (f : Fin 16 → Stream → Stream) : (s.mapStreams f).portServing = s.portServing := by
  dsimp only [State.mapStreams]
@[simp] theorem State.mapStreams_portLast (s : State) (f : Fin 16 → Stream → Stream) : (s.mapStreams f).portLast = s.portLast := by
  dsimp only [State.mapStreams]
@[simp] theorem State.mapStreams_command (s : State) (f : Fin 16 → Stream → Stream) : (s.mapStreams f).command = s.command := by
  dsimp only [State.mapStreams]
@[simp] theorem State.mapStreams_rejected (s : State) (f : Fin 16 → Stream → Stream) : (s.mapStreams f).rejected = s.rejected := by
  dsimp only [State.mapStreams]
@[simp] theorem State.mapStreams_lastResult (s : State) (f : Fin 16 → Stream → Stream) : (s.mapStreams f).lastResult = s.lastResult := by
  dsimp only [State.mapStreams]
@[simp] theorem State.mapStreams_commandArgument (s : State) (f : Fin 16 → Stream → Stream) : (s.mapStreams f).commandArgument = s.commandArgument := by
  dsimp only [State.mapStreams]
@[simp] theorem State.mapStreams_events (s : State) (f : Fin 16 → Stream → Stream) : (s.mapStreams f).events = s.events := by
  dsimp only [State.mapStreams]
@[simp] theorem State.mapStreams_eventEnable (s : State) (f : Fin 16 → Stream → Stream) : (s.mapStreams f).eventEnable = s.eventEnable := by
  dsimp only [State.mapStreams]
@[simp] theorem State.mapStreams_streamEventEnable (s : State) (f : Fin 16 → Stream → Stream) : (s.mapStreams f).streamEventEnable = s.streamEventEnable := by
  dsimp only [State.mapStreams]
@[simp] theorem State.mapStreams_capture (s : State) (f : Fin 16 → Stream → Stream) : (s.mapStreams f).capture = s.capture := by
  dsimp only [State.mapStreams]
@[simp] theorem State.mapStreams_readData (s : State) (f : Fin 16 → Stream → Stream) : (s.mapStreams f).readData = s.readData := by
  dsimp only [State.mapStreams]
@[simp] theorem State.mapStreams_hostWrite (s : State) (f : Fin 16 → Stream → Stream) : (s.mapStreams f).hostWrite = s.hostWrite := by
  dsimp only [State.mapStreams]

/-! `cleanQueue` changes the open queue (R105). -/

@[simp] theorem State.cleanQueue_pending (s : State) : (s.cleanQueue).pending = s.pending := by
  dsimp only [State.cleanQueue]
@[simp] theorem State.cleanQueue_free (s : State) : (s.cleanQueue).free = s.free := by
  dsimp only [State.cleanQueue]
@[simp] theorem State.cleanQueue_rstnLow (s : State) : (s.cleanQueue).rstnLow = s.rstnLow := by
  dsimp only [State.cleanQueue]
@[simp] theorem State.cleanQueue_tsync (s : State) : (s.cleanQueue).tsync = s.tsync := by
  dsimp only [State.cleanQueue]
@[simp] theorem State.cleanQueue_cueOut (s : State) : (s.cleanQueue).cueOut = s.cueOut := by
  dsimp only [State.cleanQueue]
@[simp] theorem State.cleanQueue_drive (s : State) : (s.cleanQueue).drive = s.drive := by
  dsimp only [State.cleanQueue]
@[simp] theorem State.cleanQueue_timer (s : State) : (s.cleanQueue).timer = s.timer := by
  dsimp only [State.cleanQueue]
@[simp] theorem State.cleanQueue_aligned (s : State) : (s.cleanQueue).aligned = s.aligned := by
  dsimp only [State.cleanQueue]
@[simp] theorem State.cleanQueue_index (s : State) : (s.cleanQueue).index = s.index := by
  dsimp only [State.cleanQueue]
@[simp] theorem State.cleanQueue_bootstrap (s : State) : (s.cleanQueue).bootstrap = s.bootstrap := by
  dsimp only [State.cleanQueue]
@[simp] theorem State.cleanQueue_frame (s : State) : (s.cleanQueue).frame = s.frame := by
  dsimp only [State.cleanQueue]
@[simp] theorem State.cleanQueue_slots (s : State) : (s.cleanQueue).slots = s.slots := by
  dsimp only [State.cleanQueue]
@[simp] theorem State.cleanQueue_vetoOwed (s : State) : (s.cleanQueue).vetoOwed = s.vetoOwed := by
  dsimp only [State.cleanQueue]
@[simp] theorem State.cleanQueue_membership (s : State) : (s.cleanQueue).membership = s.membership := by
  dsimp only [State.cleanQueue]
@[simp] theorem State.cleanQueue_refusalReason (s : State) : (s.cleanQueue).refusalReason = s.refusalReason := by
  dsimp only [State.cleanQueue]
@[simp] theorem State.cleanQueue_profileFault (s : State) : (s.cleanQueue).profileFault = s.profileFault := by
  dsimp only [State.cleanQueue]
@[simp] theorem State.cleanQueue_faultStream (s : State) : (s.cleanQueue).faultStream = s.faultStream := by
  dsimp only [State.cleanQueue]
@[simp] theorem State.cleanQueue_number (s : State) : (s.cleanQueue).number = s.number := by
  dsimp only [State.cleanQueue]
@[simp] theorem State.cleanQueue_cycle (s : State) : (s.cleanQueue).cycle = s.cycle := by
  dsimp only [State.cleanQueue]
@[simp] theorem State.cleanQueue_damageCount (s : State) : (s.cleanQueue).damageCount = s.damageCount := by
  dsimp only [State.cleanQueue]
@[simp] theorem State.cleanQueue_joinAttempts (s : State) : (s.cleanQueue).joinAttempts = s.joinAttempts := by
  dsimp only [State.cleanQueue]
@[simp] theorem State.cleanQueue_censusRun (s : State) : (s.cleanQueue).censusRun = s.censusRun := by
  dsimp only [State.cleanQueue]
@[simp] theorem State.cleanQueue_joinWord (s : State) : (s.cleanQueue).joinWord = s.joinWord := by
  dsimp only [State.cleanQueue]
@[simp] theorem State.cleanQueue_standing (s : State) : (s.cleanQueue).standing = s.standing := by
  dsimp only [State.cleanQueue]
@[simp] theorem State.cleanQueue_peers (s : State) : (s.cleanQueue).peers = s.peers := by
  dsimp only [State.cleanQueue]
@[simp] theorem State.cleanQueue_wins (s : State) : (s.cleanQueue).wins = s.wins := by
  dsimp only [State.cleanQueue]
@[simp] theorem State.cleanQueue_chosenBid (s : State) : (s.cleanQueue).chosenBid = s.chosenBid := by
  dsimp only [State.cleanQueue]
@[simp] theorem State.cleanQueue_bidDriven (s : State) : (s.cleanQueue).bidDriven = s.bidDriven := by
  dsimp only [State.cleanQueue]
@[simp] theorem State.cleanQueue_streams (s : State) : (s.cleanQueue).streams = s.streams := by
  dsimp only [State.cleanQueue]
@[simp] theorem State.cleanQueue_cuePending (s : State) : (s.cleanQueue).cuePending = s.cuePending := by
  dsimp only [State.cleanQueue]
@[simp] theorem State.cleanQueue_cueForward (s : State) : (s.cleanQueue).cueForward = s.cueForward := by
  dsimp only [State.cleanQueue]
@[simp] theorem State.cleanQueue_profileAddress (s : State) : (s.cleanQueue).profileAddress = s.profileAddress := by
  dsimp only [State.cleanQueue]
@[simp] theorem State.cleanQueue_fetched (s : State) : (s.cleanQueue).fetched = s.fetched := by
  dsimp only [State.cleanQueue]
@[simp] theorem State.cleanQueue_portServing (s : State) : (s.cleanQueue).portServing = s.portServing := by
  dsimp only [State.cleanQueue]
@[simp] theorem State.cleanQueue_portLast (s : State) : (s.cleanQueue).portLast = s.portLast := by
  dsimp only [State.cleanQueue]
@[simp] theorem State.cleanQueue_command (s : State) : (s.cleanQueue).command = s.command := by
  dsimp only [State.cleanQueue]
@[simp] theorem State.cleanQueue_rejected (s : State) : (s.cleanQueue).rejected = s.rejected := by
  dsimp only [State.cleanQueue]
@[simp] theorem State.cleanQueue_lastResult (s : State) : (s.cleanQueue).lastResult = s.lastResult := by
  dsimp only [State.cleanQueue]
@[simp] theorem State.cleanQueue_commandArgument (s : State) : (s.cleanQueue).commandArgument = s.commandArgument := by
  dsimp only [State.cleanQueue]
@[simp] theorem State.cleanQueue_events (s : State) : (s.cleanQueue).events = s.events := by
  dsimp only [State.cleanQueue]
@[simp] theorem State.cleanQueue_eventEnable (s : State) : (s.cleanQueue).eventEnable = s.eventEnable := by
  dsimp only [State.cleanQueue]
@[simp] theorem State.cleanQueue_streamEventEnable (s : State) : (s.cleanQueue).streamEventEnable = s.streamEventEnable := by
  dsimp only [State.cleanQueue]
@[simp] theorem State.cleanQueue_capture (s : State) : (s.cleanQueue).capture = s.capture := by
  dsimp only [State.cleanQueue]
@[simp] theorem State.cleanQueue_readData (s : State) : (s.cleanQueue).readData = s.readData := by
  dsimp only [State.cleanQueue]
@[simp] theorem State.cleanQueue_hostWrite (s : State) : (s.cleanQueue).hostWrite = s.hostWrite := by
  dsimp only [State.cleanQueue]

/-! `mapReport` changes streams and the open queue (R34). -/

@[simp] theorem State.mapReport_pending (s : State) (closes : Fin 16 → Bool) (old : Vector Slot 24) : (s.mapReport closes old).pending = s.pending :=
  (State.cleanQueue_pending _).trans (State.mapStreams_pending _ _)
@[simp] theorem State.mapReport_free (s : State) (closes : Fin 16 → Bool) (old : Vector Slot 24) : (s.mapReport closes old).free = s.free :=
  (State.cleanQueue_free _).trans (State.mapStreams_free _ _)
@[simp] theorem State.mapReport_rstnLow (s : State) (closes : Fin 16 → Bool) (old : Vector Slot 24) : (s.mapReport closes old).rstnLow = s.rstnLow :=
  (State.cleanQueue_rstnLow _).trans (State.mapStreams_rstnLow _ _)
@[simp] theorem State.mapReport_tsync (s : State) (closes : Fin 16 → Bool) (old : Vector Slot 24) : (s.mapReport closes old).tsync = s.tsync :=
  (State.cleanQueue_tsync _).trans (State.mapStreams_tsync _ _)
@[simp] theorem State.mapReport_cueOut (s : State) (closes : Fin 16 → Bool) (old : Vector Slot 24) : (s.mapReport closes old).cueOut = s.cueOut :=
  (State.cleanQueue_cueOut _).trans (State.mapStreams_cueOut _ _)
@[simp] theorem State.mapReport_drive (s : State) (closes : Fin 16 → Bool) (old : Vector Slot 24) : (s.mapReport closes old).drive = s.drive :=
  (State.cleanQueue_drive _).trans (State.mapStreams_drive _ _)
@[simp] theorem State.mapReport_timer (s : State) (closes : Fin 16 → Bool) (old : Vector Slot 24) : (s.mapReport closes old).timer = s.timer :=
  (State.cleanQueue_timer _).trans (State.mapStreams_timer _ _)
@[simp] theorem State.mapReport_aligned (s : State) (closes : Fin 16 → Bool) (old : Vector Slot 24) : (s.mapReport closes old).aligned = s.aligned :=
  (State.cleanQueue_aligned _).trans (State.mapStreams_aligned _ _)
@[simp] theorem State.mapReport_index (s : State) (closes : Fin 16 → Bool) (old : Vector Slot 24) : (s.mapReport closes old).index = s.index :=
  (State.cleanQueue_index _).trans (State.mapStreams_index _ _)
@[simp] theorem State.mapReport_bootstrap (s : State) (closes : Fin 16 → Bool) (old : Vector Slot 24) : (s.mapReport closes old).bootstrap = s.bootstrap :=
  (State.cleanQueue_bootstrap _).trans (State.mapStreams_bootstrap _ _)
@[simp] theorem State.mapReport_frame (s : State) (closes : Fin 16 → Bool) (old : Vector Slot 24) : (s.mapReport closes old).frame = s.frame :=
  (State.cleanQueue_frame _).trans (State.mapStreams_frame _ _)
@[simp] theorem State.mapReport_slots (s : State) (closes : Fin 16 → Bool) (old : Vector Slot 24) : (s.mapReport closes old).slots = s.slots :=
  (State.cleanQueue_slots _).trans (State.mapStreams_slots _ _)
@[simp] theorem State.mapReport_vetoOwed (s : State) (closes : Fin 16 → Bool) (old : Vector Slot 24) : (s.mapReport closes old).vetoOwed = s.vetoOwed :=
  (State.cleanQueue_vetoOwed _).trans (State.mapStreams_vetoOwed _ _)
@[simp] theorem State.mapReport_membership (s : State) (closes : Fin 16 → Bool) (old : Vector Slot 24) : (s.mapReport closes old).membership = s.membership :=
  (State.cleanQueue_membership _).trans (State.mapStreams_membership _ _)
@[simp] theorem State.mapReport_refusalReason (s : State) (closes : Fin 16 → Bool) (old : Vector Slot 24) : (s.mapReport closes old).refusalReason = s.refusalReason :=
  (State.cleanQueue_refusalReason _).trans (State.mapStreams_refusalReason _ _)
@[simp] theorem State.mapReport_profileFault (s : State) (closes : Fin 16 → Bool) (old : Vector Slot 24) : (s.mapReport closes old).profileFault = s.profileFault :=
  (State.cleanQueue_profileFault _).trans (State.mapStreams_profileFault _ _)
@[simp] theorem State.mapReport_faultStream (s : State) (closes : Fin 16 → Bool) (old : Vector Slot 24) : (s.mapReport closes old).faultStream = s.faultStream :=
  (State.cleanQueue_faultStream _).trans (State.mapStreams_faultStream _ _)
@[simp] theorem State.mapReport_number (s : State) (closes : Fin 16 → Bool) (old : Vector Slot 24) : (s.mapReport closes old).number = s.number :=
  (State.cleanQueue_number _).trans (State.mapStreams_number _ _)
@[simp] theorem State.mapReport_cycle (s : State) (closes : Fin 16 → Bool) (old : Vector Slot 24) : (s.mapReport closes old).cycle = s.cycle :=
  (State.cleanQueue_cycle _).trans (State.mapStreams_cycle _ _)
@[simp] theorem State.mapReport_damageCount (s : State) (closes : Fin 16 → Bool) (old : Vector Slot 24) : (s.mapReport closes old).damageCount = s.damageCount :=
  (State.cleanQueue_damageCount _).trans (State.mapStreams_damageCount _ _)
@[simp] theorem State.mapReport_joinAttempts (s : State) (closes : Fin 16 → Bool) (old : Vector Slot 24) : (s.mapReport closes old).joinAttempts = s.joinAttempts :=
  (State.cleanQueue_joinAttempts _).trans (State.mapStreams_joinAttempts _ _)
@[simp] theorem State.mapReport_censusRun (s : State) (closes : Fin 16 → Bool) (old : Vector Slot 24) : (s.mapReport closes old).censusRun = s.censusRun :=
  (State.cleanQueue_censusRun _).trans (State.mapStreams_censusRun _ _)
@[simp] theorem State.mapReport_joinWord (s : State) (closes : Fin 16 → Bool) (old : Vector Slot 24) : (s.mapReport closes old).joinWord = s.joinWord :=
  (State.cleanQueue_joinWord _).trans (State.mapStreams_joinWord _ _)
@[simp] theorem State.mapReport_standing (s : State) (closes : Fin 16 → Bool) (old : Vector Slot 24) : (s.mapReport closes old).standing = s.standing :=
  (State.cleanQueue_standing _).trans (State.mapStreams_standing _ _)
@[simp] theorem State.mapReport_peers (s : State) (closes : Fin 16 → Bool) (old : Vector Slot 24) : (s.mapReport closes old).peers = s.peers :=
  (State.cleanQueue_peers _).trans (State.mapStreams_peers _ _)
@[simp] theorem State.mapReport_wins (s : State) (closes : Fin 16 → Bool) (old : Vector Slot 24) : (s.mapReport closes old).wins = s.wins :=
  (State.cleanQueue_wins _).trans (State.mapStreams_wins _ _)
@[simp] theorem State.mapReport_chosenBid (s : State) (closes : Fin 16 → Bool) (old : Vector Slot 24) : (s.mapReport closes old).chosenBid = s.chosenBid :=
  (State.cleanQueue_chosenBid _).trans (State.mapStreams_chosenBid _ _)
@[simp] theorem State.mapReport_bidDriven (s : State) (closes : Fin 16 → Bool) (old : Vector Slot 24) : (s.mapReport closes old).bidDriven = s.bidDriven :=
  (State.cleanQueue_bidDriven _).trans (State.mapStreams_bidDriven _ _)
@[simp] theorem State.mapReport_cuePending (s : State) (closes : Fin 16 → Bool) (old : Vector Slot 24) : (s.mapReport closes old).cuePending = s.cuePending :=
  (State.cleanQueue_cuePending _).trans (State.mapStreams_cuePending _ _)
@[simp] theorem State.mapReport_cueForward (s : State) (closes : Fin 16 → Bool) (old : Vector Slot 24) : (s.mapReport closes old).cueForward = s.cueForward :=
  (State.cleanQueue_cueForward _).trans (State.mapStreams_cueForward _ _)
@[simp] theorem State.mapReport_profileAddress (s : State) (closes : Fin 16 → Bool) (old : Vector Slot 24) : (s.mapReport closes old).profileAddress = s.profileAddress :=
  (State.cleanQueue_profileAddress _).trans (State.mapStreams_profileAddress _ _)
@[simp] theorem State.mapReport_fetched (s : State) (closes : Fin 16 → Bool) (old : Vector Slot 24) : (s.mapReport closes old).fetched = s.fetched :=
  (State.cleanQueue_fetched _).trans (State.mapStreams_fetched _ _)
@[simp] theorem State.mapReport_portServing (s : State) (closes : Fin 16 → Bool) (old : Vector Slot 24) : (s.mapReport closes old).portServing = s.portServing :=
  (State.cleanQueue_portServing _).trans (State.mapStreams_portServing _ _)
@[simp] theorem State.mapReport_portLast (s : State) (closes : Fin 16 → Bool) (old : Vector Slot 24) : (s.mapReport closes old).portLast = s.portLast :=
  (State.cleanQueue_portLast _).trans (State.mapStreams_portLast _ _)
@[simp] theorem State.mapReport_command (s : State) (closes : Fin 16 → Bool) (old : Vector Slot 24) : (s.mapReport closes old).command = s.command :=
  (State.cleanQueue_command _).trans (State.mapStreams_command _ _)
@[simp] theorem State.mapReport_rejected (s : State) (closes : Fin 16 → Bool) (old : Vector Slot 24) : (s.mapReport closes old).rejected = s.rejected :=
  (State.cleanQueue_rejected _).trans (State.mapStreams_rejected _ _)
@[simp] theorem State.mapReport_lastResult (s : State) (closes : Fin 16 → Bool) (old : Vector Slot 24) : (s.mapReport closes old).lastResult = s.lastResult :=
  (State.cleanQueue_lastResult _).trans (State.mapStreams_lastResult _ _)
@[simp] theorem State.mapReport_commandArgument (s : State) (closes : Fin 16 → Bool) (old : Vector Slot 24) : (s.mapReport closes old).commandArgument = s.commandArgument :=
  (State.cleanQueue_commandArgument _).trans (State.mapStreams_commandArgument _ _)
@[simp] theorem State.mapReport_events (s : State) (closes : Fin 16 → Bool) (old : Vector Slot 24) : (s.mapReport closes old).events = s.events :=
  (State.cleanQueue_events _).trans (State.mapStreams_events _ _)
@[simp] theorem State.mapReport_eventEnable (s : State) (closes : Fin 16 → Bool) (old : Vector Slot 24) : (s.mapReport closes old).eventEnable = s.eventEnable :=
  (State.cleanQueue_eventEnable _).trans (State.mapStreams_eventEnable _ _)
@[simp] theorem State.mapReport_streamEventEnable (s : State) (closes : Fin 16 → Bool) (old : Vector Slot 24) : (s.mapReport closes old).streamEventEnable = s.streamEventEnable :=
  (State.cleanQueue_streamEventEnable _).trans (State.mapStreams_streamEventEnable _ _)
@[simp] theorem State.mapReport_capture (s : State) (closes : Fin 16 → Bool) (old : Vector Slot 24) : (s.mapReport closes old).capture = s.capture :=
  (State.cleanQueue_capture _).trans (State.mapStreams_capture _ _)
@[simp] theorem State.mapReport_readData (s : State) (closes : Fin 16 → Bool) (old : Vector Slot 24) : (s.mapReport closes old).readData = s.readData :=
  (State.cleanQueue_readData _).trans (State.mapStreams_readData _ _)
@[simp] theorem State.mapReport_hostWrite (s : State) (closes : Fin 16 → Bool) (old : Vector Slot 24) : (s.mapReport closes old).hostWrite = s.hostWrite :=
  (State.cleanQueue_hostWrite _).trans (State.mapStreams_hostWrite _ _)

/-! `refreshIntent` changes the map, and only its intents (R46, R49). -/

@[simp] theorem State.refreshIntent_pending (s : State) : (s.refreshIntent).pending = s.pending := by
  dsimp only [State.refreshIntent]
@[simp] theorem State.refreshIntent_free (s : State) : (s.refreshIntent).free = s.free := by
  dsimp only [State.refreshIntent]
@[simp] theorem State.refreshIntent_rstnLow (s : State) : (s.refreshIntent).rstnLow = s.rstnLow := by
  dsimp only [State.refreshIntent]
@[simp] theorem State.refreshIntent_tsync (s : State) : (s.refreshIntent).tsync = s.tsync := by
  dsimp only [State.refreshIntent]
@[simp] theorem State.refreshIntent_cueOut (s : State) : (s.refreshIntent).cueOut = s.cueOut := by
  dsimp only [State.refreshIntent]
@[simp] theorem State.refreshIntent_drive (s : State) : (s.refreshIntent).drive = s.drive := by
  dsimp only [State.refreshIntent]
@[simp] theorem State.refreshIntent_timer (s : State) : (s.refreshIntent).timer = s.timer := by
  dsimp only [State.refreshIntent]
@[simp] theorem State.refreshIntent_aligned (s : State) : (s.refreshIntent).aligned = s.aligned := by
  dsimp only [State.refreshIntent]
@[simp] theorem State.refreshIntent_index (s : State) : (s.refreshIntent).index = s.index := by
  dsimp only [State.refreshIntent]
@[simp] theorem State.refreshIntent_bootstrap (s : State) : (s.refreshIntent).bootstrap = s.bootstrap := by
  dsimp only [State.refreshIntent]
@[simp] theorem State.refreshIntent_frame (s : State) : (s.refreshIntent).frame = s.frame := by
  dsimp only [State.refreshIntent]
@[simp] theorem State.refreshIntent_vetoOwed (s : State) : (s.refreshIntent).vetoOwed = s.vetoOwed := by
  dsimp only [State.refreshIntent]
@[simp] theorem State.refreshIntent_membership (s : State) : (s.refreshIntent).membership = s.membership := by
  dsimp only [State.refreshIntent]
@[simp] theorem State.refreshIntent_refusalReason (s : State) : (s.refreshIntent).refusalReason = s.refusalReason := by
  dsimp only [State.refreshIntent]
@[simp] theorem State.refreshIntent_profileFault (s : State) : (s.refreshIntent).profileFault = s.profileFault := by
  dsimp only [State.refreshIntent]
@[simp] theorem State.refreshIntent_faultStream (s : State) : (s.refreshIntent).faultStream = s.faultStream := by
  dsimp only [State.refreshIntent]
@[simp] theorem State.refreshIntent_number (s : State) : (s.refreshIntent).number = s.number := by
  dsimp only [State.refreshIntent]
@[simp] theorem State.refreshIntent_cycle (s : State) : (s.refreshIntent).cycle = s.cycle := by
  dsimp only [State.refreshIntent]
@[simp] theorem State.refreshIntent_damageCount (s : State) : (s.refreshIntent).damageCount = s.damageCount := by
  dsimp only [State.refreshIntent]
@[simp] theorem State.refreshIntent_joinAttempts (s : State) : (s.refreshIntent).joinAttempts = s.joinAttempts := by
  dsimp only [State.refreshIntent]
@[simp] theorem State.refreshIntent_censusRun (s : State) : (s.refreshIntent).censusRun = s.censusRun := by
  dsimp only [State.refreshIntent]
@[simp] theorem State.refreshIntent_joinWord (s : State) : (s.refreshIntent).joinWord = s.joinWord := by
  dsimp only [State.refreshIntent]
@[simp] theorem State.refreshIntent_standing (s : State) : (s.refreshIntent).standing = s.standing := by
  dsimp only [State.refreshIntent]
@[simp] theorem State.refreshIntent_peers (s : State) : (s.refreshIntent).peers = s.peers := by
  dsimp only [State.refreshIntent]
@[simp] theorem State.refreshIntent_openQueue (s : State) : (s.refreshIntent).openQueue = s.openQueue := by
  dsimp only [State.refreshIntent]
@[simp] theorem State.refreshIntent_wins (s : State) : (s.refreshIntent).wins = s.wins := by
  dsimp only [State.refreshIntent]
@[simp] theorem State.refreshIntent_chosenBid (s : State) : (s.refreshIntent).chosenBid = s.chosenBid := by
  dsimp only [State.refreshIntent]
@[simp] theorem State.refreshIntent_bidDriven (s : State) : (s.refreshIntent).bidDriven = s.bidDriven := by
  dsimp only [State.refreshIntent]
@[simp] theorem State.refreshIntent_streams (s : State) : (s.refreshIntent).streams = s.streams := by
  dsimp only [State.refreshIntent]
@[simp] theorem State.refreshIntent_cuePending (s : State) : (s.refreshIntent).cuePending = s.cuePending := by
  dsimp only [State.refreshIntent]
@[simp] theorem State.refreshIntent_cueForward (s : State) : (s.refreshIntent).cueForward = s.cueForward := by
  dsimp only [State.refreshIntent]
@[simp] theorem State.refreshIntent_profileAddress (s : State) : (s.refreshIntent).profileAddress = s.profileAddress := by
  dsimp only [State.refreshIntent]
@[simp] theorem State.refreshIntent_fetched (s : State) : (s.refreshIntent).fetched = s.fetched := by
  dsimp only [State.refreshIntent]
@[simp] theorem State.refreshIntent_portServing (s : State) : (s.refreshIntent).portServing = s.portServing := by
  dsimp only [State.refreshIntent]
@[simp] theorem State.refreshIntent_portLast (s : State) : (s.refreshIntent).portLast = s.portLast := by
  dsimp only [State.refreshIntent]
@[simp] theorem State.refreshIntent_command (s : State) : (s.refreshIntent).command = s.command := by
  dsimp only [State.refreshIntent]
@[simp] theorem State.refreshIntent_rejected (s : State) : (s.refreshIntent).rejected = s.rejected := by
  dsimp only [State.refreshIntent]
@[simp] theorem State.refreshIntent_lastResult (s : State) : (s.refreshIntent).lastResult = s.lastResult := by
  dsimp only [State.refreshIntent]
@[simp] theorem State.refreshIntent_commandArgument (s : State) : (s.refreshIntent).commandArgument = s.commandArgument := by
  dsimp only [State.refreshIntent]
@[simp] theorem State.refreshIntent_events (s : State) : (s.refreshIntent).events = s.events := by
  dsimp only [State.refreshIntent]
@[simp] theorem State.refreshIntent_eventEnable (s : State) : (s.refreshIntent).eventEnable = s.eventEnable := by
  dsimp only [State.refreshIntent]
@[simp] theorem State.refreshIntent_streamEventEnable (s : State) : (s.refreshIntent).streamEventEnable = s.streamEventEnable := by
  dsimp only [State.refreshIntent]
@[simp] theorem State.refreshIntent_capture (s : State) : (s.refreshIntent).capture = s.capture := by
  dsimp only [State.refreshIntent]
@[simp] theorem State.refreshIntent_readData (s : State) : (s.refreshIntent).readData = s.readData := by
  dsimp only [State.refreshIntent]
@[simp] theorem State.refreshIntent_hostWrite (s : State) : (s.refreshIntent).hostWrite = s.hostWrite := by
  dsimp only [State.refreshIntent]

/-! `settleAll` changes the map (R38, R39). -/

@[simp] theorem State.settleAll_pending (s : State) (veto : Bool) : (s.settleAll veto).pending = s.pending := by
  dsimp only [State.settleAll]
@[simp] theorem State.settleAll_free (s : State) (veto : Bool) : (s.settleAll veto).free = s.free := by
  dsimp only [State.settleAll]
@[simp] theorem State.settleAll_rstnLow (s : State) (veto : Bool) : (s.settleAll veto).rstnLow = s.rstnLow := by
  dsimp only [State.settleAll]
@[simp] theorem State.settleAll_tsync (s : State) (veto : Bool) : (s.settleAll veto).tsync = s.tsync := by
  dsimp only [State.settleAll]
@[simp] theorem State.settleAll_cueOut (s : State) (veto : Bool) : (s.settleAll veto).cueOut = s.cueOut := by
  dsimp only [State.settleAll]
@[simp] theorem State.settleAll_drive (s : State) (veto : Bool) : (s.settleAll veto).drive = s.drive := by
  dsimp only [State.settleAll]
@[simp] theorem State.settleAll_timer (s : State) (veto : Bool) : (s.settleAll veto).timer = s.timer := by
  dsimp only [State.settleAll]
@[simp] theorem State.settleAll_aligned (s : State) (veto : Bool) : (s.settleAll veto).aligned = s.aligned := by
  dsimp only [State.settleAll]
@[simp] theorem State.settleAll_index (s : State) (veto : Bool) : (s.settleAll veto).index = s.index := by
  dsimp only [State.settleAll]
@[simp] theorem State.settleAll_bootstrap (s : State) (veto : Bool) : (s.settleAll veto).bootstrap = s.bootstrap := by
  dsimp only [State.settleAll]
@[simp] theorem State.settleAll_frame (s : State) (veto : Bool) : (s.settleAll veto).frame = s.frame := by
  dsimp only [State.settleAll]
@[simp] theorem State.settleAll_vetoOwed (s : State) (veto : Bool) : (s.settleAll veto).vetoOwed = s.vetoOwed := by
  dsimp only [State.settleAll]
@[simp] theorem State.settleAll_membership (s : State) (veto : Bool) : (s.settleAll veto).membership = s.membership := by
  dsimp only [State.settleAll]
@[simp] theorem State.settleAll_refusalReason (s : State) (veto : Bool) : (s.settleAll veto).refusalReason = s.refusalReason := by
  dsimp only [State.settleAll]
@[simp] theorem State.settleAll_profileFault (s : State) (veto : Bool) : (s.settleAll veto).profileFault = s.profileFault := by
  dsimp only [State.settleAll]
@[simp] theorem State.settleAll_faultStream (s : State) (veto : Bool) : (s.settleAll veto).faultStream = s.faultStream := by
  dsimp only [State.settleAll]
@[simp] theorem State.settleAll_number (s : State) (veto : Bool) : (s.settleAll veto).number = s.number := by
  dsimp only [State.settleAll]
@[simp] theorem State.settleAll_cycle (s : State) (veto : Bool) : (s.settleAll veto).cycle = s.cycle := by
  dsimp only [State.settleAll]
@[simp] theorem State.settleAll_damageCount (s : State) (veto : Bool) : (s.settleAll veto).damageCount = s.damageCount := by
  dsimp only [State.settleAll]
@[simp] theorem State.settleAll_joinAttempts (s : State) (veto : Bool) : (s.settleAll veto).joinAttempts = s.joinAttempts := by
  dsimp only [State.settleAll]
@[simp] theorem State.settleAll_censusRun (s : State) (veto : Bool) : (s.settleAll veto).censusRun = s.censusRun := by
  dsimp only [State.settleAll]
@[simp] theorem State.settleAll_joinWord (s : State) (veto : Bool) : (s.settleAll veto).joinWord = s.joinWord := by
  dsimp only [State.settleAll]
@[simp] theorem State.settleAll_standing (s : State) (veto : Bool) : (s.settleAll veto).standing = s.standing := by
  dsimp only [State.settleAll]
@[simp] theorem State.settleAll_peers (s : State) (veto : Bool) : (s.settleAll veto).peers = s.peers := by
  dsimp only [State.settleAll]
@[simp] theorem State.settleAll_openQueue (s : State) (veto : Bool) : (s.settleAll veto).openQueue = s.openQueue := by
  dsimp only [State.settleAll]
@[simp] theorem State.settleAll_wins (s : State) (veto : Bool) : (s.settleAll veto).wins = s.wins := by
  dsimp only [State.settleAll]
@[simp] theorem State.settleAll_chosenBid (s : State) (veto : Bool) : (s.settleAll veto).chosenBid = s.chosenBid := by
  dsimp only [State.settleAll]
@[simp] theorem State.settleAll_bidDriven (s : State) (veto : Bool) : (s.settleAll veto).bidDriven = s.bidDriven := by
  dsimp only [State.settleAll]
@[simp] theorem State.settleAll_streams (s : State) (veto : Bool) : (s.settleAll veto).streams = s.streams := by
  dsimp only [State.settleAll]
@[simp] theorem State.settleAll_cuePending (s : State) (veto : Bool) : (s.settleAll veto).cuePending = s.cuePending := by
  dsimp only [State.settleAll]
@[simp] theorem State.settleAll_cueForward (s : State) (veto : Bool) : (s.settleAll veto).cueForward = s.cueForward := by
  dsimp only [State.settleAll]
@[simp] theorem State.settleAll_profileAddress (s : State) (veto : Bool) : (s.settleAll veto).profileAddress = s.profileAddress := by
  dsimp only [State.settleAll]
@[simp] theorem State.settleAll_fetched (s : State) (veto : Bool) : (s.settleAll veto).fetched = s.fetched := by
  dsimp only [State.settleAll]
@[simp] theorem State.settleAll_portServing (s : State) (veto : Bool) : (s.settleAll veto).portServing = s.portServing := by
  dsimp only [State.settleAll]
@[simp] theorem State.settleAll_portLast (s : State) (veto : Bool) : (s.settleAll veto).portLast = s.portLast := by
  dsimp only [State.settleAll]
@[simp] theorem State.settleAll_command (s : State) (veto : Bool) : (s.settleAll veto).command = s.command := by
  dsimp only [State.settleAll]
@[simp] theorem State.settleAll_rejected (s : State) (veto : Bool) : (s.settleAll veto).rejected = s.rejected := by
  dsimp only [State.settleAll]
@[simp] theorem State.settleAll_lastResult (s : State) (veto : Bool) : (s.settleAll veto).lastResult = s.lastResult := by
  dsimp only [State.settleAll]
@[simp] theorem State.settleAll_commandArgument (s : State) (veto : Bool) : (s.settleAll veto).commandArgument = s.commandArgument := by
  dsimp only [State.settleAll]
@[simp] theorem State.settleAll_events (s : State) (veto : Bool) : (s.settleAll veto).events = s.events := by
  dsimp only [State.settleAll]
@[simp] theorem State.settleAll_eventEnable (s : State) (veto : Bool) : (s.settleAll veto).eventEnable = s.eventEnable := by
  dsimp only [State.settleAll]
@[simp] theorem State.settleAll_streamEventEnable (s : State) (veto : Bool) : (s.settleAll veto).streamEventEnable = s.streamEventEnable := by
  dsimp only [State.settleAll]
@[simp] theorem State.settleAll_capture (s : State) (veto : Bool) : (s.settleAll veto).capture = s.capture := by
  dsimp only [State.settleAll]
@[simp] theorem State.settleAll_readData (s : State) (veto : Bool) : (s.settleAll veto).readData = s.readData := by
  dsimp only [State.settleAll]
@[simp] theorem State.settleAll_hostWrite (s : State) (veto : Bool) : (s.settleAll veto).hostWrite = s.hostWrite := by
  dsimp only [State.settleAll]

/-! `applyReleases` changes the map (R44). -/

@[simp] theorem State.applyReleases_pending (s : State) (bits : BitVec 24) : (s.applyReleases bits).pending = s.pending := by
  dsimp only [State.applyReleases]
@[simp] theorem State.applyReleases_free (s : State) (bits : BitVec 24) : (s.applyReleases bits).free = s.free := by
  dsimp only [State.applyReleases]
@[simp] theorem State.applyReleases_rstnLow (s : State) (bits : BitVec 24) : (s.applyReleases bits).rstnLow = s.rstnLow := by
  dsimp only [State.applyReleases]
@[simp] theorem State.applyReleases_tsync (s : State) (bits : BitVec 24) : (s.applyReleases bits).tsync = s.tsync := by
  dsimp only [State.applyReleases]
@[simp] theorem State.applyReleases_cueOut (s : State) (bits : BitVec 24) : (s.applyReleases bits).cueOut = s.cueOut := by
  dsimp only [State.applyReleases]
@[simp] theorem State.applyReleases_drive (s : State) (bits : BitVec 24) : (s.applyReleases bits).drive = s.drive := by
  dsimp only [State.applyReleases]
@[simp] theorem State.applyReleases_timer (s : State) (bits : BitVec 24) : (s.applyReleases bits).timer = s.timer := by
  dsimp only [State.applyReleases]
@[simp] theorem State.applyReleases_aligned (s : State) (bits : BitVec 24) : (s.applyReleases bits).aligned = s.aligned := by
  dsimp only [State.applyReleases]
@[simp] theorem State.applyReleases_index (s : State) (bits : BitVec 24) : (s.applyReleases bits).index = s.index := by
  dsimp only [State.applyReleases]
@[simp] theorem State.applyReleases_bootstrap (s : State) (bits : BitVec 24) : (s.applyReleases bits).bootstrap = s.bootstrap := by
  dsimp only [State.applyReleases]
@[simp] theorem State.applyReleases_frame (s : State) (bits : BitVec 24) : (s.applyReleases bits).frame = s.frame := by
  dsimp only [State.applyReleases]
@[simp] theorem State.applyReleases_vetoOwed (s : State) (bits : BitVec 24) : (s.applyReleases bits).vetoOwed = s.vetoOwed := by
  dsimp only [State.applyReleases]
@[simp] theorem State.applyReleases_membership (s : State) (bits : BitVec 24) : (s.applyReleases bits).membership = s.membership := by
  dsimp only [State.applyReleases]
@[simp] theorem State.applyReleases_refusalReason (s : State) (bits : BitVec 24) : (s.applyReleases bits).refusalReason = s.refusalReason := by
  dsimp only [State.applyReleases]
@[simp] theorem State.applyReleases_profileFault (s : State) (bits : BitVec 24) : (s.applyReleases bits).profileFault = s.profileFault := by
  dsimp only [State.applyReleases]
@[simp] theorem State.applyReleases_faultStream (s : State) (bits : BitVec 24) : (s.applyReleases bits).faultStream = s.faultStream := by
  dsimp only [State.applyReleases]
@[simp] theorem State.applyReleases_number (s : State) (bits : BitVec 24) : (s.applyReleases bits).number = s.number := by
  dsimp only [State.applyReleases]
@[simp] theorem State.applyReleases_cycle (s : State) (bits : BitVec 24) : (s.applyReleases bits).cycle = s.cycle := by
  dsimp only [State.applyReleases]
@[simp] theorem State.applyReleases_damageCount (s : State) (bits : BitVec 24) : (s.applyReleases bits).damageCount = s.damageCount := by
  dsimp only [State.applyReleases]
@[simp] theorem State.applyReleases_joinAttempts (s : State) (bits : BitVec 24) : (s.applyReleases bits).joinAttempts = s.joinAttempts := by
  dsimp only [State.applyReleases]
@[simp] theorem State.applyReleases_censusRun (s : State) (bits : BitVec 24) : (s.applyReleases bits).censusRun = s.censusRun := by
  dsimp only [State.applyReleases]
@[simp] theorem State.applyReleases_joinWord (s : State) (bits : BitVec 24) : (s.applyReleases bits).joinWord = s.joinWord := by
  dsimp only [State.applyReleases]
@[simp] theorem State.applyReleases_standing (s : State) (bits : BitVec 24) : (s.applyReleases bits).standing = s.standing := by
  dsimp only [State.applyReleases]
@[simp] theorem State.applyReleases_peers (s : State) (bits : BitVec 24) : (s.applyReleases bits).peers = s.peers := by
  dsimp only [State.applyReleases]
@[simp] theorem State.applyReleases_openQueue (s : State) (bits : BitVec 24) : (s.applyReleases bits).openQueue = s.openQueue := by
  dsimp only [State.applyReleases]
@[simp] theorem State.applyReleases_wins (s : State) (bits : BitVec 24) : (s.applyReleases bits).wins = s.wins := by
  dsimp only [State.applyReleases]
@[simp] theorem State.applyReleases_chosenBid (s : State) (bits : BitVec 24) : (s.applyReleases bits).chosenBid = s.chosenBid := by
  dsimp only [State.applyReleases]
@[simp] theorem State.applyReleases_bidDriven (s : State) (bits : BitVec 24) : (s.applyReleases bits).bidDriven = s.bidDriven := by
  dsimp only [State.applyReleases]
@[simp] theorem State.applyReleases_streams (s : State) (bits : BitVec 24) : (s.applyReleases bits).streams = s.streams := by
  dsimp only [State.applyReleases]
@[simp] theorem State.applyReleases_cuePending (s : State) (bits : BitVec 24) : (s.applyReleases bits).cuePending = s.cuePending := by
  dsimp only [State.applyReleases]
@[simp] theorem State.applyReleases_cueForward (s : State) (bits : BitVec 24) : (s.applyReleases bits).cueForward = s.cueForward := by
  dsimp only [State.applyReleases]
@[simp] theorem State.applyReleases_profileAddress (s : State) (bits : BitVec 24) : (s.applyReleases bits).profileAddress = s.profileAddress := by
  dsimp only [State.applyReleases]
@[simp] theorem State.applyReleases_fetched (s : State) (bits : BitVec 24) : (s.applyReleases bits).fetched = s.fetched := by
  dsimp only [State.applyReleases]
@[simp] theorem State.applyReleases_portServing (s : State) (bits : BitVec 24) : (s.applyReleases bits).portServing = s.portServing := by
  dsimp only [State.applyReleases]
@[simp] theorem State.applyReleases_portLast (s : State) (bits : BitVec 24) : (s.applyReleases bits).portLast = s.portLast := by
  dsimp only [State.applyReleases]
@[simp] theorem State.applyReleases_command (s : State) (bits : BitVec 24) : (s.applyReleases bits).command = s.command := by
  dsimp only [State.applyReleases]
@[simp] theorem State.applyReleases_rejected (s : State) (bits : BitVec 24) : (s.applyReleases bits).rejected = s.rejected := by
  dsimp only [State.applyReleases]
@[simp] theorem State.applyReleases_lastResult (s : State) (bits : BitVec 24) : (s.applyReleases bits).lastResult = s.lastResult := by
  dsimp only [State.applyReleases]
@[simp] theorem State.applyReleases_commandArgument (s : State) (bits : BitVec 24) : (s.applyReleases bits).commandArgument = s.commandArgument := by
  dsimp only [State.applyReleases]
@[simp] theorem State.applyReleases_events (s : State) (bits : BitVec 24) : (s.applyReleases bits).events = s.events := by
  dsimp only [State.applyReleases]
@[simp] theorem State.applyReleases_eventEnable (s : State) (bits : BitVec 24) : (s.applyReleases bits).eventEnable = s.eventEnable := by
  dsimp only [State.applyReleases]
@[simp] theorem State.applyReleases_streamEventEnable (s : State) (bits : BitVec 24) : (s.applyReleases bits).streamEventEnable = s.streamEventEnable := by
  dsimp only [State.applyReleases]
@[simp] theorem State.applyReleases_capture (s : State) (bits : BitVec 24) : (s.applyReleases bits).capture = s.capture := by
  dsimp only [State.applyReleases]
@[simp] theorem State.applyReleases_readData (s : State) (bits : BitVec 24) : (s.applyReleases bits).readData = s.readData := by
  dsimp only [State.applyReleases]
@[simp] theorem State.applyReleases_hostWrite (s : State) (bits : BitVec 24) : (s.applyReleases bits).hostWrite = s.hostWrite := by
  dsimp only [State.applyReleases]

/-! `unsettleAll` changes the map (R63). -/

@[simp] theorem State.unsettleAll_pending (s : State) : (s.unsettleAll).pending = s.pending := by
  dsimp only [State.unsettleAll]
@[simp] theorem State.unsettleAll_free (s : State) : (s.unsettleAll).free = s.free := by
  dsimp only [State.unsettleAll]
@[simp] theorem State.unsettleAll_rstnLow (s : State) : (s.unsettleAll).rstnLow = s.rstnLow := by
  dsimp only [State.unsettleAll]
@[simp] theorem State.unsettleAll_tsync (s : State) : (s.unsettleAll).tsync = s.tsync := by
  dsimp only [State.unsettleAll]
@[simp] theorem State.unsettleAll_cueOut (s : State) : (s.unsettleAll).cueOut = s.cueOut := by
  dsimp only [State.unsettleAll]
@[simp] theorem State.unsettleAll_drive (s : State) : (s.unsettleAll).drive = s.drive := by
  dsimp only [State.unsettleAll]
@[simp] theorem State.unsettleAll_timer (s : State) : (s.unsettleAll).timer = s.timer := by
  dsimp only [State.unsettleAll]
@[simp] theorem State.unsettleAll_aligned (s : State) : (s.unsettleAll).aligned = s.aligned := by
  dsimp only [State.unsettleAll]
@[simp] theorem State.unsettleAll_index (s : State) : (s.unsettleAll).index = s.index := by
  dsimp only [State.unsettleAll]
@[simp] theorem State.unsettleAll_bootstrap (s : State) : (s.unsettleAll).bootstrap = s.bootstrap := by
  dsimp only [State.unsettleAll]
@[simp] theorem State.unsettleAll_frame (s : State) : (s.unsettleAll).frame = s.frame := by
  dsimp only [State.unsettleAll]
@[simp] theorem State.unsettleAll_vetoOwed (s : State) : (s.unsettleAll).vetoOwed = s.vetoOwed := by
  dsimp only [State.unsettleAll]
@[simp] theorem State.unsettleAll_membership (s : State) : (s.unsettleAll).membership = s.membership := by
  dsimp only [State.unsettleAll]
@[simp] theorem State.unsettleAll_refusalReason (s : State) : (s.unsettleAll).refusalReason = s.refusalReason := by
  dsimp only [State.unsettleAll]
@[simp] theorem State.unsettleAll_profileFault (s : State) : (s.unsettleAll).profileFault = s.profileFault := by
  dsimp only [State.unsettleAll]
@[simp] theorem State.unsettleAll_faultStream (s : State) : (s.unsettleAll).faultStream = s.faultStream := by
  dsimp only [State.unsettleAll]
@[simp] theorem State.unsettleAll_number (s : State) : (s.unsettleAll).number = s.number := by
  dsimp only [State.unsettleAll]
@[simp] theorem State.unsettleAll_cycle (s : State) : (s.unsettleAll).cycle = s.cycle := by
  dsimp only [State.unsettleAll]
@[simp] theorem State.unsettleAll_damageCount (s : State) : (s.unsettleAll).damageCount = s.damageCount := by
  dsimp only [State.unsettleAll]
@[simp] theorem State.unsettleAll_joinAttempts (s : State) : (s.unsettleAll).joinAttempts = s.joinAttempts := by
  dsimp only [State.unsettleAll]
@[simp] theorem State.unsettleAll_censusRun (s : State) : (s.unsettleAll).censusRun = s.censusRun := by
  dsimp only [State.unsettleAll]
@[simp] theorem State.unsettleAll_joinWord (s : State) : (s.unsettleAll).joinWord = s.joinWord := by
  dsimp only [State.unsettleAll]
@[simp] theorem State.unsettleAll_standing (s : State) : (s.unsettleAll).standing = s.standing := by
  dsimp only [State.unsettleAll]
@[simp] theorem State.unsettleAll_peers (s : State) : (s.unsettleAll).peers = s.peers := by
  dsimp only [State.unsettleAll]
@[simp] theorem State.unsettleAll_openQueue (s : State) : (s.unsettleAll).openQueue = s.openQueue := by
  dsimp only [State.unsettleAll]
@[simp] theorem State.unsettleAll_wins (s : State) : (s.unsettleAll).wins = s.wins := by
  dsimp only [State.unsettleAll]
@[simp] theorem State.unsettleAll_chosenBid (s : State) : (s.unsettleAll).chosenBid = s.chosenBid := by
  dsimp only [State.unsettleAll]
@[simp] theorem State.unsettleAll_bidDriven (s : State) : (s.unsettleAll).bidDriven = s.bidDriven := by
  dsimp only [State.unsettleAll]
@[simp] theorem State.unsettleAll_streams (s : State) : (s.unsettleAll).streams = s.streams := by
  dsimp only [State.unsettleAll]
@[simp] theorem State.unsettleAll_cuePending (s : State) : (s.unsettleAll).cuePending = s.cuePending := by
  dsimp only [State.unsettleAll]
@[simp] theorem State.unsettleAll_cueForward (s : State) : (s.unsettleAll).cueForward = s.cueForward := by
  dsimp only [State.unsettleAll]
@[simp] theorem State.unsettleAll_profileAddress (s : State) : (s.unsettleAll).profileAddress = s.profileAddress := by
  dsimp only [State.unsettleAll]
@[simp] theorem State.unsettleAll_fetched (s : State) : (s.unsettleAll).fetched = s.fetched := by
  dsimp only [State.unsettleAll]
@[simp] theorem State.unsettleAll_portServing (s : State) : (s.unsettleAll).portServing = s.portServing := by
  dsimp only [State.unsettleAll]
@[simp] theorem State.unsettleAll_portLast (s : State) : (s.unsettleAll).portLast = s.portLast := by
  dsimp only [State.unsettleAll]
@[simp] theorem State.unsettleAll_command (s : State) : (s.unsettleAll).command = s.command := by
  dsimp only [State.unsettleAll]
@[simp] theorem State.unsettleAll_rejected (s : State) : (s.unsettleAll).rejected = s.rejected := by
  dsimp only [State.unsettleAll]
@[simp] theorem State.unsettleAll_lastResult (s : State) : (s.unsettleAll).lastResult = s.lastResult := by
  dsimp only [State.unsettleAll]
@[simp] theorem State.unsettleAll_commandArgument (s : State) : (s.unsettleAll).commandArgument = s.commandArgument := by
  dsimp only [State.unsettleAll]
@[simp] theorem State.unsettleAll_events (s : State) : (s.unsettleAll).events = s.events := by
  dsimp only [State.unsettleAll]
@[simp] theorem State.unsettleAll_eventEnable (s : State) : (s.unsettleAll).eventEnable = s.eventEnable := by
  dsimp only [State.unsettleAll]
@[simp] theorem State.unsettleAll_streamEventEnable (s : State) : (s.unsettleAll).streamEventEnable = s.streamEventEnable := by
  dsimp only [State.unsettleAll]
@[simp] theorem State.unsettleAll_capture (s : State) : (s.unsettleAll).capture = s.capture := by
  dsimp only [State.unsettleAll]
@[simp] theorem State.unsettleAll_readData (s : State) : (s.unsettleAll).readData = s.readData := by
  dsimp only [State.unsettleAll]
@[simp] theorem State.unsettleAll_hostWrite (s : State) : (s.unsettleAll).hostWrite = s.hostWrite := by
  dsimp only [State.unsettleAll]

/-! `finishClosing` changes streams (R132). -/

@[simp] theorem State.finishClosing_pending (s : State) : (s.finishClosing).pending = s.pending := State.mapStreams_pending _ _
@[simp] theorem State.finishClosing_free (s : State) : (s.finishClosing).free = s.free := State.mapStreams_free _ _
@[simp] theorem State.finishClosing_rstnLow (s : State) : (s.finishClosing).rstnLow = s.rstnLow := State.mapStreams_rstnLow _ _
@[simp] theorem State.finishClosing_tsync (s : State) : (s.finishClosing).tsync = s.tsync := State.mapStreams_tsync _ _
@[simp] theorem State.finishClosing_cueOut (s : State) : (s.finishClosing).cueOut = s.cueOut := State.mapStreams_cueOut _ _
@[simp] theorem State.finishClosing_drive (s : State) : (s.finishClosing).drive = s.drive := State.mapStreams_drive _ _
@[simp] theorem State.finishClosing_timer (s : State) : (s.finishClosing).timer = s.timer := State.mapStreams_timer _ _
@[simp] theorem State.finishClosing_aligned (s : State) : (s.finishClosing).aligned = s.aligned := State.mapStreams_aligned _ _
@[simp] theorem State.finishClosing_index (s : State) : (s.finishClosing).index = s.index := State.mapStreams_index _ _
@[simp] theorem State.finishClosing_bootstrap (s : State) : (s.finishClosing).bootstrap = s.bootstrap := State.mapStreams_bootstrap _ _
@[simp] theorem State.finishClosing_frame (s : State) : (s.finishClosing).frame = s.frame := State.mapStreams_frame _ _
@[simp] theorem State.finishClosing_slots (s : State) : (s.finishClosing).slots = s.slots := State.mapStreams_slots _ _
@[simp] theorem State.finishClosing_vetoOwed (s : State) : (s.finishClosing).vetoOwed = s.vetoOwed := State.mapStreams_vetoOwed _ _
@[simp] theorem State.finishClosing_membership (s : State) : (s.finishClosing).membership = s.membership := State.mapStreams_membership _ _
@[simp] theorem State.finishClosing_refusalReason (s : State) : (s.finishClosing).refusalReason = s.refusalReason := State.mapStreams_refusalReason _ _
@[simp] theorem State.finishClosing_profileFault (s : State) : (s.finishClosing).profileFault = s.profileFault := State.mapStreams_profileFault _ _
@[simp] theorem State.finishClosing_faultStream (s : State) : (s.finishClosing).faultStream = s.faultStream := State.mapStreams_faultStream _ _
@[simp] theorem State.finishClosing_number (s : State) : (s.finishClosing).number = s.number := State.mapStreams_number _ _
@[simp] theorem State.finishClosing_cycle (s : State) : (s.finishClosing).cycle = s.cycle := State.mapStreams_cycle _ _
@[simp] theorem State.finishClosing_damageCount (s : State) : (s.finishClosing).damageCount = s.damageCount := State.mapStreams_damageCount _ _
@[simp] theorem State.finishClosing_joinAttempts (s : State) : (s.finishClosing).joinAttempts = s.joinAttempts := State.mapStreams_joinAttempts _ _
@[simp] theorem State.finishClosing_censusRun (s : State) : (s.finishClosing).censusRun = s.censusRun := State.mapStreams_censusRun _ _
@[simp] theorem State.finishClosing_joinWord (s : State) : (s.finishClosing).joinWord = s.joinWord := State.mapStreams_joinWord _ _
@[simp] theorem State.finishClosing_standing (s : State) : (s.finishClosing).standing = s.standing := State.mapStreams_standing _ _
@[simp] theorem State.finishClosing_peers (s : State) : (s.finishClosing).peers = s.peers := State.mapStreams_peers _ _
@[simp] theorem State.finishClosing_openQueue (s : State) : (s.finishClosing).openQueue = s.openQueue := State.mapStreams_openQueue _ _
@[simp] theorem State.finishClosing_wins (s : State) : (s.finishClosing).wins = s.wins := State.mapStreams_wins _ _
@[simp] theorem State.finishClosing_chosenBid (s : State) : (s.finishClosing).chosenBid = s.chosenBid := State.mapStreams_chosenBid _ _
@[simp] theorem State.finishClosing_bidDriven (s : State) : (s.finishClosing).bidDriven = s.bidDriven := State.mapStreams_bidDriven _ _
@[simp] theorem State.finishClosing_cuePending (s : State) : (s.finishClosing).cuePending = s.cuePending := State.mapStreams_cuePending _ _
@[simp] theorem State.finishClosing_cueForward (s : State) : (s.finishClosing).cueForward = s.cueForward := State.mapStreams_cueForward _ _
@[simp] theorem State.finishClosing_profileAddress (s : State) : (s.finishClosing).profileAddress = s.profileAddress := State.mapStreams_profileAddress _ _
@[simp] theorem State.finishClosing_fetched (s : State) : (s.finishClosing).fetched = s.fetched := State.mapStreams_fetched _ _
@[simp] theorem State.finishClosing_portServing (s : State) : (s.finishClosing).portServing = s.portServing := State.mapStreams_portServing _ _
@[simp] theorem State.finishClosing_portLast (s : State) : (s.finishClosing).portLast = s.portLast := State.mapStreams_portLast _ _
@[simp] theorem State.finishClosing_command (s : State) : (s.finishClosing).command = s.command := State.mapStreams_command _ _
@[simp] theorem State.finishClosing_rejected (s : State) : (s.finishClosing).rejected = s.rejected := State.mapStreams_rejected _ _
@[simp] theorem State.finishClosing_lastResult (s : State) : (s.finishClosing).lastResult = s.lastResult := State.mapStreams_lastResult _ _
@[simp] theorem State.finishClosing_commandArgument (s : State) : (s.finishClosing).commandArgument = s.commandArgument := State.mapStreams_commandArgument _ _
@[simp] theorem State.finishClosing_events (s : State) : (s.finishClosing).events = s.events := State.mapStreams_events _ _
@[simp] theorem State.finishClosing_eventEnable (s : State) : (s.finishClosing).eventEnable = s.eventEnable := State.mapStreams_eventEnable _ _
@[simp] theorem State.finishClosing_streamEventEnable (s : State) : (s.finishClosing).streamEventEnable = s.streamEventEnable := State.mapStreams_streamEventEnable _ _
@[simp] theorem State.finishClosing_capture (s : State) : (s.finishClosing).capture = s.capture := State.mapStreams_capture _ _
@[simp] theorem State.finishClosing_readData (s : State) : (s.finishClosing).readData = s.readData := State.mapStreams_readData _ _
@[simp] theorem State.finishClosing_hostWrite (s : State) : (s.finishClosing).hostWrite = s.hostWrite := State.mapStreams_hostWrite _ _

/-! `issueAll` changes streams (R143, R167). -/

@[simp] theorem State.issueAll_pending (s : State) : (s.issueAll).pending = s.pending := State.mapStreams_pending _ _
@[simp] theorem State.issueAll_free (s : State) : (s.issueAll).free = s.free := State.mapStreams_free _ _
@[simp] theorem State.issueAll_rstnLow (s : State) : (s.issueAll).rstnLow = s.rstnLow := State.mapStreams_rstnLow _ _
@[simp] theorem State.issueAll_tsync (s : State) : (s.issueAll).tsync = s.tsync := State.mapStreams_tsync _ _
@[simp] theorem State.issueAll_cueOut (s : State) : (s.issueAll).cueOut = s.cueOut := State.mapStreams_cueOut _ _
@[simp] theorem State.issueAll_drive (s : State) : (s.issueAll).drive = s.drive := State.mapStreams_drive _ _
@[simp] theorem State.issueAll_timer (s : State) : (s.issueAll).timer = s.timer := State.mapStreams_timer _ _
@[simp] theorem State.issueAll_aligned (s : State) : (s.issueAll).aligned = s.aligned := State.mapStreams_aligned _ _
@[simp] theorem State.issueAll_index (s : State) : (s.issueAll).index = s.index := State.mapStreams_index _ _
@[simp] theorem State.issueAll_bootstrap (s : State) : (s.issueAll).bootstrap = s.bootstrap := State.mapStreams_bootstrap _ _
@[simp] theorem State.issueAll_frame (s : State) : (s.issueAll).frame = s.frame := State.mapStreams_frame _ _
@[simp] theorem State.issueAll_slots (s : State) : (s.issueAll).slots = s.slots := State.mapStreams_slots _ _
@[simp] theorem State.issueAll_vetoOwed (s : State) : (s.issueAll).vetoOwed = s.vetoOwed := State.mapStreams_vetoOwed _ _
@[simp] theorem State.issueAll_membership (s : State) : (s.issueAll).membership = s.membership := State.mapStreams_membership _ _
@[simp] theorem State.issueAll_refusalReason (s : State) : (s.issueAll).refusalReason = s.refusalReason := State.mapStreams_refusalReason _ _
@[simp] theorem State.issueAll_profileFault (s : State) : (s.issueAll).profileFault = s.profileFault := State.mapStreams_profileFault _ _
@[simp] theorem State.issueAll_faultStream (s : State) : (s.issueAll).faultStream = s.faultStream := State.mapStreams_faultStream _ _
@[simp] theorem State.issueAll_number (s : State) : (s.issueAll).number = s.number := State.mapStreams_number _ _
@[simp] theorem State.issueAll_cycle (s : State) : (s.issueAll).cycle = s.cycle := State.mapStreams_cycle _ _
@[simp] theorem State.issueAll_damageCount (s : State) : (s.issueAll).damageCount = s.damageCount := State.mapStreams_damageCount _ _
@[simp] theorem State.issueAll_joinAttempts (s : State) : (s.issueAll).joinAttempts = s.joinAttempts := State.mapStreams_joinAttempts _ _
@[simp] theorem State.issueAll_censusRun (s : State) : (s.issueAll).censusRun = s.censusRun := State.mapStreams_censusRun _ _
@[simp] theorem State.issueAll_joinWord (s : State) : (s.issueAll).joinWord = s.joinWord := State.mapStreams_joinWord _ _
@[simp] theorem State.issueAll_standing (s : State) : (s.issueAll).standing = s.standing := State.mapStreams_standing _ _
@[simp] theorem State.issueAll_peers (s : State) : (s.issueAll).peers = s.peers := State.mapStreams_peers _ _
@[simp] theorem State.issueAll_openQueue (s : State) : (s.issueAll).openQueue = s.openQueue := State.mapStreams_openQueue _ _
@[simp] theorem State.issueAll_wins (s : State) : (s.issueAll).wins = s.wins := State.mapStreams_wins _ _
@[simp] theorem State.issueAll_chosenBid (s : State) : (s.issueAll).chosenBid = s.chosenBid := State.mapStreams_chosenBid _ _
@[simp] theorem State.issueAll_bidDriven (s : State) : (s.issueAll).bidDriven = s.bidDriven := State.mapStreams_bidDriven _ _
@[simp] theorem State.issueAll_cuePending (s : State) : (s.issueAll).cuePending = s.cuePending := State.mapStreams_cuePending _ _
@[simp] theorem State.issueAll_cueForward (s : State) : (s.issueAll).cueForward = s.cueForward := State.mapStreams_cueForward _ _
@[simp] theorem State.issueAll_profileAddress (s : State) : (s.issueAll).profileAddress = s.profileAddress := State.mapStreams_profileAddress _ _
@[simp] theorem State.issueAll_fetched (s : State) : (s.issueAll).fetched = s.fetched := State.mapStreams_fetched _ _
@[simp] theorem State.issueAll_portServing (s : State) : (s.issueAll).portServing = s.portServing := State.mapStreams_portServing _ _
@[simp] theorem State.issueAll_portLast (s : State) : (s.issueAll).portLast = s.portLast := State.mapStreams_portLast _ _
@[simp] theorem State.issueAll_command (s : State) : (s.issueAll).command = s.command := State.mapStreams_command _ _
@[simp] theorem State.issueAll_rejected (s : State) : (s.issueAll).rejected = s.rejected := State.mapStreams_rejected _ _
@[simp] theorem State.issueAll_lastResult (s : State) : (s.issueAll).lastResult = s.lastResult := State.mapStreams_lastResult _ _
@[simp] theorem State.issueAll_commandArgument (s : State) : (s.issueAll).commandArgument = s.commandArgument := State.mapStreams_commandArgument _ _
@[simp] theorem State.issueAll_events (s : State) : (s.issueAll).events = s.events := State.mapStreams_events _ _
@[simp] theorem State.issueAll_eventEnable (s : State) : (s.issueAll).eventEnable = s.eventEnable := State.mapStreams_eventEnable _ _
@[simp] theorem State.issueAll_streamEventEnable (s : State) : (s.issueAll).streamEventEnable = s.streamEventEnable := State.mapStreams_streamEventEnable _ _
@[simp] theorem State.issueAll_capture (s : State) : (s.issueAll).capture = s.capture := State.mapStreams_capture _ _
@[simp] theorem State.issueAll_readData (s : State) : (s.issueAll).readData = s.readData := State.mapStreams_readData _ _
@[simp] theorem State.issueAll_hostWrite (s : State) : (s.issueAll).hostWrite = s.hostWrite := State.mapStreams_hostWrite _ _

/-! `endOp` changes a stream and the port (R183). -/

@[simp] theorem State.endOp_pending (s : State) (n : Fin 16) : (s.endOp n).pending = s.pending := by
  dsimp only [State.endOp, State.onStream]
@[simp] theorem State.endOp_free (s : State) (n : Fin 16) : (s.endOp n).free = s.free := by
  dsimp only [State.endOp, State.onStream]
@[simp] theorem State.endOp_rstnLow (s : State) (n : Fin 16) : (s.endOp n).rstnLow = s.rstnLow := by
  dsimp only [State.endOp, State.onStream]
@[simp] theorem State.endOp_tsync (s : State) (n : Fin 16) : (s.endOp n).tsync = s.tsync := by
  dsimp only [State.endOp, State.onStream]
@[simp] theorem State.endOp_cueOut (s : State) (n : Fin 16) : (s.endOp n).cueOut = s.cueOut := by
  dsimp only [State.endOp, State.onStream]
@[simp] theorem State.endOp_drive (s : State) (n : Fin 16) : (s.endOp n).drive = s.drive := by
  dsimp only [State.endOp, State.onStream]
@[simp] theorem State.endOp_timer (s : State) (n : Fin 16) : (s.endOp n).timer = s.timer := by
  dsimp only [State.endOp, State.onStream]
@[simp] theorem State.endOp_aligned (s : State) (n : Fin 16) : (s.endOp n).aligned = s.aligned := by
  dsimp only [State.endOp, State.onStream]
@[simp] theorem State.endOp_index (s : State) (n : Fin 16) : (s.endOp n).index = s.index := by
  dsimp only [State.endOp, State.onStream]
@[simp] theorem State.endOp_bootstrap (s : State) (n : Fin 16) : (s.endOp n).bootstrap = s.bootstrap := by
  dsimp only [State.endOp, State.onStream]
@[simp] theorem State.endOp_frame (s : State) (n : Fin 16) : (s.endOp n).frame = s.frame := by
  dsimp only [State.endOp, State.onStream]
@[simp] theorem State.endOp_slots (s : State) (n : Fin 16) : (s.endOp n).slots = s.slots := by
  dsimp only [State.endOp, State.onStream]
@[simp] theorem State.endOp_vetoOwed (s : State) (n : Fin 16) : (s.endOp n).vetoOwed = s.vetoOwed := by
  dsimp only [State.endOp, State.onStream]
@[simp] theorem State.endOp_membership (s : State) (n : Fin 16) : (s.endOp n).membership = s.membership := by
  dsimp only [State.endOp, State.onStream]
@[simp] theorem State.endOp_refusalReason (s : State) (n : Fin 16) : (s.endOp n).refusalReason = s.refusalReason := by
  dsimp only [State.endOp, State.onStream]
@[simp] theorem State.endOp_profileFault (s : State) (n : Fin 16) : (s.endOp n).profileFault = s.profileFault := by
  dsimp only [State.endOp, State.onStream]
@[simp] theorem State.endOp_faultStream (s : State) (n : Fin 16) : (s.endOp n).faultStream = s.faultStream := by
  dsimp only [State.endOp, State.onStream]
@[simp] theorem State.endOp_number (s : State) (n : Fin 16) : (s.endOp n).number = s.number := by
  dsimp only [State.endOp, State.onStream]
@[simp] theorem State.endOp_cycle (s : State) (n : Fin 16) : (s.endOp n).cycle = s.cycle := by
  dsimp only [State.endOp, State.onStream]
@[simp] theorem State.endOp_damageCount (s : State) (n : Fin 16) : (s.endOp n).damageCount = s.damageCount := by
  dsimp only [State.endOp, State.onStream]
@[simp] theorem State.endOp_joinAttempts (s : State) (n : Fin 16) : (s.endOp n).joinAttempts = s.joinAttempts := by
  dsimp only [State.endOp, State.onStream]
@[simp] theorem State.endOp_censusRun (s : State) (n : Fin 16) : (s.endOp n).censusRun = s.censusRun := by
  dsimp only [State.endOp, State.onStream]
@[simp] theorem State.endOp_joinWord (s : State) (n : Fin 16) : (s.endOp n).joinWord = s.joinWord := by
  dsimp only [State.endOp, State.onStream]
@[simp] theorem State.endOp_standing (s : State) (n : Fin 16) : (s.endOp n).standing = s.standing := by
  dsimp only [State.endOp, State.onStream]
@[simp] theorem State.endOp_peers (s : State) (n : Fin 16) : (s.endOp n).peers = s.peers := by
  dsimp only [State.endOp, State.onStream]
@[simp] theorem State.endOp_openQueue (s : State) (n : Fin 16) : (s.endOp n).openQueue = s.openQueue := by
  dsimp only [State.endOp, State.onStream]
@[simp] theorem State.endOp_wins (s : State) (n : Fin 16) : (s.endOp n).wins = s.wins := by
  dsimp only [State.endOp, State.onStream]
@[simp] theorem State.endOp_chosenBid (s : State) (n : Fin 16) : (s.endOp n).chosenBid = s.chosenBid := by
  dsimp only [State.endOp, State.onStream]
@[simp] theorem State.endOp_bidDriven (s : State) (n : Fin 16) : (s.endOp n).bidDriven = s.bidDriven := by
  dsimp only [State.endOp, State.onStream]
@[simp] theorem State.endOp_cuePending (s : State) (n : Fin 16) : (s.endOp n).cuePending = s.cuePending := by
  dsimp only [State.endOp, State.onStream]
@[simp] theorem State.endOp_cueForward (s : State) (n : Fin 16) : (s.endOp n).cueForward = s.cueForward := by
  dsimp only [State.endOp, State.onStream]
@[simp] theorem State.endOp_profileAddress (s : State) (n : Fin 16) : (s.endOp n).profileAddress = s.profileAddress := by
  dsimp only [State.endOp, State.onStream]
@[simp] theorem State.endOp_fetched (s : State) (n : Fin 16) : (s.endOp n).fetched = s.fetched := by
  dsimp only [State.endOp, State.onStream]
@[simp] theorem State.endOp_command (s : State) (n : Fin 16) : (s.endOp n).command = s.command := by
  dsimp only [State.endOp, State.onStream]
@[simp] theorem State.endOp_rejected (s : State) (n : Fin 16) : (s.endOp n).rejected = s.rejected := by
  dsimp only [State.endOp, State.onStream]
@[simp] theorem State.endOp_lastResult (s : State) (n : Fin 16) : (s.endOp n).lastResult = s.lastResult := by
  dsimp only [State.endOp, State.onStream]
@[simp] theorem State.endOp_commandArgument (s : State) (n : Fin 16) : (s.endOp n).commandArgument = s.commandArgument := by
  dsimp only [State.endOp, State.onStream]
@[simp] theorem State.endOp_events (s : State) (n : Fin 16) : (s.endOp n).events = s.events := by
  dsimp only [State.endOp, State.onStream]
@[simp] theorem State.endOp_eventEnable (s : State) (n : Fin 16) : (s.endOp n).eventEnable = s.eventEnable := by
  dsimp only [State.endOp, State.onStream]
@[simp] theorem State.endOp_streamEventEnable (s : State) (n : Fin 16) : (s.endOp n).streamEventEnable = s.streamEventEnable := by
  dsimp only [State.endOp, State.onStream]
@[simp] theorem State.endOp_capture (s : State) (n : Fin 16) : (s.endOp n).capture = s.capture := by
  dsimp only [State.endOp, State.onStream]
@[simp] theorem State.endOp_readData (s : State) (n : Fin 16) : (s.endOp n).readData = s.readData := by
  dsimp only [State.endOp, State.onStream]
@[simp] theorem State.endOp_hostWrite (s : State) (n : Fin 16) : (s.endOp n).hostWrite = s.hostWrite := by
  dsimp only [State.endOp, State.onStream]

/-! `grant` changes which stream the port serves (R183). -/

@[simp] theorem State.grant_pending (s : State) : (s.grant).pending = s.pending := by unfold State.grant; split <;> rfl
@[simp] theorem State.grant_free (s : State) : (s.grant).free = s.free := by unfold State.grant; split <;> rfl
@[simp] theorem State.grant_rstnLow (s : State) : (s.grant).rstnLow = s.rstnLow := by unfold State.grant; split <;> rfl
@[simp] theorem State.grant_tsync (s : State) : (s.grant).tsync = s.tsync := by unfold State.grant; split <;> rfl
@[simp] theorem State.grant_cueOut (s : State) : (s.grant).cueOut = s.cueOut := by unfold State.grant; split <;> rfl
@[simp] theorem State.grant_drive (s : State) : (s.grant).drive = s.drive := by unfold State.grant; split <;> rfl
@[simp] theorem State.grant_timer (s : State) : (s.grant).timer = s.timer := by unfold State.grant; split <;> rfl
@[simp] theorem State.grant_aligned (s : State) : (s.grant).aligned = s.aligned := by unfold State.grant; split <;> rfl
@[simp] theorem State.grant_index (s : State) : (s.grant).index = s.index := by unfold State.grant; split <;> rfl
@[simp] theorem State.grant_bootstrap (s : State) : (s.grant).bootstrap = s.bootstrap := by unfold State.grant; split <;> rfl
@[simp] theorem State.grant_frame (s : State) : (s.grant).frame = s.frame := by unfold State.grant; split <;> rfl
@[simp] theorem State.grant_slots (s : State) : (s.grant).slots = s.slots := by unfold State.grant; split <;> rfl
@[simp] theorem State.grant_vetoOwed (s : State) : (s.grant).vetoOwed = s.vetoOwed := by unfold State.grant; split <;> rfl
@[simp] theorem State.grant_membership (s : State) : (s.grant).membership = s.membership := by unfold State.grant; split <;> rfl
@[simp] theorem State.grant_refusalReason (s : State) : (s.grant).refusalReason = s.refusalReason := by unfold State.grant; split <;> rfl
@[simp] theorem State.grant_profileFault (s : State) : (s.grant).profileFault = s.profileFault := by unfold State.grant; split <;> rfl
@[simp] theorem State.grant_faultStream (s : State) : (s.grant).faultStream = s.faultStream := by unfold State.grant; split <;> rfl
@[simp] theorem State.grant_number (s : State) : (s.grant).number = s.number := by unfold State.grant; split <;> rfl
@[simp] theorem State.grant_cycle (s : State) : (s.grant).cycle = s.cycle := by unfold State.grant; split <;> rfl
@[simp] theorem State.grant_damageCount (s : State) : (s.grant).damageCount = s.damageCount := by unfold State.grant; split <;> rfl
@[simp] theorem State.grant_joinAttempts (s : State) : (s.grant).joinAttempts = s.joinAttempts := by unfold State.grant; split <;> rfl
@[simp] theorem State.grant_censusRun (s : State) : (s.grant).censusRun = s.censusRun := by unfold State.grant; split <;> rfl
@[simp] theorem State.grant_joinWord (s : State) : (s.grant).joinWord = s.joinWord := by unfold State.grant; split <;> rfl
@[simp] theorem State.grant_standing (s : State) : (s.grant).standing = s.standing := by unfold State.grant; split <;> rfl
@[simp] theorem State.grant_peers (s : State) : (s.grant).peers = s.peers := by unfold State.grant; split <;> rfl
@[simp] theorem State.grant_openQueue (s : State) : (s.grant).openQueue = s.openQueue := by unfold State.grant; split <;> rfl
@[simp] theorem State.grant_wins (s : State) : (s.grant).wins = s.wins := by unfold State.grant; split <;> rfl
@[simp] theorem State.grant_chosenBid (s : State) : (s.grant).chosenBid = s.chosenBid := by unfold State.grant; split <;> rfl
@[simp] theorem State.grant_bidDriven (s : State) : (s.grant).bidDriven = s.bidDriven := by unfold State.grant; split <;> rfl
@[simp] theorem State.grant_streams (s : State) : (s.grant).streams = s.streams := by unfold State.grant; split <;> rfl
@[simp] theorem State.grant_cuePending (s : State) : (s.grant).cuePending = s.cuePending := by unfold State.grant; split <;> rfl
@[simp] theorem State.grant_cueForward (s : State) : (s.grant).cueForward = s.cueForward := by unfold State.grant; split <;> rfl
@[simp] theorem State.grant_profileAddress (s : State) : (s.grant).profileAddress = s.profileAddress := by unfold State.grant; split <;> rfl
@[simp] theorem State.grant_fetched (s : State) : (s.grant).fetched = s.fetched := by unfold State.grant; split <;> rfl
@[simp] theorem State.grant_portLast (s : State) : (s.grant).portLast = s.portLast := by unfold State.grant; split <;> rfl
@[simp] theorem State.grant_command (s : State) : (s.grant).command = s.command := by unfold State.grant; split <;> rfl
@[simp] theorem State.grant_rejected (s : State) : (s.grant).rejected = s.rejected := by unfold State.grant; split <;> rfl
@[simp] theorem State.grant_lastResult (s : State) : (s.grant).lastResult = s.lastResult := by unfold State.grant; split <;> rfl
@[simp] theorem State.grant_commandArgument (s : State) : (s.grant).commandArgument = s.commandArgument := by unfold State.grant; split <;> rfl
@[simp] theorem State.grant_events (s : State) : (s.grant).events = s.events := by unfold State.grant; split <;> rfl
@[simp] theorem State.grant_eventEnable (s : State) : (s.grant).eventEnable = s.eventEnable := by unfold State.grant; split <;> rfl
@[simp] theorem State.grant_streamEventEnable (s : State) : (s.grant).streamEventEnable = s.streamEventEnable := by unfold State.grant; split <;> rfl
@[simp] theorem State.grant_capture (s : State) : (s.grant).capture = s.capture := by unfold State.grant; split <;> rfl
@[simp] theorem State.grant_readData (s : State) : (s.grant).readData = s.readData := by unfold State.grant; split <;> rfl
@[simp] theorem State.grant_hostWrite (s : State) : (s.grant).hostWrite = s.hostWrite := by unfold State.grant; split <;> rfl

/-! `judgeBid` changes the map (R40 to R43). -/

@[simp] theorem State.judgeBid_pending (s : State) (bid : Option Bid) : (s.judgeBid bid).pending = s.pending := by unfold State.judgeBid; split <;> [rfl; (split <;> dsimp only)]
@[simp] theorem State.judgeBid_free (s : State) (bid : Option Bid) : (s.judgeBid bid).free = s.free := by unfold State.judgeBid; split <;> [rfl; (split <;> dsimp only)]
@[simp] theorem State.judgeBid_rstnLow (s : State) (bid : Option Bid) : (s.judgeBid bid).rstnLow = s.rstnLow := by unfold State.judgeBid; split <;> [rfl; (split <;> dsimp only)]
@[simp] theorem State.judgeBid_tsync (s : State) (bid : Option Bid) : (s.judgeBid bid).tsync = s.tsync := by unfold State.judgeBid; split <;> [rfl; (split <;> dsimp only)]
@[simp] theorem State.judgeBid_cueOut (s : State) (bid : Option Bid) : (s.judgeBid bid).cueOut = s.cueOut := by unfold State.judgeBid; split <;> [rfl; (split <;> dsimp only)]
@[simp] theorem State.judgeBid_drive (s : State) (bid : Option Bid) : (s.judgeBid bid).drive = s.drive := by unfold State.judgeBid; split <;> [rfl; (split <;> dsimp only)]
@[simp] theorem State.judgeBid_timer (s : State) (bid : Option Bid) : (s.judgeBid bid).timer = s.timer := by unfold State.judgeBid; split <;> [rfl; (split <;> dsimp only)]
@[simp] theorem State.judgeBid_aligned (s : State) (bid : Option Bid) : (s.judgeBid bid).aligned = s.aligned := by unfold State.judgeBid; split <;> [rfl; (split <;> dsimp only)]
@[simp] theorem State.judgeBid_index (s : State) (bid : Option Bid) : (s.judgeBid bid).index = s.index := by unfold State.judgeBid; split <;> [rfl; (split <;> dsimp only)]
@[simp] theorem State.judgeBid_bootstrap (s : State) (bid : Option Bid) : (s.judgeBid bid).bootstrap = s.bootstrap := by unfold State.judgeBid; split <;> [rfl; (split <;> dsimp only)]
@[simp] theorem State.judgeBid_frame (s : State) (bid : Option Bid) : (s.judgeBid bid).frame = s.frame := by unfold State.judgeBid; split <;> [rfl; (split <;> dsimp only)]
@[simp] theorem State.judgeBid_vetoOwed (s : State) (bid : Option Bid) : (s.judgeBid bid).vetoOwed = s.vetoOwed := by unfold State.judgeBid; split <;> [rfl; (split <;> dsimp only)]
@[simp] theorem State.judgeBid_membership (s : State) (bid : Option Bid) : (s.judgeBid bid).membership = s.membership := by unfold State.judgeBid; split <;> [rfl; (split <;> dsimp only)]
@[simp] theorem State.judgeBid_refusalReason (s : State) (bid : Option Bid) : (s.judgeBid bid).refusalReason = s.refusalReason := by unfold State.judgeBid; split <;> [rfl; (split <;> dsimp only)]
@[simp] theorem State.judgeBid_profileFault (s : State) (bid : Option Bid) : (s.judgeBid bid).profileFault = s.profileFault := by unfold State.judgeBid; split <;> [rfl; (split <;> dsimp only)]
@[simp] theorem State.judgeBid_faultStream (s : State) (bid : Option Bid) : (s.judgeBid bid).faultStream = s.faultStream := by unfold State.judgeBid; split <;> [rfl; (split <;> dsimp only)]
@[simp] theorem State.judgeBid_number (s : State) (bid : Option Bid) : (s.judgeBid bid).number = s.number := by unfold State.judgeBid; split <;> [rfl; (split <;> dsimp only)]
@[simp] theorem State.judgeBid_cycle (s : State) (bid : Option Bid) : (s.judgeBid bid).cycle = s.cycle := by unfold State.judgeBid; split <;> [rfl; (split <;> dsimp only)]
@[simp] theorem State.judgeBid_damageCount (s : State) (bid : Option Bid) : (s.judgeBid bid).damageCount = s.damageCount := by unfold State.judgeBid; split <;> [rfl; (split <;> dsimp only)]
@[simp] theorem State.judgeBid_joinAttempts (s : State) (bid : Option Bid) : (s.judgeBid bid).joinAttempts = s.joinAttempts := by unfold State.judgeBid; split <;> [rfl; (split <;> dsimp only)]
@[simp] theorem State.judgeBid_censusRun (s : State) (bid : Option Bid) : (s.judgeBid bid).censusRun = s.censusRun := by unfold State.judgeBid; split <;> [rfl; (split <;> dsimp only)]
@[simp] theorem State.judgeBid_joinWord (s : State) (bid : Option Bid) : (s.judgeBid bid).joinWord = s.joinWord := by unfold State.judgeBid; split <;> [rfl; (split <;> dsimp only)]
@[simp] theorem State.judgeBid_standing (s : State) (bid : Option Bid) : (s.judgeBid bid).standing = s.standing := by unfold State.judgeBid; split <;> [rfl; (split <;> dsimp only)]
@[simp] theorem State.judgeBid_peers (s : State) (bid : Option Bid) : (s.judgeBid bid).peers = s.peers := by unfold State.judgeBid; split <;> [rfl; (split <;> dsimp only)]
@[simp] theorem State.judgeBid_openQueue (s : State) (bid : Option Bid) : (s.judgeBid bid).openQueue = s.openQueue := by unfold State.judgeBid; split <;> [rfl; (split <;> dsimp only)]
@[simp] theorem State.judgeBid_wins (s : State) (bid : Option Bid) : (s.judgeBid bid).wins = s.wins := by unfold State.judgeBid; split <;> [rfl; (split <;> dsimp only)]
@[simp] theorem State.judgeBid_chosenBid (s : State) (bid : Option Bid) : (s.judgeBid bid).chosenBid = s.chosenBid := by unfold State.judgeBid; split <;> [rfl; (split <;> dsimp only)]
@[simp] theorem State.judgeBid_bidDriven (s : State) (bid : Option Bid) : (s.judgeBid bid).bidDriven = s.bidDriven := by unfold State.judgeBid; split <;> [rfl; (split <;> dsimp only)]
@[simp] theorem State.judgeBid_streams (s : State) (bid : Option Bid) : (s.judgeBid bid).streams = s.streams := by unfold State.judgeBid; split <;> [rfl; (split <;> dsimp only)]
@[simp] theorem State.judgeBid_cuePending (s : State) (bid : Option Bid) : (s.judgeBid bid).cuePending = s.cuePending := by unfold State.judgeBid; split <;> [rfl; (split <;> dsimp only)]
@[simp] theorem State.judgeBid_cueForward (s : State) (bid : Option Bid) : (s.judgeBid bid).cueForward = s.cueForward := by unfold State.judgeBid; split <;> [rfl; (split <;> dsimp only)]
@[simp] theorem State.judgeBid_profileAddress (s : State) (bid : Option Bid) : (s.judgeBid bid).profileAddress = s.profileAddress := by unfold State.judgeBid; split <;> [rfl; (split <;> dsimp only)]
@[simp] theorem State.judgeBid_fetched (s : State) (bid : Option Bid) : (s.judgeBid bid).fetched = s.fetched := by unfold State.judgeBid; split <;> [rfl; (split <;> dsimp only)]
@[simp] theorem State.judgeBid_portServing (s : State) (bid : Option Bid) : (s.judgeBid bid).portServing = s.portServing := by unfold State.judgeBid; split <;> [rfl; (split <;> dsimp only)]
@[simp] theorem State.judgeBid_portLast (s : State) (bid : Option Bid) : (s.judgeBid bid).portLast = s.portLast := by unfold State.judgeBid; split <;> [rfl; (split <;> dsimp only)]
@[simp] theorem State.judgeBid_command (s : State) (bid : Option Bid) : (s.judgeBid bid).command = s.command := by unfold State.judgeBid; split <;> [rfl; (split <;> dsimp only)]
@[simp] theorem State.judgeBid_rejected (s : State) (bid : Option Bid) : (s.judgeBid bid).rejected = s.rejected := by unfold State.judgeBid; split <;> [rfl; (split <;> dsimp only)]
@[simp] theorem State.judgeBid_lastResult (s : State) (bid : Option Bid) : (s.judgeBid bid).lastResult = s.lastResult := by unfold State.judgeBid; split <;> [rfl; (split <;> dsimp only)]
@[simp] theorem State.judgeBid_commandArgument (s : State) (bid : Option Bid) : (s.judgeBid bid).commandArgument = s.commandArgument := by unfold State.judgeBid; split <;> [rfl; (split <;> dsimp only)]
@[simp] theorem State.judgeBid_events (s : State) (bid : Option Bid) : (s.judgeBid bid).events = s.events := by unfold State.judgeBid; split <;> [rfl; (split <;> dsimp only)]
@[simp] theorem State.judgeBid_eventEnable (s : State) (bid : Option Bid) : (s.judgeBid bid).eventEnable = s.eventEnable := by unfold State.judgeBid; split <;> [rfl; (split <;> dsimp only)]
@[simp] theorem State.judgeBid_streamEventEnable (s : State) (bid : Option Bid) : (s.judgeBid bid).streamEventEnable = s.streamEventEnable := by unfold State.judgeBid; split <;> [rfl; (split <;> dsimp only)]
@[simp] theorem State.judgeBid_capture (s : State) (bid : Option Bid) : (s.judgeBid bid).capture = s.capture := by unfold State.judgeBid; split <;> [rfl; (split <;> dsimp only)]
@[simp] theorem State.judgeBid_readData (s : State) (bid : Option Bid) : (s.judgeBid bid).readData = s.readData := by unfold State.judgeBid; split <;> [rfl; (split <;> dsimp only)]
@[simp] theorem State.judgeBid_hostWrite (s : State) (bid : Option Bid) : (s.judgeBid bid).hostWrite = s.hostWrite := by unfold State.judgeBid; split <;> [rfl; (split <;> dsimp only)]

/-! `pump` changes streams and which stream the port serves (R143, R167, R183). -/

@[simp] theorem State.pump_pending (s : State) : s.pump.pending = s.pending := State.grant_pending s.issueAll
@[simp] theorem State.pump_free (s : State) : s.pump.free = s.free := State.grant_free s.issueAll
@[simp] theorem State.pump_rstnLow (s : State) : s.pump.rstnLow = s.rstnLow := State.grant_rstnLow s.issueAll
@[simp] theorem State.pump_tsync (s : State) : s.pump.tsync = s.tsync := State.grant_tsync s.issueAll
@[simp] theorem State.pump_cueOut (s : State) : s.pump.cueOut = s.cueOut := State.grant_cueOut s.issueAll
@[simp] theorem State.pump_drive (s : State) : s.pump.drive = s.drive := State.grant_drive s.issueAll
@[simp] theorem State.pump_timer (s : State) : s.pump.timer = s.timer := State.grant_timer s.issueAll
@[simp] theorem State.pump_aligned (s : State) : s.pump.aligned = s.aligned := State.grant_aligned s.issueAll
@[simp] theorem State.pump_index (s : State) : s.pump.index = s.index := State.grant_index s.issueAll
@[simp] theorem State.pump_bootstrap (s : State) : s.pump.bootstrap = s.bootstrap := State.grant_bootstrap s.issueAll
@[simp] theorem State.pump_frame (s : State) : s.pump.frame = s.frame := State.grant_frame s.issueAll
@[simp] theorem State.pump_slots (s : State) : s.pump.slots = s.slots := State.grant_slots s.issueAll
@[simp] theorem State.pump_vetoOwed (s : State) : s.pump.vetoOwed = s.vetoOwed := State.grant_vetoOwed s.issueAll
@[simp] theorem State.pump_membership (s : State) : s.pump.membership = s.membership := State.grant_membership s.issueAll
@[simp] theorem State.pump_refusalReason (s : State) : s.pump.refusalReason = s.refusalReason := State.grant_refusalReason s.issueAll
@[simp] theorem State.pump_profileFault (s : State) : s.pump.profileFault = s.profileFault := State.grant_profileFault s.issueAll
@[simp] theorem State.pump_faultStream (s : State) : s.pump.faultStream = s.faultStream := State.grant_faultStream s.issueAll
@[simp] theorem State.pump_number (s : State) : s.pump.number = s.number := State.grant_number s.issueAll
@[simp] theorem State.pump_cycle (s : State) : s.pump.cycle = s.cycle := State.grant_cycle s.issueAll
@[simp] theorem State.pump_damageCount (s : State) : s.pump.damageCount = s.damageCount := State.grant_damageCount s.issueAll
@[simp] theorem State.pump_joinAttempts (s : State) : s.pump.joinAttempts = s.joinAttempts := State.grant_joinAttempts s.issueAll
@[simp] theorem State.pump_censusRun (s : State) : s.pump.censusRun = s.censusRun := State.grant_censusRun s.issueAll
@[simp] theorem State.pump_joinWord (s : State) : s.pump.joinWord = s.joinWord := State.grant_joinWord s.issueAll
@[simp] theorem State.pump_standing (s : State) : s.pump.standing = s.standing := State.grant_standing s.issueAll
@[simp] theorem State.pump_peers (s : State) : s.pump.peers = s.peers := State.grant_peers s.issueAll
@[simp] theorem State.pump_openQueue (s : State) : s.pump.openQueue = s.openQueue := State.grant_openQueue s.issueAll
@[simp] theorem State.pump_wins (s : State) : s.pump.wins = s.wins := State.grant_wins s.issueAll
@[simp] theorem State.pump_chosenBid (s : State) : s.pump.chosenBid = s.chosenBid := State.grant_chosenBid s.issueAll
@[simp] theorem State.pump_bidDriven (s : State) : s.pump.bidDriven = s.bidDriven := State.grant_bidDriven s.issueAll
@[simp] theorem State.pump_cuePending (s : State) : s.pump.cuePending = s.cuePending := State.grant_cuePending s.issueAll
@[simp] theorem State.pump_cueForward (s : State) : s.pump.cueForward = s.cueForward := State.grant_cueForward s.issueAll
@[simp] theorem State.pump_profileAddress (s : State) : s.pump.profileAddress = s.profileAddress := State.grant_profileAddress s.issueAll
@[simp] theorem State.pump_fetched (s : State) : s.pump.fetched = s.fetched := State.grant_fetched s.issueAll
@[simp] theorem State.pump_portLast (s : State) : s.pump.portLast = s.portLast := State.grant_portLast s.issueAll
@[simp] theorem State.pump_command (s : State) : s.pump.command = s.command := State.grant_command s.issueAll
@[simp] theorem State.pump_rejected (s : State) : s.pump.rejected = s.rejected := State.grant_rejected s.issueAll
@[simp] theorem State.pump_lastResult (s : State) : s.pump.lastResult = s.lastResult := State.grant_lastResult s.issueAll
@[simp] theorem State.pump_commandArgument (s : State) : s.pump.commandArgument = s.commandArgument := State.grant_commandArgument s.issueAll
@[simp] theorem State.pump_events (s : State) : s.pump.events = s.events := State.grant_events s.issueAll
@[simp] theorem State.pump_eventEnable (s : State) : s.pump.eventEnable = s.eventEnable := State.grant_eventEnable s.issueAll
@[simp] theorem State.pump_streamEventEnable (s : State) : s.pump.streamEventEnable = s.streamEventEnable := State.grant_streamEventEnable s.issueAll
@[simp] theorem State.pump_capture (s : State) : s.pump.capture = s.capture := State.grant_capture s.issueAll
@[simp] theorem State.pump_readData (s : State) : s.pump.readData = s.readData := State.grant_readData s.issueAll
@[simp] theorem State.pump_hostWrite (s : State) : s.pump.hostWrite = s.hostWrite := State.grant_hostWrite s.issueAll

@[simp] theorem State.pump_streams (s : State) : s.pump.streams = s.issueAll.streams :=
  State.grant_streams s.issueAll

end Sys2Proof.Machine
end

