-- ==== Sys2Proof/Laws/Tables.lean ====
section
/-! SUPPORT. One entry of a changed table, and the choice of a slot or a candidate from a list. -/

namespace Sys2Proof.Machine

/-! ### One entry of a changed table -/

@[simp] theorem tabulate_get {α β : Type} {n : Nat} (f : Fin n → α → β) (v : Vector α n) (i : Nat)
    (h : i < n) : (tabulate f v)[i] = f ⟨i, h⟩ v[i] := by simp [tabulate]

/-- A change of every stream, seen at one stream. -/
@[simp] theorem State.mapStreams_get (s : State) (f : Fin 16 → Stream → Stream) (i : Nat)
    (h : i < 16) : (s.mapStreams f).streams[i] = (s.streams[i]).map (f ⟨i, h⟩) := by
  simp [State.mapStreams]

/-- A change of one stream, seen at that stream. -/
theorem State.onStream_get_self (s : State) (n : Fin 16) (f : Stream → Stream) :
    (s.onStream n f).streams[n] = (s.streams[n]).map f := by simp [State.onStream]

/-- A change of one stream, seen at another. -/
theorem State.onStream_get_other (s : State) (n m : Fin 16) (f : Stream → Stream) (h : m ≠ n) :
    (s.onStream n f).streams[m] = s.streams[m] := by
  have : n.val ≠ m.val := fun e => h (Fin.ext e.symm)
  simp [State.onStream, Vector.getElem_set_ne, this]

@[simp] theorem mapEntries_get (f : Fin 24 → Entry → Entry) (slots : Vector Slot 24) (i : Nat)
    (h : i < 24) : (mapEntries f slots)[i] = { slots[i] with entry := f ⟨i, h⟩ slots[i].entry } := by
  simp [mapEntries]

/-! ### Indices that meet a condition -/

@[simp] theorem mem_indicesWhere {n : Nat} (p : Fin n → Bool) (i : Fin n) :
    i ∈ indicesWhere p ↔ p i = true := by simp [indicesWhere]

/-- The indices come in ascending order. -/
theorem indicesWhere_ascending {n : Nat} (p : Fin n → Bool) :
    (indicesWhere p).Pairwise (· < ·) := List.Pairwise.filter _ (List.pairwise_lt_finRange n)

/-- No index meets the condition exactly when the list is empty. -/
theorem indicesWhere_eq_nil {n : Nat} (p : Fin n → Bool) :
    indicesWhere p = [] ↔ ∀ i, p i = false := by
  simp [indicesWhere, List.filter_eq_nil_iff]

/-- The first index of an ascending list is the least. -/
theorem indicesWhere_head {n : Nat} (p : Fin n → Bool) (i : Fin n) (hp : p i = true)
    (least : ∀ j, j < i → p j = false) : (indicesWhere p).head? = some i := by
  cases hl : indicesWhere p with
  | nil => simp [indicesWhere_eq_nil] at hl; simp [hl i] at hp
  | cons a t =>
    have ha : p a = true := by rw [← mem_indicesWhere p a, hl]; simp
    have hi : i ∈ a :: t := by rw [← hl]; simpa using hp
    have asc := indicesWhere_ascending p
    rw [hl] at asc
    rcases List.mem_cons.1 hi with rfl | ht
    · rfl
    · have := least a (List.rel_of_pairwise_cons asc ht)
      simp [ha] at this

/-! ### The best of a list -/

theorem bestBy_eq_none {α : Type} (r : α → Nat) (l : List α) : bestBy r l = none ↔ l = [] := by
  cases l with
  | nil => simp [bestBy]
  | cons a t => simp [bestBy]; split <;> [simp; (split <;> simp)]

theorem bestBy_mem {α : Type} (r : α → Nat) (l : List α) (a : α) (h : bestBy r l = some a) :
    a ∈ l := by
  induction l generalizing a with
  | nil => simp [bestBy] at h
  | cons b t ih =>
    unfold bestBy at h
    cases hb : bestBy r t with
    | none => simp [hb] at h; simp [h]
    | some c => simp [hb] at h; split at h <;> simp at h <;> subst h <;> simp [ih _ hb]

/-- Nothing in the list ranks above the best. -/
theorem bestBy_ge {α : Type} (r : α → Nat) (l : List α) (a : α) (h : bestBy r l = some a) :
    ∀ x ∈ l, r x ≤ r a := by
  induction l generalizing a with
  | nil => simp
  | cons b t ih =>
    unfold bestBy at h
    cases hb : bestBy r t with
    | none =>
      have : t = [] := (bestBy_eq_none r t).1 hb
      simp [hb] at h; subst h; simp [this]
    | some c =>
      simp [hb] at h
      have := ih _ hb
      split at h <;> simp at h <;> subst h <;> intro x hx <;>
        rcases List.mem_cons.1 hx with rfl | hx <;>
        [omega; (have := this _ hx; omega); omega; exact this _ hx]

/-- Of those that rank highest the best is the one that comes first. -/
theorem bestBy_first {α : Type} (r : α → Nat) (R : α → α → Prop) (l : List α)
    (hl : l.Pairwise R) (a : α) (h : bestBy r l = some a) : ∀ x ∈ l, r x = r a → x = a ∨ R a x := by
  induction l generalizing a with
  | nil => simp
  | cons b t ih =>
    unfold bestBy at h
    cases hb : bestBy r t with
    | none => simp [(bestBy_eq_none _ _).1 hb]; simp [hb] at h; subst h; simp
    | some c =>
      simp [hb] at h
      split at h <;> simp at h <;> subst h <;> intro x hx hr <;>
        rcases List.mem_cons.1 hx with rfl | hx
      · simp
      · exact Or.inr (List.rel_of_pairwise_cons hl hx)
      · omega
      · exact ih (List.Pairwise.of_cons hl) _ hb x hx hr

end Sys2Proof.Machine
end

