-- ==== Sys2Proof/Laws/Map.lean ====
section
/-! SUPPORT. What the operations on the slot map do to one entry. -/

namespace Sys2Proof.Machine

/-- Settling acts on each entry (R37). -/
theorem State.settleAll_entry (veto : Bool) (s : State) (i : Fin 24) :
    (s.settleAll veto).slots[i].entry = s.slots[i].entry.settle veto := by
  simp [State.settleAll]

/-- A header received damaged acts on each entry (R63). -/
theorem State.unsettleAll_entry (s : State) (i : Fin 24) :
    s.unsettleAll.slots[i].entry = s.slots[i].entry.unsettle := by
  simp [State.unsettleAll]

/-- A RELEASE bit acts on the entry of its slot (R44). -/
theorem State.applyReleases_entry (bits : BitVec 24) (s : State) (i : Fin 24) :
    (s.applyReleases bits).slots[i].entry
      = if bits.getLsbD i.val then s.release s.slots[i].entry else s.slots[i].entry := by
  simp [State.applyReleases]

/-- A bid with a label is judged at its target slot and nowhere else (R40). -/
theorem State.judgeBid_entry (b : Bid) (s : State) (i : Fin 24) (h : b.label ≠ 0) :
    (s.judgeBid (some b)).slots[i].entry
      = if i.val = b.slot.toNat then s.judge b s.slots[i].entry else s.slots[i].entry := by
  unfold State.judgeBid
  dsimp only
  rw [if_neg h]
  simp

/-- An intact cell is offered to the entry of its slot and to no other (R27). -/
theorem State.resolveCell_entry (k : Nat) (c : Cell) (s : State) (i : Fin 24) :
    (s.resolveCell k (.intact c)).slots[i].entry
      = if i.val = k then s.resolve c s.slots[i].entry else s.slots[i].entry := by
  simp [State.resolveCell]

/-- A readback acts on the entry of its slot and on no other (R31). -/
theorem State.applyReadback_entry (k : Nat) (ok : Bool) (s : State) (i : Fin 24) :
    (s.applyReadback k (some ok)).slots[i].entry
      = if i.val = k then s.slots[i].entry.readback s.number ok else s.slots[i].entry := by
  simp [State.applyReadback]

/-- The release intent is kept beside the entries, which stay (R46). -/
theorem State.refreshIntent_entry (s : State) (i : Fin 24) :
    s.refreshIntent.slots[i].entry = s.slots[i].entry := by
  simp [State.refreshIntent, Slot.refresh]

/-- No entry is pending once every entry has settled (R37). -/
theorem Entry.settle_not_pending (veto : Bool) (e : Entry) :
    (∀ c p, e.settle veto ≠ .claimPending c p) ∧ ∀ h, e.settle veto ≠ .releasePending h := by
  rcases e with _ | _ | _ | ⟨c, _ | _⟩ | _ | _ <;> cases veto <;>
    simp [Entry.settle, Entry.commit, Entry.revert]

/-- A station's own holding count counts no entry that another station holds (R24). -/
theorem Entry.countsFor_holder (k : Station) (h : Claimant) (damage : Nat) :
    (Entry.held h damage).countsFor k = (h.station == k) := rfl

end Sys2Proof.Machine
end

