-- ==== Sys2Proof/Laws/Closing.lean ====
section
/-! SUPPORT. What a closure does to a ring (R151, R168), where the map's report leaves an open stream
(R34, R122, R134), and the claimants under which an entry carries a label (R25). -/

namespace Sys2Proof.Machine

open Sys2Proof

/-! ### Closures -/

/-- Closing a send stream closes its ring (R151). -/
theorem Stream.closeSend_sendRing (reason : CloseReason) (part : Bool) (st : Stream) :
    SendRingClosed st (st.closeSend reason part) := by
  refine ⟨rfl, rfl, rfl, rfl, rfl, fun d rest h hg => ?_, fun h => ?_⟩
  · have hs : d.started = true := by simp [TxDesc.started, hg]
    cases hk : d.keep <;>
      simp [Stream.closeSend, Stream.stopSend, h, hs, hk, TxDesc.after, TxDesc.truncate]
  · cases hh : st.held with
    | nil => simp [Stream.closeSend, Stream.stopSend, hh]
    | cons d rest =>
      have hs : d.started = false := by simp [TxDesc.started, h d (by simp [hh])]
      simp [Stream.closeSend, Stream.stopSend, hh, hs]

/-- Closing a listen stream closes its ring (R168). -/
theorem Stream.closeListen_listenRing (reason : CloseReason) (st : Stream) :
    ListenRingClosed st (st.closeListen reason) := by
  refine ⟨rfl, rfl, rfl, rfl, rfl, rfl, rfl, fun d h hc => ?_, fun h => ?_⟩
  · cases hn : st.next <;>
      simp [Stream.closeListen, Stream.stopListen, h, hc, hn, RxDesc.finish]
  · cases hd : st.current with
    | none => simp [Stream.closeListen, Stream.stopListen, hd]
    | some d => simp [Stream.closeListen, Stream.stopListen, hd, h d (by simp [hd])]

/-- Closing an open stream, for any cause, closes its ring (R133, R151, R168). -/
theorem Stream.close_ringClosed (reason : CloseReason) (part : Bool) (st : Stream)
    (h : st.isOpen = true) : RingClosed st (st.close reason part) := by
  unfold Stream.isOpen at h
  unfold Stream.close
  split at h
  · rename_i hs
    rw [if_pos hs, if_pos h]
    refine ⟨fun _ => Stream.closeSend_sendRing _ _ _, fun hf => by simp [hs] at hf, fun op ho => ?_⟩
    simp only [Stream.closeSend, Stream.stopSend, ho, Option.map_some]
    rcases op with ⟨_ | _ | _ | _ | _ | _, _, _⟩ <;> rfl
  · rename_i hs
    rw [if_neg hs, if_pos h]
    refine ⟨fun ht => absurd ht hs, fun _ => Stream.closeListen_listenRing _ _, fun op ho => ?_⟩
    simp only [Stream.closeListen, Stream.stopListen, ho, Option.map_some]
    rcases op with ⟨_ | _ | _ | _ | _ | _, _, _⟩ <;> rfl

/-- A pass of the CLOSING streams follows R132. -/
theorem State.finishClosing_follows (s : State) : ClosingFollows s s.finishClosing := by
  intro n st h hs hc
  have hp : s.finishClosing.streamHasPart n st = s.streamHasPart n st := rfl
  refine ⟨st.finishClosing (s.streamHasPart n st), ?_, ?_⟩
  · have h' : s.streams[n.val] = some st := h
    simp [State.finishClosing, h']
  · rw [hp]
    cases hb : s.streamHasPart n st <;>
      simp [Stream.finishClosing, hs, hc, Stream.signal]

/-! ### The map's report -/

/-- The map's report leaves an open stream where it follows the map (R34, R122, R134). -/
theorem Stream.report_followsMap (k : Station) (old new : Vector Slot 24) (st : Stream)
    (h : st.isOpen = true) : FollowsMap k old new st (st.report k old new) := by
  unfold Stream.isOpen at h
  refine ⟨fun hs => ⟨fun hv => ?_, fun hv hw => ?_⟩, fun hs => ⟨fun hv => ?_, fun hv => ?_⟩⟩
  · simp [Stream.report, hs, hv]
  · rw [if_pos hs] at h
    have hn : ¬ (ownHoldings old k st.defn.label = ownHoldings new k st.defn.label
        ∧ candidacyUnder old k st.defn.label = candidacyUnder new k st.defn.label) := by tauto
    rw [Stream.report, if_pos hs, if_neg hn, Stream.standing, hs, h]
    by_cases hc : candidacyUnder new k st.defn.label = []
    · by_cases hl : (ownHoldings new k st.defn.label).length < st.defn.width
      · have : (ownHoldings new k st.defn.label).length ≠ st.defn.width := by omega
        cases st.everFull <;> simp [hc, hl, this]
      · have : (ownHoldings new k st.defn.label).length = st.defn.width := by omega
        cases st.awaiting <;> simp [hc, this]
    · simp [hc]
  · simp [Stream.report, hs, hv]
  · simp only [hs, Bool.false_eq_true, if_false] at h
    simp only [Stream.report, hs, Bool.false_eq_true, if_false, if_neg hv, Stream.listenRule, h]
    cases st.awaiting <;> simp

/-! ### Claimants that carry a label -/

/-- Who uses a label in an entry that is not UNSURE carries it there (R25). -/
theorem Entry.mem_users (l : Label) (k : Station) (e : Entry) (hu : ∀ cs, e ≠ .unsure cs) :
    k ∈ e.users l ↔ ∃ c ∈ Sys2Proof.Entry.carried e, c.label = l ∧ c.station = k := by
  rcases e with _ | _ | _ | ⟨c, _ | _⟩ | _ | cs <;>
    simp_all [Entry.users, Sys2Proof.Entry.carried, Claimant.userOf]

/-- Settling an entry brings no claimant (R38, R39). -/
theorem Entry.carried_settle (veto : Bool) (e : Entry) :
    Sys2Proof.Entry.carried (e.settle veto) ⊆ Sys2Proof.Entry.carried e := by
  rcases e with _ | _ | _ | ⟨c, _ | _⟩ | _ | _ <;> cases veto <;>
    simp [Entry.settle, Entry.commit, Entry.revert, Sys2Proof.Entry.carried]

/-- An entry that loses its settling header carries no label (R63). -/
theorem Entry.carried_unsettle (e : Entry) :
    Sys2Proof.Entry.carried e.unsettle ⊆ Sys2Proof.Entry.carried e := by
  rcases e with _ | _ | _ | ⟨c, _ | _⟩ | _ | _ <;> simp [Entry.unsettle, Sys2Proof.Entry.carried]

/-- A release keeps the claimant of its entry (R44). -/
theorem State.carried_release (s : State) (e : Entry) :
    Sys2Proof.Entry.carried (s.release e) = Sys2Proof.Entry.carried e := by
  unfold State.release
  split
  · split <;> rfl
  · rfl

/-- A readback brings no claimant (R31, R32). -/
theorem Entry.carried_readback (k : Station) (ok : Bool) (e : Entry) :
    Sys2Proof.Entry.carried (e.readback k ok) ⊆ Sys2Proof.Entry.carried e := by
  unfold Entry.readback
  split
  · split
    · split
      · exact List.Subset.refl _
      · split
        · exact List.nil_subset _
        · exact List.Subset.refl _
    · exact List.Subset.refl _
  · exact List.Subset.refl _

/-- A settled or unsettled entry is not pending (R37, R63). -/
theorem Entry.isPending_settle (veto : Bool) (e : Entry) :
    Sys2Proof.Entry.isPending (e.settle veto) = false := by
  rcases e with _ | _ | _ | ⟨c, _ | _⟩ | _ | _ <;> cases veto <;> rfl

theorem Entry.isPending_unsettle (e : Entry) : Sys2Proof.Entry.isPending e.unsettle = false := by
  rcases e with _ | _ | _ | ⟨c, _ | _⟩ | _ | _ <;> rfl

end Sys2Proof.Machine
end

