-- ==== Sys2Proof/Laws/Formats.lean ====
section
/-! SUPPORT. The halves of header bits, and how far a bidder drives its bid (R11, R12). -/

namespace Sys2Proof.Machine

/-- A bit is read back from the halves it is sent in (R11). -/
@[simp] theorem bitOfHalves_halvesOf (b : Bool) : bitOfHalves (halvesOf b) = some b := by
  cases b <;> rfl

/-- A bit is corrupt when its second half is driven (R11). -/
theorem bitOfHalves_eq_none (h : Halves) : bitOfHalves h = none ↔ h.2 = true := by
  obtain ⟨_ | _, _ | _⟩ := h <;> simp [bitOfHalves]

/-- What two stations send is never corrupt, and is the OR of their bits (R11). -/
theorem bitOfHalves_wiredOr (a b : Bool) :
    bitOfHalves (wiredOr (halvesOf a) (halvesOf b)) = some (a || b) := by
  cases a <;> cases b <;> rfl

/-- Bits are read back from the halves they are sent in. -/
theorem mapM_bitOfHalves (bits : List Bool) : (bits.map halvesOf).mapM bitOfHalves = some bits := by
  induction bits with
  | nil => rfl
  | cons b bs ih => simp [ih]

/-- Halves are read as bits when none of them is corrupt. -/
theorem mapM_bitOfHalves_eq_none (hs : List Halves) :
    hs.mapM bitOfHalves = none ↔ ∃ h ∈ hs, h.2 = true := by
  induction hs with
  | nil => simp
  | cons h hs ih =>
    rw [List.mapM_cons]
    cases hb : bitOfHalves h with
    | none => simp [(bitOfHalves_eq_none h).1 hb]
    | some b =>
      have : ¬ h.2 = true := fun e => by simp [(bitOfHalves_eq_none h).2 e] at hb
      cases hm : hs.mapM bitOfHalves with
      | none => simp [ih.1 hm]
      | some bs =>
        have : ¬ ∃ h ∈ hs, h.2 = true := fun e => by simp [ih.2 e] at hm
        simp_all

/-- A bidder drives its bits up to the first it reads back otherwise (R12). -/
theorem driveUntilStopped_eq (bits : List Bool) (read : List (Option Bool)) (hne : bits ≠ []) :
    ∃ k, k < bits.length ∧ driveUntilStopped bits read = bits.take (k + 1)
      ∧ read.take k = (bits.take k).map some
      ∧ (k + 1 < bits.length → read[k]? ≠ some (bits[k]?)) := by
  induction bits generalizing read with
  | nil => exact absurd rfl hne
  | cons b bs ih =>
    cases read with
    | nil => exact ⟨0, by simp, by simp [driveUntilStopped], by simp, by simp⟩
    | cons r rs =>
      by_cases hr : r = some b
      · cases bs with
        | nil => exact ⟨0, by simp, by simp [driveUntilStopped, hr], by simp, by simp⟩
        | cons c cs =>
          obtain ⟨k, hk, hd, ht, hs⟩ := ih rs (by simp)
          refine ⟨k + 1, by simpa using hk, by simp [driveUntilStopped, hr, hd], by simp [hr, ht], ?_⟩
          intro h
          simpa using hs (by simpa using h)
      · refine ⟨0, by simp, by simp [driveUntilStopped, hr], by simp, fun _ => by simpa using hr⟩

end Sys2Proof.Machine
end

