-- ==== Sys2Proof/Laws/InOrder.lean ====
section
/-! SUPPORT. What keeps an entry of the slot map in order (`Entry.InOrder`). -/

namespace Sys2Proof.Machine

open Sys2Proof

theorem Entry.settle_inOrder (veto : Bool) (e : Entry) (h : Entry.InOrder e) :
    Entry.InOrder (e.settle veto) := by
  rcases e with _ | _ | _ | ⟨c, _ | _⟩ | _ | _ <;> cases veto <;>
    simp_all [Entry.settle, Entry.commit, Entry.revert, Entry.InOrder]

theorem Entry.unsettle_inOrder (e : Entry) (h : Entry.InOrder e) : Entry.InOrder e.unsettle := by
  rcases e with _ | _ | _ | ⟨c, _ | _⟩ | _ | _ <;> simp_all [Entry.unsettle, Entry.InOrder]

theorem State.release_inOrder (s : State) (e : Entry) (h : Entry.InOrder e) :
    Entry.InOrder (s.release e) := by
  unfold State.release
  split
  · split
    · trivial
    · exact h
  · exact h

theorem State.resolve_inOrder (s : State) (c : Cell) (e : Entry) (h : Entry.InOrder e) :
    Entry.InOrder (s.resolve c e) := by
  unfold State.resolve
  split
  · split <;> simp [Entry.InOrder]
  · split
    · simp [Entry.InOrder]
    · exact h
  · exact h

theorem Entry.readback_inOrder (k : Station) (ok : Bool) (e : Entry) (h : Entry.InOrder e) :
    Entry.InOrder (e.readback k ok) := by
  unfold Entry.readback
  split
  · rename_i c damage
    split
    · split
      · simp [Entry.InOrder]
      · split
        · simp [Entry.InOrder]
        · rename_i hlt
          simp only [Entry.InOrder, Config.collisionLimit] at *
          omega
    · exact h
  · exact h

/-- Offering a bidder keeps one to three candidates, no station twice (R20). -/
theorem offerCandidate_inOrder (c : Claimant) (cs : List Claimant)
    (h : Entry.InOrder (.unsure cs)) : Entry.InOrder (.unsure (offerCandidate c cs)) := by
  unfold offerCandidate
  split
  · exact h
  · rename_i hn
    obtain ⟨h1, h2, h3⟩ := h
    simp only [Bool.or_eq_true, List.any_eq_true, beq_iff_eq, decide_eq_true_eq, not_or, not_exists,
      not_and, Config.candidateLimit, not_le] at hn
    refine ⟨by simp, by simp; omega, ?_⟩
    rw [List.map_append, List.nodup_append]
    refine ⟨h3, by simp, ?_⟩
    intro a ha b hb
    simp only [List.map_cons, List.map_nil, List.mem_singleton] at hb
    obtain ⟨x, hx, rfl⟩ := List.mem_map.1 ha
    rw [hb]
    exact hn.1 x hx

theorem State.judge_inOrder (s : State) (b : Bid) (e : Entry) (h : Entry.InOrder e) :
    Entry.InOrder (s.judge b e) := by
  unfold State.judge
  split
  · exact offerCandidate_inOrder _ _ h
  · split <;> trivial
  · split
    · rename_i hold damage hv
      simp only [State.bidValid, Bid.targetOk, Bool.and_eq_true, bne_iff_ne] at hv
      exact hv.1.1.2.1.1
    · exact h
  · exact h

end Sys2Proof.Machine
end

