-- ==== Sys2Proof/Laws/Intent.lean ====
section
/-! SUPPORT. Which slots are in the release intent (R46, R49), what the views of the map hold (R22, R23),
and what the map's report does to one stream (R34, R122). -/

namespace Sys2Proof.Machine

/-! ### The release intent -/

/-- The entries a slot may have while it stays in the release intent (R49). -/
theorem Entry.keepsIntent_iff (k : Station) (e : Entry) :
    e.keepsIntent k = true ↔ Sys2Proof.Entry.StaysIntended k e := by
  rcases e with _ | _ | _ | ⟨_, _ | _⟩ | _ | _ <;>
    simp [Entry.keepsIntent, Sys2Proof.Entry.StaysIntended]

/-- Some open send stream carries the label. -/
theorem openSendCarries_iff (streams : Vector (Option Stream) 16) (l : Label) :
    openSendCarries streams l = true ↔ ∃ (n : Fin 16) (st : Stream), streams[n] = some st
      ∧ st.isSend = true ∧ st.state.openSend = true ∧ st.defn.label = l := by
  simp only [openSendCarries, List.any_eq_true, Vector.mem_toList_iff, Vector.mem_iff_getElem,
    Option.any_eq_true, Bool.and_eq_true, beq_iff_eq]
  constructor
  · rintro ⟨o, ⟨i, hi, rfl⟩, st, hst, ⟨h1, h2⟩, h3⟩
    exact ⟨⟨i, hi⟩, st, hst, h1, h2, h3⟩
  · rintro ⟨n, st, hst, h1, h2, h3⟩
    exact ⟨_, ⟨n.val, n.isLt, rfl⟩, st, hst, ⟨h1, h2⟩, h3⟩

/-- A slot is asked into the release intent (R46). -/
theorem Entry.asked_iff (k : Station) (streams : Vector (Option Stream) 16) (e : Entry) :
    e.asked k streams = true ↔ Sys2Proof.Entry.AskedFor k streams e := by
  cases e with
  | held h d =>
    rw [Entry.asked, Bool.and_eq_true, beq_iff_eq, Bool.not_eq_true', ← Bool.not_eq_true, openSendCarries_iff]
    constructor
    · rintro ⟨hk, hn⟩
      exact ⟨h, d, rfl, hk, fun n st a b c e => hn ⟨n, st, a, b, c, e⟩⟩
    · rintro ⟨_, _, he, hk, hn⟩
      cases he
      exact ⟨hk, fun ⟨n, st, a, b, c, e⟩ => hn n st a b c e⟩
  | _ => simp [Entry.asked, Sys2Proof.Entry.AskedFor]

/-- The release intent of a slot when it has been brought up to the map and the streams
(R46, R49). -/
theorem State.refreshIntent_intent (s : State) (i : Fin 24) :
    s.refreshIntent.slots[i].intent = true ↔
      (s.slots[i].intent = true ∨ Sys2Proof.Entry.AskedFor s.number s.streams s.slots[i].entry)
      ∧ Sys2Proof.Entry.StaysIntended s.number s.slots[i].entry := by
  rw [← Entry.asked_iff, ← Entry.keepsIntent_iff]
  simp [State.refreshIntent, Slot.refresh]

/-! ### Views of the map -/

/-- The own holdings are the slots held under the label (R22). -/
theorem mem_ownHoldings (slots : Vector Slot 24) (k : Station) (l : Label) (i : Fin 24) :
    i ∈ ownHoldings slots k l ↔ HeldAs slots k l i := by
  simp only [ownHoldings, mem_indicesWhere, HeldAs, Entry.heldUnder]
  cases slots[i].entry <;> simp

/-- The carriers are the slots held under the label, by whatever station (R23). -/
theorem mem_carriers (slots : Vector Slot 24) (l : Label) (i : Fin 24) :
    i ∈ carriers slots l ↔ ∃ h damage, slots[i].entry = .held h damage ∧ h.label = l := by
  simp only [carriers, mem_indicesWhere, Entry.holder]
  cases slots[i].entry <;> simp

/-- The slots a stream may use, in ascending order (R48, R124). -/
theorem usableSlots_usable (slots : Vector Slot 24) (k : Station) (l : Label) :
    UsableSlots slots k l (usableSlots k slots l) := by
  refine ⟨List.Pairwise.filter _ (indicesWhere_ascending _), fun i => ?_⟩
  simp [usableSlots, mem_ownHoldings]

/-! ### The map's report -/

/-- The rules are not applied to a stream that the arrival closes (R122). -/
theorem State.mapReport_closed (s : State) (closes : Fin 16 → Bool) (old : Vector Slot 24)
    (n : Fin 16) (h : closes n = true) : (s.mapReport closes old).streams[n] = s.streams[n] := by
  simp [State.mapReport, State.cleanQueue, State.mapStreams, h]

/-- The rules are applied to any other stream whose view has changed (R34). -/
theorem State.mapReport_open (s : State) (closes : Fin 16 → Bool) (old : Vector Slot 24)
    (n : Fin 16) (h : closes n = false) :
    (s.mapReport closes old).streams[n]
      = (s.streams[n]).map (Stream.report s.number old s.slots) := by
  simp [State.mapReport, State.cleanQueue, State.mapStreams, h]

/-- Without a pending CLOSE no stream is closed by the command of an arrival (R122). -/
theorem State.closesPending_none (s : State) (n : Fin 16) (h : s.command = none) :
    s.closesPending n = false := by simp [State.closesPending, h]

end Sys2Proof.Machine
end

