-- ==== Sys2Proof/Laws/Port.lean ====
section
/-! SUPPORT. What the end of a bus transaction does, and what the engines then do. -/

namespace Sys2Proof.Machine

/-- The engine changes nothing of a stream but its outstanding operation and its poll. -/
theorem Stream.issue_still (st : Stream) :
    Sys2Proof.Stream.still st.issue = Sys2Proof.Stream.still st := by
  unfold Stream.issue
  split <;> [rfl; (split <;> rfl)]

/-- The port's turn is all that `grant` changes. -/
theorem State.grant_eq (s : State) : s.grant = { s with portServing := s.grant.portServing } := by
  unfold State.grant
  split <;> rfl

/-- The engines and the port change the outstanding operations and the port's turn. -/
theorem State.pump_eq (s : State) :
    s.pump = { s with streams := s.pump.streams, portServing := s.pump.portServing } := by
  rw [State.pump_streams]
  exact s.issueAll.grant_eq

/-- One stream after the engines have issued what they can. -/
theorem State.pump_get (s : State) (n : Fin 16) :
    s.pump.streams[n] = (s.streams[n]).map Stream.issue := by
  simp [State.pump, State.issueAll]

/-- What an engine has issued, it does not issue again. -/
theorem Stream.issue_issue (st : Stream) : st.issue.issue = st.issue := by
  unfold Stream.issue
  by_cases h : st.op.isSome || st.dead
  · simp [h]
  · cases hn : st.nextOp <;> simp [h, hn]

/-- After the engines have acted each has issued what it can (R142, R157). -/
theorem State.pump_enginesIssued (s : State) : EnginesIssued s.pump := by
  intro n st h
  rw [State.pump_get] at h
  obtain ⟨x, -, rfl⟩ := Option.map_eq_some_iff.1 h
  exact Stream.issue_issue x

/-- What the port serves, under `Serves`. -/
theorem served_of_serves (s : State) (n : Fin 16) (st : Stream) (op : BusOp)
    (h : Serves s n st op) : s.served = some ⟨n, st, op⟩ := by
  obtain ⟨hn, hst, hop⟩ := h
  simp only [State.served, hn, Option.bind_some]
  rw [hst]
  simp [hop]

/-- A read that the stream has a use for ends. -/
theorem State.endRead_of_serves (s : State) (n : Fin 16) (st : Stream) (op : BusOp)
    (f : BusKind → Option (Stream → Stream)) (g : Stream → Stream) (h : Serves s n st op)
    (hg : f op.kind = some g) (hd : op.discard = false) :
    s.endRead st.isSend f = (s.endOp n).onStream n g := by
  simp [State.endRead, served_of_serves s n st op h, hg, hd]

/-- A read whose data a closure has made of no account ends. -/
theorem State.endRead_discarded (s : State) (n : Fin 16) (st : Stream) (op : BusOp)
    (f : BusKind → Option (Stream → Stream)) (g : Stream → Stream) (h : Serves s n st op)
    (hg : f op.kind = some g) (hd : op.discard = true) : s.endRead st.isSend f = s.endOp n := by
  simp [State.endRead, served_of_serves s n st op h, hg, hd]

/-- A write ends. -/
theorem State.endWrite_of_serves (s : State) (n : Fin 16) (st : Stream) (op : BusOp)
    (f : BusKind → Option (Stream → Stream × List (Word × Word)))
    (g : Stream → Stream × List (Word × Word)) (h : Serves s n st op) (hg : f op.kind = some g) :
    s.endWrite st.isSend f
      = { (s.endOp n).onStream n fun x => (g x).1 with hostWrite := (g { st with op := none }).2 } := by
  simp [State.endWrite, served_of_serves s n st op h, hg]

/-- The served stream when its transaction has ended, `g` has acted, and the engine has issued. -/
theorem State.ended_stream (s : State) (n : Fin 16) (st : Stream) (op : BusOp)
    (g : Stream → Stream) (h : Serves s n st op) :
    ((s.endOp n).onStream n g).pump.streams[n] = some (g { st with op := none }).issue := by
  rw [State.pump_get, State.onStream_get_self]
  simp only [State.endOp, State.onStream_get_self]
  rw [h.2.1]
  rfl

/-- The end of a transaction touches no other stream. -/
theorem State.ended_only (s : State) (n : Fin 16) (g : Stream → Stream) :
    OnlyStream n s ((s.endOp n).onStream n g).pump := by
  refine ⟨?_, fun m hm => ?_⟩
  · rw [State.pump_eq]
    simp [State.endOp, State.onStream]
  · rw [State.pump_get, State.onStream_get_other _ _ _ _ hm]
    simp only [State.endOp, State.onStream_get_other _ _ _ _ hm, Option.map_map]
    congr 1
    funext st
    exact Stream.issue_still st

/-- The end of a transaction in which the stream's own engine does nothing touches no stream. -/
theorem State.endOp_only (s : State) (n : Fin 16) : OnlyStream n s (s.endOp n).pump := by
  refine ⟨?_, fun m hm => ?_⟩
  · rw [State.pump_eq]
    simp [State.endOp, State.onStream]
  · rw [State.pump_get]
    simp only [State.endOp, State.onStream_get_other _ _ _ _ hm, Option.map_map]
    congr 1
    funext st
    exact Stream.issue_still st

end Sys2Proof.Machine
end

