-- ==== Sys2Proof/Laws/SameTrunk.lean ====
section
/-! SUPPORT. What the part does beside the map at an arrival, and what that leaves as it was: the entries
of the map, the membership state, the frame in progress and the counts of the trunk protocol. -/

namespace Sys2Proof.Machine

/-- Two states that differ in nothing the trunk protocol reads: the entries, the membership, the frame
in progress, the peer table and the counts are the same. -/
structure SameTrunk (s t : State) : Prop where
  entries : ∀ i : Fin 24, t.slots[i].entry = s.slots[i].entry
  membership : t.membership = s.membership
  number : t.number = s.number
  frame : t.frame = s.frame
  peers : t.peers = s.peers
  cycle : t.cycle = s.cycle
  index : t.index = s.index
  damageCount : t.damageCount = s.damageCount
  vetoOwed : t.vetoOwed = s.vetoOwed
  wins : t.wins = s.wins

namespace SameTrunk

theorem refl (s : State) : SameTrunk s s := ⟨fun _ => rfl, rfl, rfl, rfl, rfl, rfl, rfl, rfl, rfl, rfl⟩

theorem trans {s t u : State} (a : SameTrunk s t) (b : SameTrunk t u) : SameTrunk s u :=
  ⟨fun i => (b.entries i).trans (a.entries i), b.membership.trans a.membership,
    b.number.trans a.number, b.frame.trans a.frame, b.peers.trans a.peers, b.cycle.trans a.cycle,
    b.index.trans a.index, b.damageCount.trans a.damageCount, b.vetoOwed.trans a.vetoOwed,
    b.wins.trans a.wins⟩

theorem mapStreams (s : State) (f : Fin 16 → Stream → Stream) : SameTrunk s (s.mapStreams f) := by
  constructor <;> simp

theorem onStream (s : State) (n : Fin 16) (f : Stream → Stream) : SameTrunk s (s.onStream n f) := by
  constructor <;> simp

theorem cleanQueue (s : State) : SameTrunk s s.cleanQueue := by constructor <;> simp

theorem mapReport (s : State) (closes : Fin 16 → Bool) (old : Vector Slot 24) :
    SameTrunk s (s.mapReport closes old) :=
  (SameTrunk.mapStreams s _).trans (cleanQueue _)

theorem refreshIntent (s : State) : SameTrunk s s.refreshIntent :=
  ⟨s.refreshIntent_entry, by simp, by simp, by simp, by simp, by simp, by simp, by simp, by simp,
    by simp⟩

theorem raise (s : State) (e : StationEvent) : SameTrunk s (s.raise e) := by constructor <;> simp

theorem finishClosing (s : State) : SameTrunk s s.finishClosing := mapStreams _ _

theorem pump (s : State) : SameTrunk s s.pump := by
  constructor <;> simp

/-- A closure of one stream leaves the trunk protocol (R131, R136). -/
theorem closeOne (s : State) (reason : CloseReason) (n : Fin 16) :
    SameTrunk s (s.closeOne reason n) :=
  ((onStream s n _).trans (cleanQueue _)).trans (refreshIntent _)

/-- So does a closure of every stream (R101, R137). -/
theorem closeEvery (s : State) (reason : CloseReason) : SameTrunk s (s.closeEvery reason) :=
  ((mapStreams s _).trans (cleanQueue _)).trans (refreshIntent _)

theorem performCommand (s : State) (c : Command) : SameTrunk s (s.performCommand c) := by
  unfold State.performCommand
  split
  · split
    · exact (onStream s c.stream.toFin (Stream.opened s.number s.slots)).trans
        ⟨fun _ => rfl, rfl, rfl, rfl, rfl, rfl, rfl, rfl, rfl, rfl⟩
    · exact refl s
  · exact closeOne _ _ _
  · exact ⟨fun _ => rfl, rfl, rfl, rfl, rfl, rfl, rfl, rfl, rfl, rfl⟩

/-- A command that is taken leaves the trunk protocol (R187). -/
theorem takeThis (s : State) (c : Command) : SameTrunk s (s.takeThis c) := by
  unfold State.takeThis
  refine trans ?_ (raise _ _)
  split
  · exact (performCommand s c).trans ⟨fun _ => rfl, rfl, rfl, rfl, rfl, rfl, rfl, rfl, rfl, rfl⟩
  · exact ⟨fun _ => rfl, rfl, rfl, rfl, rfl, rfl, rfl, rfl, rfl, rfl⟩

theorem takeCommand (s : State) : SameTrunk s s.takeCommand := by
  unfold State.takeCommand
  split
  · exact refl s
  · exact takeThis s _

theorem driveCensus (s : State) : SameTrunk s s.driveCensus :=
  ⟨fun _ => rfl, rfl, rfl, rfl, rfl, rfl, rfl, rfl, rfl, rfl⟩

theorem commandAndCell (s : State) (f : Frame) : SameTrunk s (s.commandAndCell f) := by
  unfold State.commandAndCell
  split
  · exact takeCommand s
  · split
    · dsimp only
      split
      · exact ((takeCommand s).trans (driveCensus _)).trans
          ⟨fun _ => rfl, rfl, rfl, rfl, rfl, rfl, rfl, rfl, rfl, rfl⟩
      · exact ((driveCensus s).trans (takeCommand _)).trans
          ⟨fun _ => rfl, rfl, rfl, rfl, rfl, rfl, rfl, rfl, rfl, rfl⟩
    · exact (takeCommand s).trans (driveCensus _)

theorem heedCues (s : State) (bits : BitVec 4) (n : Option (Fin 16)) :
    SameTrunk s (s.heedCues bits n) := by
  unfold State.heedCues
  split
  · refine trans (trans ?_ (mapStreams _ _)) (cleanQueue _)
    exact ⟨fun _ => rfl, rfl, rfl, rfl, rfl, rfl, rfl, rfl, rfl, rfl⟩
  · exact refl s

theorem chooseAll (s : State) (old : Vector Slot 24) (stall : BitVec 24) (f : Frame) :
    SameTrunk s (s.chooseAll old stall f) := mapStreams _ _

theorem chooseUnheard (s : State) (f : Frame) : SameTrunk s (s.chooseUnheard f) := mapStreams _ _

theorem tryCandidate (s : State) (n : Fin 16) : SameTrunk s (s.tryCandidate n) := by
  unfold State.tryCandidate
  split
  · exact refl s
  · split
    · exact closeOne _ _ _
    · split
      · exact refl s
      · exact ⟨fun _ => rfl, rfl, rfl, rfl, rfl, rfl, rfl, rfl, rfl, rfl⟩

theorem tryCandidates (ns : List (Fin 16)) (s : State) : SameTrunk s (s.tryCandidates ns) := by
  induction ns generalizing s with
  | nil => exact refl s
  | cons n ns ih =>
    unfold State.tryCandidates
    dsimp only
    split
    · exact tryCandidate s n
    · exact (tryCandidate s n).trans (ih _)

/-- A choice of the arbiter leaves the trunk protocol, whatever stream it closes (R107, R111). -/
theorem chooseBid (s : State) : SameTrunk s s.chooseBid := by
  have h : SameTrunk s { s with chosenBid := none } :=
    ⟨fun _ => rfl, rfl, rfl, rfl, rfl, rfl, rfl, rfl, rfl, rfl⟩
  unfold State.chooseBid
  dsimp only
  split
  · exact h.trans (tryCandidates _ _)
  · exact h

theorem chooseAtHeader (s : State) (f : Frame) : SameTrunk s (s.chooseAtHeader f) := by
  unfold State.chooseAtHeader
  split
  · exact chooseBid s
  · exact ⟨fun _ => rfl, rfl, rfl, rfl, rfl, rfl, rfl, rfl, rfl, rfl⟩

/-- A station that has a part in the map, or is not LEAVING, is left alone by the check of R101. -/
theorem checkLeft_of_part (s : State) (h : s.membership = .leaving → s.hasPart = true) :
    s.checkLeft = s := by
  unfold State.checkLeft
  split
  · rename_i hl
    rw [h hl.1] at hl
    exact absurd hl.2 (by simp)
  · rfl

end SameTrunk

/-- Whether a station has a part in the map is read from the entries and its number (R101). -/
theorem SameTrunk.hasPart {s t : State} (h : SameTrunk s t) : t.hasPart = s.hasPart := by
  have e : ∀ u : State, u.hasPart = true ↔ ∃ i : Fin 24, u.slots[i].entry.hasPart u.number = true := by
    intro u
    simp only [State.hasPart, List.any_eq_true]
    constructor
    · rintro ⟨sl, hm, hp⟩
      obtain ⟨i, hi, rfl⟩ := Array.mem_iff_getElem.1 (Array.mem_toList_iff.1 hm)
      exact ⟨⟨i, by simpa using hi⟩, by simpa using hp⟩
    · rintro ⟨i, hp⟩
      exact ⟨u.slots[i], by simp, hp⟩
  rw [Bool.eq_iff_iff, e, e, h.number]
  simp only [h.entries]

end Sys2Proof.Machine
end

