-- ==== Sys2Proof/Laws/Step.lean ====
section
/-! SUPPORT. Every command and every step goes on. -/

namespace Sys2Proof.Machine

/-- Every command answers a next state: no meaning stops. -/
theorem exec_goes (c : Instr) (s : State) : ∃ t, exec c s = .next t := by
  cases c <;> exact ⟨_, rfl⟩

/-- Every step goes on. -/
theorem step_goes (s : State) : Goes s := by
  unfold Goes step
  split
  · exact ⟨s, rfl⟩
  · exact exec_goes _ _

/-- A property that every command keeps, and the queue does not matter to, is kept by every step. -/
theorem keeps_of_exec (inv : State → Prop)
    (queue : ∀ s q, inv s → inv { s with pending := q })
    (command : ∀ c s t, inv s → exec c s = .next t → inv t) : Keeps inv := by
  intro s t hs ht
  unfold step at ht
  split at ht
  · cases ht; exact hs
  · exact command _ _ _ (queue _ _ hs) ht

/-- No step meets a fault or a refusal. -/
theorem step_never_stops (s : State) :
    (∀ r, step s ≠ .fault r) ∧ ∀ r, step s ≠ .refused r := by
  obtain ⟨t, h⟩ := step_goes s
  simp [h]

end Sys2Proof.Machine
end

