-- ==== Sys2Proof/WellFormed.lean ====
section
/-! DEFINITION. Which commands can come at all: the bounds that the operands' types do not give.
No meaning reads these checks; they say what the spec's bus and trunk can bring. -/

namespace Sys2Proof

/-- At most the eight bits of the arbitration part are read (R12). -/
def arbitrationOk (arb : List Halves) : Bool := arb.length ≤ 8

/-- A write carries one to four bytes (R182). -/
def writeSizeOk (bytes : Nat) : Bool := 1 ≤ bytes && bytes ≤ 4

/-- A profile is 7 to 67 words long, so a read of it brings 1 to 67 (R185). -/
def profileReadOk (words : List Word) : Bool := 1 ≤ words.length && words.length ≤ 67

/-- A buffer read brings 1 to 8 words, the room of the staging queue (R143). -/
def bufferReadOk (words : List Word) : Bool := 1 ≤ words.length && words.length ≤ 8

/-- An unknown command code is none of OPEN, CLOSE and STANDING (R187, R199). -/
def codeUnknownOk (code : BitVec 4) : Bool := code == 0 || 4 ≤ code.toNat

/-- A captured offset is the first word of a peer-table entry (8 bytes each from 0x200) or of a
stream-status entry (16 bytes each from 0x300) (R192). -/
def captureOffsetOk (offset : BitVec 12) : Bool :=
  let n := offset.toNat
  (0x200 ≤ n && n < 0x300 && n % 8 == 0) || (0x300 ≤ n && n < 0x400 && n % 16 == 0)

/-- A header that arrives intact or damaged. -/
def HeaderRx.wf : HeaderRx → Bool
  | .intact _ => true
  | .damaged arb => arbitrationOk arb

/-- The command is one the spec's buses and pins can bring. -/
def Instr.wf : Instr → Bool
  | .registerWrite _ bytes _ => writeSizeOk bytes
  | .entryCapture offset => captureOffsetOk offset
  | .frameStart _ arb => arbitrationOk arb
  | .bootstrap arb => arbitrationOk arb
  | .damagedHeader arb => arbitrationOk arb
  | .damageLimit arb => arbitrationOk arb
  | .winRecordExpiry header => header.wf
  | .profileReadDone words => profileReadOk words
  | .sendBufferRead words => bufferReadOk words
  | .commandCodeUnknown code _ => codeUnknownOk code
  | .powerOn | .rstn | .start | .leave | .reset _ _ | .openCmd _ | .closeCmd _ | .standingCmd _
  | .profileAddressWrite _ | .eventsWrite _ | .streamEventsWrite _ | .eventEnableWrite _
  | .streamEventEnableWrite _ | .cueEdge _ | .cueoutPulseEnd _ | .quietWaitExpiry
  | .frameTimerExpiry | .headerArrival _ | .cellArrival _ | .readbackCollision _
  | .censusCellArrival _ | .joinAttemptsLimit _ | .censusReadbackLimit _ | .profileFault
  | .sendDescriptorRead _ | .sendHandBack | .sendBusError | .listenDescriptorRead _
  | .listenWordWrite | .listenHandBack | .listenBusError | .rstnRise | .sendStatusWrite
  | .listenStatusWrite => true

end Sys2Proof
end

