-- ==== Sys2Proof/Tests/Slice0.lean ====
section
/-! SUPPORT. Our own tests: what `Instr.wf` refuses, a few single steps, and for every statement with
hypotheses a state and operands that meet them all. -/


namespace Sys2Proof.Tests

open Sys2Proof.Machine

/-! ### Commands that cannot come -/

theorem test_wf_refuses_write_of_no_byte : (Instr.registerWrite 0x14 0 1).wf = false := by decide
theorem test_wf_refuses_write_of_five_bytes : (Instr.registerWrite 0x14 5 1).wf = false := by decide
theorem test_wf_refuses_capture_of_second_word : (Instr.entryCapture 0x204).wf = false := by decide
theorem test_wf_refuses_capture_of_register : (Instr.entryCapture 0x008).wf = false := by decide
theorem test_wf_refuses_long_arbitration_frame_start :
    (Instr.frameStart true (List.replicate 9 (true, false))).wf = false := by decide
theorem test_wf_refuses_long_arbitration_bootstrap :
    (Instr.bootstrap (List.replicate 9 (true, false))).wf = false := by decide
theorem test_wf_refuses_long_arbitration_damaged :
    (Instr.damagedHeader (List.replicate 9 (true, false))).wf = false := by decide
theorem test_wf_refuses_long_arbitration_limit :
    (Instr.damageLimit (List.replicate 9 (true, false))).wf = false := by decide
theorem test_wf_refuses_long_arbitration_expiry :
    (Instr.winRecordExpiry (.damaged (List.replicate 9 (true, false)))).wf = false := by decide
theorem test_wf_refuses_empty_profile_read : (Instr.profileReadDone []).wf = false := by decide
theorem test_wf_refuses_long_profile_read :
    (Instr.profileReadDone (List.replicate 68 0)).wf = false := by decide
theorem test_wf_refuses_empty_buffer_read : (Instr.sendBufferRead []).wf = false := by decide
theorem test_wf_refuses_nine_buffer_words :
    (Instr.sendBufferRead (List.replicate 9 0)).wf = false := by decide
theorem test_wf_refuses_known_code : (Instr.commandCodeUnknown 1 0).wf = false := by decide
theorem test_wf_accepts_profile_read : (Instr.profileReadDone (List.replicate 67 0)).wf = true := by
  decide

/-! ### A station to test with -/

/-- The next state, if there is one. -/
def nextOf : Host.Outcome State Fault Refusal → Option State
  | .next t => some t
  | _ => none

/-- A command answers a next state with this property. -/
def runs (i : Instr) (s : State) (p : State → Bool) : Bool := (nextOf (exec i s)).any p

/-- A send stream of two slots under label 100. -/
def sender : Machine.Stream :=
  { Machine.Stream.fresh
      { direction := .send, label := 100, width := 2, cls := .paced, priority := 2
        startMode := .preempt, cue := none, ringBase := 0x1000 } with
    state := .repairing, everFull := true }

/-- A listen stream under label 200, bound to line 1. -/
def listener : Machine.Stream :=
  { Machine.Stream.fresh
      { direction := .listen, label := 200, width := 0, cls := .paced, priority := 0
        startMode := .wait, cue := some ⟨1, .startStop⟩, ringBase := 0x2000 } with
    state := .tuned }

/-- Holder of slot 0: this station. -/
def mine : Claimant := ⟨3, 100, 2⟩

/-- Holder of slot 1: station 5. -/
def theirs : Claimant := ⟨5, 200, 1⟩

/-- A cell this station drives in slot 0. -/
def myCell : Cell := ⟨3, 2, 100, 4, false, 0xCAFE⟩

/-- A frame that has brought nothing yet. -/
def opened (census : Bool) : Frame := ⟨census, false, .due, 0, [], none⟩

/-- Station 3, a member, at the start of an ordinary frame: it holds slot 0, station 5 holds slot 1,
slot 2 is FREE, slots 3 and 4 are pending, and the rest is UNKNOWN. -/
def member : State :=
  { State.reset with
    membership := .member, number := 3, aligned := true, index := 5, cycle := 7, timer := .ordinary
    frame := some (opened false), cueForward := Vector.replicate 4 (some 1)
    slots := ((((State.reset.slots.set 0 ⟨.held mine 1, false⟩).set 1 ⟨.held theirs 0, false⟩).set 2
      ⟨.free, false⟩).set 3 ⟨.claimPending ⟨⟨6, 300, 1⟩, 0x000704⟩ (some theirs), false⟩).set 4
      ⟨.releasePending ⟨5, 201, 1⟩, false⟩
    peers := State.reset.peers.set 5 ⟨.present, 0, some 7, none⟩
    drive := { Drive.nothing with cells := Drive.nothing.cells.set 0 (some myCell) }
    streams := (State.reset.streams.set 0 (some sender)).set 1 (some listener) }

/-- The member after its header. -/
def afterHeader : State :=
  { member with frame := some { opened false with header := .intact 1 } }

/-- The member when all of its frame has come. -/
def delivered : State :=
  { member with frame := some { opened false with header := .intact 1, arrived := 24 } }

/-- A station in another state, in a census frame whose census cells 0 to 30 have come, all silent. -/
def lastCensusCell (m : Membership) : State :=
  { member with
    membership := m
    drive := Drive.nothing
    frame := some
      { opened true with
        header := .intact 0, arrived := 31, heard := List.replicate 31 .silent
        ownReadback := some true } }

/-- The master port serves stream 0 with this operation of this stream. -/
def serving (st : Machine.Stream) (kind : BusKind) (discard : Bool) : State :=
  { member with
    portServing := some 0
    streams := member.streams.set 0 (some { st with op := some ⟨kind, 0x1000, discard⟩ }) }

/-- An intact header of nothing but VETO clear. -/
def quiet : HeaderBits := encodeHeader Header.blank

/-! ### Single steps -/

theorem test_start_fetches : runs .start State.reset (fun t => t.membership = .loading) = true := by
  decide

theorem test_ident_reads : State.reset.readWord 0 = 0x57440330#32 := by decide

theorem test_member_status_reads : member.readWord 8 = 0x00000004#32 := by decide

theorem test_header_settles :
    runs (.headerArrival quiet) member (fun t =>
      t.slots[3].entry = .held ⟨6, 300, 1⟩ 0 ∧ t.slots[4].entry = .free
        ∧ t.slots[0].entry = .held mine 1) = true := by decide +kernel

theorem test_veto_reverts :
    runs (.headerArrival (encodeHeader { Header.blank with veto := true })) member (fun t =>
      t.slots[3].entry = .held theirs 0 ∧ t.slots[4].entry = .held ⟨5, 201, 1⟩ 0) = true := by
  decide +kernel

theorem test_second_damaged_readback :
    runs (.readbackCollision (encodeCell myCell ^^^ 1)) afterHeader (fun t =>
      t.slots[0].entry = .unsure [mine]) = true := by decide +kernel

theorem test_intact_readback :
    runs (.cellArrival (encodeCell myCell)) afterHeader (fun t =>
      t.slots[0].entry = .held mine 0) = true := by decide +kernel

theorem test_zero_cell_fails : cellPasses 0 = false := by decide +kernel

theorem test_zero_census_cell_fails : censusPasses 0 = false := by decide +kernel

theorem test_halves_arrive_as_the_bits :
    receiveHeader false (sendHeader quiet) = .intact quiet := by decide +kernel

theorem test_corrupt_bit_damages_the_header :
    receiveHeader true [(true, false), (true, true), (false, false), (false, false), (false, false)]
      = .damaged [] := by decide

theorem test_loser_stops_at_its_first_lost_bit :
    bidBitsDriven [some true, some true, some true] ⟨1, 3, false, 2, 100⟩ = [true, false] := by decide

theorem test_committing_header_that_takes_close_leaves_ever_full :
    runs (.headerArrival quiet) { member with
        command := some ⟨.closeStream, 0⟩
        slots := member.slots.set 3 ⟨.claimPending ⟨mine, 0x000704⟩ none, false⟩
        streams := member.streams.set 0 (some { sender with everFull := false, state := .claiming }) }
      (fun t => t.streams[0].any fun st => st.state == .closing && !st.everFull) = true := by
  decide +kernel

theorem test_close_with_no_part_sets_the_event :
    runs (.headerArrival quiet) { member with
        command := some ⟨.closeStream, 0⟩
        slots := member.slots.set 0 ⟨.free, false⟩ }
      (fun t => t.streams[0].any fun st => st.state == .closed && st.event) = true := by
  decide +kernel

theorem test_announcing_cell_declares_nothing :
    ({ member with membership := .announcing }.composeCell).heldCount = 0
      ∧ (member.composeCell).heldCount = 1 := by decide

theorem test_member_status_after_damage :
    runs (.damagedHeader []) member (fun t => t.readWord 8 = 0x00010004#32 ∧ t.vetoOwed) = true := by
  decide

theorem test_ring_end_starves :
    runs (.sendDescriptorRead 0) (serving sender .firstWord false) (fun t =>
      t.streams[0].any fun st => st.ringEnd && st.starved && st.event) = true := by decide

theorem test_part_asks_second_word :
    runs (.sendDescriptorRead 0x80000002) (serving sender .firstWord false) (fun t =>
      t.streams[0].any fun st => st.op == some ⟨.secondWord 0 0x80000002, 0x1004, false⟩) = true := by
  decide

/-! ### States and operands that meet the hypotheses of the statements -/

/-- The member with two commands waiting. -/
def queued : State := { member with pending := [.powerOn, .start] }

theorem witness_StepRunsTheFrontCommand :
    queued.pending = .powerOn :: [.start] ∧ member.pending = [] := by decide

theorem witness_ResetCommandsGiveResetValues :
    member.rstnLow = false ∧ { member with rstnLow := true }.rstnLow = true := by decide

theorem witness_writes_ignored_while_rstn_low : { member with rstnLow := true }.rstnLow = true := by
  decide

theorem witness_RequestsFollowTheTable :
    member.rstnLow = false ∧ State.reset.rstnLow = false := by decide

/-- A MEMBER whose map holds nothing of it. -/
def partless : State := { member with slots := State.reset.slots }

theorem witness_StartAndLeaveGiveTheirValues :
    (State.reset.rstnLow = false ∧ State.reset.membership = .offline
      ∧ { State.reset with membership := Membership.refused }.membership = .refused)
    ∧ (lastCensusCell .announcing).rstnLow = false
    ∧ (lastCensusCell .announcing).membership = .announcing
    ∧ (lastCensusCell .listening).membership = .listening
    ∧ { State.reset with membership := Membership.loading }.membership = .loading
    ∧ partless.rstnLow = false ∧ partless.membership = .member ∧ partless.hasPart = false
    ∧ runs .leave partless (fun t => t.membership == .offline && t.events.getLsbD 3) = true := by
  decide

/-- A send descriptor of two words, one of which has left. -/
def startedHead : TxDesc := { TxDesc.ofWords 7 0x80000002 0x3000 with gone := 1, lastStamp := 0x000704 }

/-- A send descriptor of two words, of which none has left. -/
def freshHead : TxDesc := TxDesc.ofWords 7 0x80000002 0x3000

/-- A receive descriptor of four words that holds one. -/
def filling : RxDesc := { RxDesc.ofWords 255 0x80000004 0x3000 with count := 1 }

/-- The heads, current descriptors and operations that the clauses of `RingClosed` tell apart. -/
theorem witness_RingClosed :
    ({ sender with held := [startedHead] }.held = [startedHead] ∧ startedHead.gone ≠ 0
      ∧ startedHead.keep = false ∧ { startedHead with keep := true }.gone ≠ 0
      ∧ (∀ d ∈ [freshHead].head?, d.gone = 0) ∧ sender.held = [])
    ∧ ({ listener with current := some filling }.current = some filling ∧ filling.count ≠ 0
      ∧ { listener with next := some filling }.next.elim listener.fetchPos (·.index) = 255
      ∧ (RxDesc.ofWords 0 0x80000004 0x3000).count = 0 ∧ listener.current = none)
    ∧ { sender with op := some ⟨.bufferRead 2, 0x1000, false⟩ }.op = some ⟨.bufferRead 2, 0x1000, false⟩
    ∧ { sender with op := some ⟨.handBack, 0x1000, false⟩ }.op = some ⟨.handBack, 0x1000, false⟩ := by
  decide

theorem test_close_truncates_a_started_head :
    (({ sender with held := [startedHead] }.closeSend .host true).writeBack,
      ({ sender with held := [startedHead] }.closeSend .host true).ringIndex)
        = ([⟨startedHead, 0x000704, true, false, false, false⟩], 8) := by decide

theorem test_close_truncates_a_filling_descriptor :
    (({ listener with current := some filling }.closeListen .host).writeQueue,
      ({ listener with current := some filling, fetchPos := 3 }.closeListen .host).ringIndex)
        = ([WriteItem.done ⟨filling, false, true, false, false, false⟩], 3) := by decide

/-- The definition of a sender whose label the map does not carry. -/
def noPart : StreamDef := { sender.defn with label := 101, width := 1 }

theorem witness_LeaveClosesEveryStream :
    member.rstnLow = false ∧ member.membership = .member ∧ member.hasPart = true
      ∧ member.streams[0] = some sender ∧ sender.isOpen = true ∧ sender.isSend = true
      ∧ { member with chosenBid := none }.streamHasPart 0 sender = true
      ∧ { member with chosenBid := none }.streamHasPart 0 { sender with defn := noPart } = false
      ∧ listener.isOpen = true ∧ listener.isSend = false
      ∧ { sender with state := StreamState.closing }.state = .closing
      ∧ member.slots[(0 : Fin 24)].entry.heldBy member.number = true
      ∧ Entry.StaysIntended 3 (.releasePending mine) := by
  refine ⟨by decide, by decide, by decide, by decide, by decide, by decide, by decide, by decide,
    by decide, by decide, by decide, by decide, .inr (.inl ⟨mine, rfl, rfl⟩)⟩

theorem witness_CommandWriteIsRecordedTakenOrRejected :
    ((member.rstnLow = false ∧ member.command = none ∧ member.membership ≠ .offline
      ∧ member.membership ≠ .loading ∧ member.membership ≠ .refused)
    ∧ State.reset.rstnLow = false ∧ State.reset.command = none
    ∧ State.reset.membership = .offline)
    ∧ { member with command := some ⟨.openStream, 0⟩ }.command.isSome = true
    ∧ { member with command := some ⟨.openStream, 0⟩ }.rstnLow = false
    ∧ (0 : BitVec 4) ≠ 1 ∧ (0 : BitVec 4) ≠ 2 ∧ (0 : BitVec 4) ≠ 3
    ∧ (15 : BitVec 4) ≠ 1 ∧ (15 : BitVec 4) ≠ 2 ∧ (15 : BitVec 4) ≠ 3 := by decide

theorem witness_OpenAndCloseAnswers :
    { member with command := some ⟨.openStream, 0⟩ }.judgeCommand ⟨.openStream, 0⟩ ≠ .done
      ∧ { member with command := some ⟨.openStream, 0⟩ }.command = some ⟨.openStream, 0⟩ := by
  decide

/-- A CLOSED sender of this station that holds nothing and is no candidate. -/
def closedSender : Machine.Stream :=
  Machine.Stream.fresh noPart

/-- A CLOSED listener. -/
def closedListener : Machine.Stream := { listener with state := .closed }

/-- The member with an OPEN pending for stream 2. -/
def opening (st : Machine.Stream) : State :=
  { member with command := some ⟨.openStream, 2⟩, streams := member.streams.set 2 (some st) }

theorem witness_OpenSetsUpTheStream :
    ((opening closedSender).membership = .member
      ∧ (opening closedSender).command = some ⟨.openStream, 2⟩
      ∧ (opening closedSender).streams[(2 : BitVec 4).toFin] = some closedSender
      ∧ closedSender.state = .closed ∧ closedSender.isSend = true
      ∧ (opening closedSender).openQueue.length < 8 ∧ 1 ≤ closedSender.defn.width
      ∧ ownHoldings (opening closedSender).slots 3 101 = []
      ∧ candidacyUnder (opening closedSender).slots 3 101 = [])
    ∧ (opening closedListener).streams[(2 : BitVec 4).toFin] = some closedListener
    ∧ closedListener.state = .closed ∧ closedListener.isSend = false := by decide

/-- The member with a CLOSE pending. -/
def closing (n : BitVec 4) : State := { member with command := some ⟨.closeStream, n⟩ }

theorem witness_CloseEndsTheStream :
    (closing 0).membership = .member ∧ (closing 0).command = some ⟨.closeStream, 0⟩
      ∧ (closing 0).streams[(0 : BitVec 4).toFin] = some sender ∧ sender.state ≠ .closed
      ∧ sender.isOpen = true ∧ sender.isSend = true ∧ (closing 0).streamHasPart 0 sender = true
      ∧ (closing 1).command = some ⟨.closeStream, 1⟩
      ∧ (closing 1).streams[(1 : BitVec 4).toFin] = some listener
      ∧ listener.state ≠ .closed ∧ listener.isOpen = true ∧ listener.isSend = false
      ∧ { sender with state := StreamState.closing }.isOpen = false
      ∧ (closing 0).takeCommand.slots[0].intent = true := by decide

theorem witness_RegisterWritesAct :
    (State.reset.rstnLow = false ∧ State.reset.streams[0] = none
      ∧ member.streams[0] = some sender ∧ member.rstnLow = false)
    ∧ 3 < 4 ∧ (0xFFC : BitVec 12).toNat % 4 = 0 ∧ (0xFFC : BitVec 12) ≠ 0x028
    ∧ (0x02C : BitVec 12) ≠ 0x028 ∧ (0x000 : BitVec 12) ≠ 0x004 ∧ (0x008 : BitVec 12) ≠ 0x00C
    ∧ (0x018 : BitVec 12) ≠ 0x014
    ∧ exec (.registerWrite 0x004 4 3) member = .next member
    ∧ exec (.registerWrite 0x004 4 0) member = .next member := by
  refine ⟨by decide, by decide, by decide, by decide, by decide, by decide, by decide, by decide,
    rfl, rfl⟩

/-- The member with an entry captured at this offset. -/
def captured (base : Nat) : State := { member with capture := some ⟨base, [1, 2, 3, 4]⟩ }

theorem witness_RegistersAndWindowsShowTheState :
    member.slots[(0 : Fin 24)].entry = .held mine 1
      ∧ member.readWord 0x100 = 0x00640382#32
      ∧ { member with slots := member.slots.set 23 ⟨.unsure [theirs, mine], false⟩ }.readWord 0x15C
          = 0x006403A5#32
      ∧ member.streams[(0 : Fin 16)] = some sender ∧ member.streams[(15 : Fin 16)] = none
      ∧ (12 ≤ 12 ∧ 63 < 64 ∧ 88 ≤ 88 ∧ 127 < 128 ∧ 256 ≤ 256 ∧ 1023 < 1024)
      ∧ { member with membership := .leaving }.readBytes 0x008 1 = 5
      ∧ member.readBytes 0x003 2 = 0x57 ∧ member.readBytes 0x000 3 = 0x440330
      ∧ member.readBytes 0x000 0 = 0 := by
  decide

theorem witness_FirstWordReadCapturesTheEntry :
    (captured 0x200).capture = some ⟨0x200 + 8 * 0, [1, 2, 3, 4]⟩
      ∧ (captured 0x2F8).capture = some ⟨0x200 + 8 * 31, [1, 2, 3, 4]⟩
      ∧ (captured 0x3F0).capture = some ⟨0x300 + 16 * 15, [1, 2, 3, 4]⟩
      ∧ (captured 0x3F0).readWord 0x3FC = 4 ∧ (captured 0x2F8).readWord 0x2FC = 2
      ∧ (captured 0x2F8).readWord 0x204 = 0
      ∧ member.capture = none
      ∧ (∀ k : Fin 32, 4 * ((0x204 : BitVec 12).toNat / 4) ≠ 0x200 + 8 * k.val)
      ∧ (∀ n : Fin 16, 4 * ((0x204 : BitVec 12).toNat / 4) ≠ 0x300 + 16 * n.val) := by decide

theorem witness_PinsAndTimersAct :
    (member.membership = .member ∧ member.cueForward[(3 : BitVec 2).toNat]'(by decide) = some 1
      ∧ State.reset.membership ≠ .member
      ∧ State.reset.cueForward[(0 : BitVec 2).toNat]'(by decide) = none)
    ∧ { member with timer := Timer.quietWait }.timer = .quietWait ∧ member.timer = .ordinary
    ∧ member.timer ≠ .quietWait ∧ State.reset.timer ≠ .ordinary
    ∧ State.reset.timer ≠ .census := by decide

theorem delivered_delivered : Delivered delivered := by
  intro f h
  cases h
  decide

/-- A LOST station between two frames of its own. -/
def lost : State := { delivered with membership := .lost }

theorem witness_FrameStartCutsTheFrameShort :
    Delivered delivered ∧ member.frame = some (opened false) ∧ (opened false).header = .due
      ∧ (afterHeader.frame = some { opened false with header := .intact 1 }
        ∧ ({ opened false with header := .intact 1 } : Frame).header ≠ .due
        ∧ ({ opened false with header := .intact 1 } : Frame).arrived < 24)
      ∧ ((lastCensusCell .member).frame.any fun f =>
          f.header != .due && f.census && decide (f.arrived < 32)) = true
      ∧ State.reset.membership.receives = false :=
  ⟨delivered_delivered, by decide, by decide, by decide, by decide, by decide⟩

theorem witness_FrameStartCutEndsMembership :
    { member with membership := .leaving, damageCount := 4 }.membership.receives = true
      ∧ ({ member with membership := .leaving, damageCount := 4 }.cutShort []).membership.receives
        = false := by decide +kernel

/-- A LISTENING station, 511 frame starts without a census mark behind it. -/
def waiting : State :=
  { State.reset with
    membership := .listening, bootstrap := 511, timer := .ordinary
    frame := some { opened false with header := .intact 0, arrived := 24 } }

theorem witness_FrameStartMovesTheIndex :
    delivered.membership.receives = true ∧ (delivered.cutShort []).membership.receives = true
      ∧ ((delivered.cutShort []).membership = .leaving → (delivered.cutShort []).hasPart = true)
      ∧ (lost.cutShort []).membership.receives = true
      ∧ waiting.membership = .listening ∧ waiting.aligned = false ∧ waiting.bootstrap = 511
      ∧ waiting.tsync ≠ .mark
      ∧ runs (.frameStart false []) { waiting with bootstrap := 0 } (fun t => t.bootstrap == 1) = true
      ∧ runs (.frameStart true []) lost (fun t => t.membership == .listening && t.bootstrap == 0) = true
      ∧ Delivered waiting :=
  ⟨by decide, by decide +kernel, by decide +kernel, by decide +kernel, rfl, rfl, rfl, by decide,
    by decide +kernel, by decide +kernel, by intro f h; cases h; decide⟩

theorem witness_FrameStartDrivesWhatIsOwed :
    delivered.membership.receives = true ∧ (delivered.cutShort []).membership.drives = true
      ∧ ((delivered.cutShort []).membership = .leaving → (delivered.cutShort []).hasPart = true)
      ∧ ((delivered.cutShort []).aligned = true → (delivered.cutShort []).index ≠ 255)
      ∧ (delivered.cutShort []).streams[(1 : Fin 16)] = some listener
      ∧ runs (.frameStart false []) delivered (fun t =>
          t.drive.header.stall.getLsbD 1 ∧ !t.drive.header.stall.getLsbD 0) = true := by
  decide +kernel

/-- The member before a frame in which its sender has chosen slot 0 for its first word. -/
def ready : State :=
  { delivered with
    streams := delivered.streams.set 0 (some { sender with
      chosen := [0], staging := [⟨7, 0, true⟩, ⟨8, 0, false⟩]
      held := [TxDesc.ofWords 0 0x80000002 0x3000] }) }

/-- The member of `ready` at a ring end, its last staged word chosen. -/
def draining : State :=
  { delivered with
    streams := delivered.streams.set 0 (some { sender with
      chosen := [0], staging := [⟨8, 0, false⟩], ringEnd := true
      held := [{ TxDesc.ofWords 0 0x80000002 0x3000 with gone := 1, fetched := 2 }] }) }

theorem test_last_word_at_a_ring_end_starves :
    runs (.frameStart false []) draining (fun t =>
      t.streams[0].any fun st => st.starved && st.event && st.staging == []) = true := by
  decide +kernel

theorem witness_frame_start_drives_a_cell :
    runs (.frameStart false []) ready
      (fun t => t.drive.cells[0] == some ⟨3, 2, 100, 0, false, 7⟩) = true := by decide

theorem witness_FrameStartSendsTheChosenWords :
    ready.membership.receives = true ∧ (ready.cutShort []) = ready
      ∧ ready.membership.drives = true ∧ (ready.membership = .leaving → ready.hasPart = true)
      ∧ (ready.streams[(0 : Fin 16)].any fun st => st.isSend && st.cueAction == none
          && (st.chosen.filter fun i => ready.slots[i].entry.heldBy 3 && !ready.slots[i].intent) == [0]
          && decide st.chosen.Nodup && st.staging.length == 2 && st.held.length == 1) = true
      ∧ (∀ m : Fin 16, m ≠ 0 → ready.streams[m].all (·.chosen == []) = true)
      ∧ ready.tsync ≠ .mark ∧ ready.index ≠ 255
      ∧ (TxDesc.ofWords 0 0x80000002 0x3000).gone + 1 < (TxDesc.ofWords 0 0x80000002 0x3000).count
      ∧ (TxDesc.ofWords 0 0x80000001 0x3000).count
          ≤ (TxDesc.ofWords 0 0x80000001 0x3000).gone + 1
      ∧ [TxDesc.ofWords 1 0x80000000 0, TxDesc.ofWords 2 0x80000000 0, freshHead].takeWhile
          (fun z => z.count == 0) = [TxDesc.ofWords 1 0x80000000 0, TxDesc.ofWords 2 0x80000000 0]
      ∧ [freshHead].takeWhile (fun z => z.count == 0) = [] := by decide +kernel

theorem witness_IntactHeaderSettlesJudgesReleases :
    (member.frame = some (opened false) ∧ (opened false).header = .due
      ∧ (opened false).unexpected = false ∧ member.membership.judges = true)
    ∧ ({ member with membership := .leaving, slots := State.reset.slots }.membership.judges = true
      ∧ { member with membership := .leaving, slots := State.reset.slots }.hasPart = false)
    ∧ runs (.headerArrival quiet) member (fun t => !t.slots[0].intent) = true
    ∧ runs (.headerArrival quiet) (closing 0) (fun t => t.slots[0].intent) = true
    ∧ { member with membership := .listening }.frame = some (opened false)
    ∧ { member with frame := some { opened false with unexpected := true } }.frame
        = some { opened false with unexpected := true } := by decide +kernel

theorem witness_VetoDecidesPendingEntries :
    (1 : BitVec 24).getLsbD 0 = true ∧ (member.peer 5).state = .present
      ∧ (member.applyReleases 3).slots[(1 : Fin 24)].entry = .releasePending theirs
      ∧ (member.applyReleases 3).slots[(0 : Fin 24)].entry = .held mine 1
      ∧ ({ member with membership := .announcing }.applyReleases 3).slots[(0 : Fin 24)].entry
          = .releasePending mine := by decide

theorem witness_BidIsValidByFourConditions :
    (Entry.free = .free ∧ Entry.held theirs 0 = .held theirs 0)
      ∧ member.bidValid ⟨3, 5, false, 2, 400⟩ .free = true
      ∧ member.bidValid ⟨3, 7, false, 2, 400⟩ .free = false := by decide

theorem witness_BidActsOnItsTarget :
    (400 : Label) ≠ 0 ∧ (2 : BitVec 5).toNat = 2 ∧ (23 : BitVec 5).toNat = 23
      ∧ (24 : BitVec 5).toNat ≠ 23 ∧ (0 : Label) = 0 := by decide

theorem witness_DamagedHeaderUnsettlesTheMap :
    (member.frame = some (opened false) ∧ (opened false).header = .due
      ∧ member.membership.judges = true ∧ member.membership.drives = true
      ∧ { member with damageCount := 3 }.damageCount < 4
      ∧ { member with membership := .announcing }.membership.drives = false
      ∧ { member with membership := .announcing }.membership.judges = true
      ∧ { member with membership := .lost }.frame = some (opened false))
    ∧ listener.isOpen = true ∧ listener.defn.cue.isSome = true ∧ sender.defn.cue = none
    ∧ member.command = none := by decide

theorem witness_FifthDamagedHeaderEndsMembership :
    { member with damageCount := 4 }.membership.drives = true
      ∧ { member with damageCount := 4 }.frame = some (opened false)
      ∧ (opened false).header = .due ∧ { member with damageCount := 4 }.damageCount = 4
      ∧ { member with membership := .leaving }.membership.drives = true
      ∧ member.streams[(0 : Fin 16)] = some sender ∧ sender.isOpen = true
      ∧ closedSender.state = .closed := by
  decide

/-- The member of `ready` at the start of its frame. -/
def ready' (census : Bool) : State := { ready with frame := some (opened census) }

theorem witness_HeaderAgesTheWins :
    (∀ wins ∈ [[30, 2], [29], []], { member with wins := wins }.membership.judges = true
      ∧ ({ member with wins := wins }.membership.drives = true
          → { member with wins := wins }.damageCount < 4)
      ∧ { member with wins := wins }.frame = some (opened false))
    ∧ (opened false).header = .due
    ∧ (∃ a ∈ [30, 2], 30 ≤ a) ∧ (∀ a ∈ [29], a < 30) := by decide

theorem witness_HeaderChoosesTheWords :
    (ready' false).membership.judges = true
      ∧ ((ready' false).membership.drives = true → (ready' false).damageCount < 4)
      ∧ (ready' false).frame = some (opened false) ∧ (opened false).header = .due
      ∧ (opened false).unexpected = false
      ∧ runs (.headerArrival quiet) (ready' false) (fun t => t.streams[0].any fun st =>
          st.chosen == [0] && st.isSend && st.state.openSend && !st.stalled) = true
      ∧ runs (.headerArrival (encodeHeader { Header.blank with stall := 1 })) (ready' false)
          (fun t => t.streams[0].any fun st => st.chosen == [] && st.stalled) = true
      ∧ runs (.headerArrival quiet) { ready' false with index := 255 }
          (fun t => t.streams[0].any (·.chosen == [])) = true := by decide +kernel

/-- A census cell of this station with one declaration. -/
def myCensusCell : CensusCell :=
  ⟨3, 7, true, 9, 1, Vector.replicate 8 ⟨23, 100, 2⟩⟩

/-- The member with a command pending in this membership state. -/
def commanded (m : Membership) (code : CommandCode) (n : BitVec 4) : State :=
  { member with membership := m, command := some ⟨code, n⟩, commandArgument := 77 }

theorem witness_HeaderTakesTheCommand :
    (∀ m ∈ [Membership.listening, .announcing, .member, .leaving, .lost],
      (commanded m .setStanding 0).membership.receives = true
      ∧ (commanded m .setStanding 0).frame = some (opened false)
      ∧ runs (.headerArrival quiet) (commanded m .setStanding 0) (fun t =>
          t.membership == m && t.standing == some 77 && t.lastResult == .done
            && t.events.getLsbD 8) = true)
    ∧ (∀ m ∈ [Membership.listening, .announcing, .leaving, .lost],
      runs (.damagedHeader []) (commanded m .closeStream 0) (fun t => t.lastResult == .notMember) = true)
    ∧ runs (.damagedHeader []) { commanded .member .closeStream 0 with damageCount := 4 } (fun t =>
        t.membership == .lost && t.lastResult == .notMember) = true
    ∧ runs (.headerArrival quiet) (commanded .member .openStream 15) (·.lastResult == .badStream) = true
    ∧ runs (.headerArrival quiet) (commanded .member .openStream 0) (·.lastResult == .wrongState) = true
    ∧ runs (.headerArrival quiet) (opening closedSender) (fun t => t.lastResult == .done
        && t.streams[2].any fun st => st.isOpen && !st.everFull) = true
    ∧ runs (.headerArrival quiet) { opening closedSender with
        openQueue := List.replicate 8 0
        streams := (opening closedSender).streams.set 0 (some { sender with
          state := .claiming, everFull := false }) } (·.lastResult == .queueFull) = true
    ∧ runs (.headerArrival quiet) { opening closedSender with openQueue := List.replicate 8 0 }
        (·.lastResult == .done) = true
    ∧ runs (.headerArrival quiet) (opening closedListener) (fun t => t.lastResult == .done
        && t.streams[2].any fun st => st.isOpen && st.state == .armed) = true
    ∧ runs (.damagedHeader []) (closing 0) (fun t => t.lastResult == .done
        && t.streams[0].any fun st => st.state == .closing && st.closeReason == .host) = true
    ∧ runs (.headerArrival quiet) { commanded .leaving .closeStream 0 with slots := State.reset.slots }
        (fun t => t.membership == .offline) = true
    ∧ member.command = none
    ∧ runs .profileFault (commanded .loading .setStanding 0) (fun t => t.membership == .refused
        && t.lastResult == .done && t.standing == some 77) = true := by decide +kernel

/-- A CLOSING sender. -/
def closer : Machine.Stream := { sender with state := .closing, closeReason := .host }

/-- The member with a CLOSING stream 0 whose only slot is in this entry. -/
def leavingBehind (e : Entry) : State :=
  { member with
    slots := member.slots.set 0 ⟨e, true⟩, streams := member.streams.set 0 (some closer) }

theorem witness_ClosingStreamsPassToClosed :
    closer.isSend = true ∧ closer.state = .closing
      ∧ (∀ e ∈ [Entry.held mine 1, .releasePending mine, .claimPending ⟨mine, 0⟩ none,
          .claimPending ⟨theirs, 0⟩ (some mine), .unsure [theirs, mine]],
        (leavingBehind e).streamHasPart 0 closer = true)
      ∧ (leavingBehind .free).streamHasPart 0 closer = false
      ∧ runs (.headerArrival quiet) (leavingBehind (.releasePending mine)) (fun t =>
          t.membership == .member && t.streams[0].any fun st => st.state == .closed && st.event) = true
      ∧ runs (.headerArrival quiet) (leavingBehind (.held mine 1)) (fun t =>
          t.membership == .member && t.streams[0].any fun st => st.state == .closing && !st.event) = true
      ∧ runs (.damagedHeader []) (leavingBehind .free) (fun t =>
          t.streams[0].any fun st => st.state == .closed && st.event) = true
      ∧ runs (.cellArrival 0) { leavingBehind .free with frame := afterHeader.frame } (fun t =>
          t.membership == .member && t.streams[0].any (·.state == .closed)) = true
      ∧ runs (.censusCellArrival 0) { leavingBehind .free with frame := (lastCensusCell .member).frame }
          (fun t => t.membership.maps && t.streams[0].any (·.state == .closed)) = true
      ∧ runs (.frameStart false []) { leavingBehind .free with frame := none } (fun t =>
          t.membership == .member && t.streams[0].any (·.state == .closed)) = true := by
  decide +kernel

theorem witness_ArrivalsAreClassedByTheirBits :
    (∀ i ∈ [(0 : Nat), 23], i < 24) ∧ cellPasses (encodeCell myCell) = true
      ∧ cellPasses (encodeCell myCell ^^^ 1) = false
      ∧ classifyCell (some false) (encodeCell myCell) = .damaged
      ∧ classifyCell none (encodeCell myCell) = .intact myCell
      ∧ ({ opened false with header := .intact 0x800000 } : Frame).validAt 23 = some true
      ∧ ({ opened false with header := .damaged } : Frame).validAt 0 = none
      ∧ classifyCensus 3 (encodeCensusCell myCensusCell) = .intact myCensusCell
      ∧ classifyCensus 4 (encodeCensusCell myCensusCell) = .damaged
      ∧ classifyCensus 3 (encodeCensusCell { myCensusCell with heldCount := 9 }) = .damaged
      ∧ classifyCensus 3 (encodeCensusCell { myCensusCell with
          declarations := Vector.replicate 8 ⟨24, 100, 2⟩ }) = .damaged
      ∧ classifyCensus 3 (encodeCensusCell { myCensusCell with
          declarations := Vector.replicate 8 ⟨23, 0, 2⟩ }) = .damaged
      ∧ classifyCensus 3 (encodeCensusCell myCensusCell ^^^ 1) = .damaged := by decide +kernel

theorem witness_StreamsFollowTheMap :
    (member.membership.judges = true ∧ (member.membership.drives = true → member.damageCount < 4)
      ∧ member.frame = some (opened false) ∧ (opened false).header = .due
      ∧ (opened false).unexpected = false ∧ member.command = none
      ∧ member.streams[(0 : Fin 16)] = some sender ∧ sender.isOpen = true ∧ sender.defn.cue = none
      ∧ member.streams[(1 : Fin 16)] = some listener ∧ listener.isOpen = true
      ∧ (headerFields (opened false) quiet).cue = 0
      ∧ runs (.headerArrival quiet) member (fun t => t.membership == .member
          && t.streams[0].any (·.isOpen)) = true)
    ∧ (afterHeader.membership.maps = true
      ∧ runs (.readbackCollision (encodeCell myCell ^^^ 1)) afterHeader (fun t =>
          t.membership == .member && t.streams[0].any (·.state == .suspended)) = true)
    ∧ (lastCensusCell .member).membership.maps = true
    ∧ runs (.censusCellArrival 0) (lastCensusCell .member) (fun t =>
        t.membership.maps && t.streams[0].any (·.isOpen)) = true := by decide +kernel

theorem witness_CellActsOnItsSlot :
    afterHeader.membership.maps = true
      ∧ afterHeader.frame = some { opened false with header := .intact 1 }
      ∧ ({ opened false with header := .intact 1 } : Frame).census = false
      ∧ ({ opened false with header := .intact 1 } : Frame).header ≠ .due
      ∧ ({ opened false with header := .intact 1, arrived := 23 } : Frame).arrived < 24
      ∧ { afterHeader with membership := .lost }.membership = .lost := by decide

theorem witness_CellIsWithheldInThreeCases :
    member.withholds myCell = true
      ∧ member.withholds { myCell with owner := 9, label := 100 } = true
      ∧ member.withholds { myCell with owner := 9, label := 555 } = false := by decide

theorem witness_second_damaged_readback :
    afterHeader.membership.drives = true
      ∧ afterHeader.frame = some { opened false with header := .intact 1 }
      ∧ ({ opened false with header := .intact 1 } : Frame).census = false
      ∧ ({ opened false with header := .intact 1 } : Frame).header ≠ .due
      ∧ afterHeader.drive.cells[(0 : Fin 24)] = some myCell
      ∧ afterHeader.slots[(0 : Fin 24)].entry = .held mine 1 ∧ mine.station = afterHeader.number
      ∧ classifyCell (({ opened false with header := .intact 1 } : Frame).validAt 0) 0
          ≠ .intact myCell := by
  decide +kernel

theorem witness_CellReachesTheListeners :
    afterHeader.membership.maps = true
      ∧ afterHeader.frame = some { opened false with header := .intact 1 }
      ∧ member.streams[(1 : Fin 16)] = some listener ∧ listener.isSend = false
      ∧ listener.state = .tuned ∧ listener.listenHold = false
      ∧ classifyCell (some true) (encodeCell { myCell with label := 200 })
          = .intact { myCell with label := 200 }
      ∧ classifyCell none 0 = .silent
      ∧ (member.slots[(1 : Fin 24)].entry.holder.map (·.label)) = some listener.defn.label
      ∧ ({ opened false with header := .intact 1, arrived := 23 } : Frame).arrived < 24 := by
  decide +kernel

theorem witness_CensusHeaderComposesTheCell :
    (∀ m ∈ [Membership.announcing, .member, .leaving],
      { ready' true with membership := m }.membership.judges = true
      ∧ { ready' true with membership := m }.damageCount < 4
      ∧ { ready' true with membership := m }.frame = some (opened true))
    ∧ (opened true).header = .due ∧ (opened true).census = true
    ∧ (ready' true).command = none
    ∧ runs (.damagedHeader []) (ready' true) (fun t => t.membership == .member
        && t.drive.census.any fun c => c.heldCount == 1) = true := by decide +kernel

theorem witness_census_cells_recorded :
    { member with frame := some { opened true with header := .intact 0, arrived := 30 } }.frame
        = some { opened true with header := .intact 0, arrived := 30 }
      ∧ member.membership.receives = true
      ∧ ({ opened true with header := .intact 0, arrived := 30 } : Frame).header ≠ .due
      ∧ ({ opened true with header := .intact 0, arrived := 30 } : Frame).arrived < 31 := by
  decide

/-- The frame of `lastCensusCell`. -/
def lastFrame : Frame :=
  { opened true with
    header := .intact 0, arrived := 31, heard := List.replicate 31 .silent
    ownReadback := some true }

/-- `lastCensusCell` with this station's own readback damaged. -/
def ownDamaged (m : Membership) : State :=
  { lastCensusCell m with frame := some { lastFrame with ownReadback := some false } }

theorem witness_CensusEndsListeningAndAnnouncing :
    ((lastCensusCell .listening).membership = .listening
      ∧ (lastCensusCell .listening).frame = some lastFrame ∧ lastFrame.census = true
      ∧ lastFrame.header ≠ .due ∧ lastFrame.arrived = 31)
    ∧ (lastCensusCell .announcing).membership = .announcing
    ∧ (lastCensusCell .announcing).frame = some lastFrame
    ∧ (∀ rx ∈ lastFrame.heard ++ [classifyCensus 31 0], rx ≠ .damaged)
    ∧ ((lastCensusCell .announcing).censusReadback 31 (classifyCensus 31 0)).or
        lastFrame.ownReadback = some true
    ∧ (∀ attempts ∈ [0, 1],
      { ownDamaged .announcing with joinAttempts := attempts }.membership = .announcing
      ∧ { ownDamaged .announcing with joinAttempts := attempts }.joinAttempts < 2
      ∧ ({ ownDamaged .announcing with joinAttempts := attempts }.censusReadback 31
          (classifyCensus 31 0)).or (some false) = some false)
    ∧ ((lastCensusCell .announcing).censusReadback 31 (classifyCensus 31 0)).or none = none := by
  decide

/-- Nobody has been heard. -/
def noneHeard : Census := ⟨List.replicate 32 .silent, none⟩

/-- Station 3 alone has been heard. -/
def oneHeard : Census := ⟨noneHeard.rx.set 3 (.intact myCensusCell), some true⟩

theorem witness_CensusCompletionReconciles :
    (∀ m ∈ [Membership.listening, .announcing, .member, .leaving],
      (lastCensusCell m).membership.maps = true ∧ (lastCensusCell m).frame = some lastFrame)
    ∧ lastFrame.census = true ∧ lastFrame.header ≠ .due ∧ lastFrame.arrived = 31
    ∧ (nextOf (exec (.censusCellArrival 0) (lastCensusCell .member))).any
        (fun t => t.membership.maps && t.events.getLsbD 5) = true
    ∧ oneHeard.heard 3 3 = some myCensusCell
    ∧ (∀ k : Fin 32, noneHeard.heard 3 (BitVec.ofNat 5 k.val) = none)
    ∧ sender.isSend = true ∧ sender.state.openSend = true ∧ sender.defn.cls = .paced
    ∧ listener.isSend = false := by decide +kernel

theorem witness_peers_follow_the_heard_set :
    noneHeard.heard 3 (BitVec.ofNat 5 31) = none ∧ noneHeard.rx.getD 31 .silent = .silent
      ∧ oneHeard.heard 3 (BitVec.ofNat 5 3) = some myCensusCell
      ∧ (⟨[.damaged], none⟩ : Census).rx.getD 0 .silent = .damaged := by decide

theorem witness_ReconciliationFollowsTheHeardSet :
    (member.reconcileWith oneHeard).left = [⟨3, ⟨23, 100, 2⟩⟩]
      ∧ (oneHeard.declared 3) = [⟨3, ⟨23, 100, 2⟩⟩]
      ∧ (member.reconcileWith oneHeard).slot 23 .unknown = .held ⟨3, 100, 2⟩ 0
      ∧ (member.reconcileWith oneHeard).slot 22 (.held mine 1) = .free
      ∧ (member.reconcileWith oneHeard).slot 22 (.held theirs 0) = .held theirs 0
      ∧ (member.reconcileWith oneHeard).slot 22 (.unsure [mine, theirs]) = .unsure [mine, theirs]
      ∧ (member.reconcileWith oneHeard).slot 22 .unknown = .free
      ∧ (member.reconcileWith ⟨[.damaged], none⟩).slot 22 .unknown = .unknown
      ∧ oneHeard.rx[3]? = some (.intact myCensusCell) ∧ oneHeard.own ≠ some false
      ∧ ({ oneHeard with own := some false } : Census).heard 3 3 = none := by decide +kernel

theorem witness_OwnReadbackLimits :
    ((ownDamaged .announcing).ownDamagedAt 0 = true
      ∧ { ownDamaged .announcing with joinAttempts := 2 }.ownDamagedAt 0 = true
      ∧ { ownDamaged .announcing with joinAttempts := 2 }.membership = .announcing)
    ∧ { ownDamaged .member with censusRun := 1 }.ownDamagedAt 0 = true
    ∧ { ownDamaged .leaving with censusRun := 1 }.ownDamagedAt 0 = true
    ∧ (ownDamaged .leaving).membership.drives = true
    ∧ (ownDamaged .member).frame = some { lastFrame with ownReadback := some false }
    ∧ (ownDamaged .member).censusRun = 0
    ∧ runs (.censusCellArrival 0) (ownDamaged .member) (fun t => t.membership == .member
        && t.censusRun == 1) = true
    ∧ runs (.censusCellArrival 0) { lastCensusCell .leaving with
        censusRun := 1, peers := member.peers.set 3 ⟨.present, 0, none, none⟩ } (fun t =>
        t.membership == .leaving && t.censusRun == 0) = true := by decide +kernel

/-- A profile of station 3 with one send stream of label 100. -/
def profile : List Word :=
  [0x01030001, 0, 0x02020064, 0, 0x1000, 0, 0xFCFAEF9B]

theorem witness_HostMemoryLayouts :
    (profileStream profile 0).label ≠ 0 ∧ (profileStream profile 0).direction = .send
      ∧ (profileStream profile 0).width = 2 ∧ (profileStream profile 0).ringBase.toNat % 16 = 0
      ∧ streamFault [0x01030001, 0, 0x02020000, 0, 0x1000, 0, 0] 0 = .label
      ∧ streamFault [0x01030001, 0, 0x02030064, 0, 0x1000, 0, 0] 0 = .width
      ∧ streamFault [0x01030001, 0, 0x02020064, 0, 0x1008, 0, 0] 0 = .ringBase
      ∧ streamFault [0x01030002, 0, 0x02020064, 0, 0x1000, 0, 0x02020064, 0, 0x2000, 0, 0] 1 = .sendLabel
      ∧ nextIndex 255 false = 0 ∧ nextIndex 7 true = 0 ∧ nextIndex 254 false = 255 := by decide

theorem witness_ValidProfileLoads :
    { State.reset with membership := Membership.loading }.fetched ++ profile ≠ []
      ∧ profile.length = profileLength profile ∧ headerFault profile = .none
      ∧ profileSum profile = 0 ∧ profileStation profile ≤ 31
      ∧ profileCount profile = 1 ∧ streamFault profile 0 = .none := by decide

theorem witness_BadProfileRefuses :
    headerFault [0x02030001] = .format ∧ headerFault [0x01030011] = .count
      ∧ (headerFault (profile.take 6 ++ [0]) = .none ∧ (profile.take 6 ++ [0]).length
          = profileLength (profile.take 6 ++ [0]) ∧ profileSum (profile.take 6 ++ [0]) ≠ 0)
      ∧ (profileSum [0x01200001, 0, 0x02020064, 0, 0x1000, 0, 0xFCDDEF9B] = 0
        ∧ 31 < profileStation [0x01200001, 0, 0x02020064, 0, 0x1000, 0, 0xFCDDEF9B])
      ∧ (profileSum [0x01030001, 0, 0x02030064, 0, 0x1000, 0, 0xFCF9EF9B] = 0
        ∧ streamFault [0x01030001, 0, 0x02030064, 0, 0x1000, 0, 0xFCF9EF9B] 0 = .width)
      ∧ (profile.take 6).length < profileLength (profile.take 6) := by decide

theorem witness_SendDescriptorReadActs :
    ((serving sender .firstWord false).portServing = some 0
      ∧ (serving sender .firstWord false).streams[(0 : Fin 16)]
          = some { sender with op := some ⟨.firstWord, 0x1000, false⟩ } ∧ sender.held = [])
    ∧ (0x80000002 : Word).getLsbD 31 = true ∧ (0x80000002 : Word).extractLsb' 0 12 ≠ 0
    ∧ (0x80000000 : Word).extractLsb' 0 12 = 0 ∧ (0x00000002 : Word).getLsbD 31 = false
    ∧ { sender with reading := some 0x80000002 }.reading = some 0x80000002
    ∧ (serving { sender with reading := some 0x80000002 } (.secondWord 0 0x80000002)
        false).portServing = some 0 := by decide

/-- The sender reading two buffer words of its first descriptor. -/
def reader : Machine.Stream := { sender with held := [TxDesc.ofWords 0 0x80000002 0x3000] }

theorem witness_BufferReadStagesItsWords :
    Serves (serving reader (.bufferRead 2) false) 0
        { reader with op := some ⟨.bufferRead 2, 0x1000, false⟩ } ⟨.bufferRead 2, 0x1000, false⟩
      ∧ reader.isSend = true ∧ (BusKind.bufferRead 2) = .bufferRead [(1 : Word), 2].length
      ∧ reader.fetching = some (TxDesc.ofWords 0 0x80000002 0x3000) := by
  unfold Serves
  decide

/-- A sender with a descriptor to hand back. -/
def returner : Machine.Stream :=
  { sender with writeBack := [(TxDesc.ofWords 0 0x80000002 0x3000).finish 0x000705] }

theorem witness_SendHandBackInTwoWrites :
    Serves (serving returner .statusWrite false) 0
        { returner with op := some ⟨.statusWrite, 0x1000, false⟩ } ⟨.statusWrite, 0x1000, false⟩
      ∧ Serves (serving returner .handBack false) 0
        { returner with op := some ⟨.handBack, 0x1000, false⟩ } ⟨.handBack, 0x1000, false⟩
      ∧ returner.isSend = true
      ∧ returner.writeBack = [(TxDesc.ofWords 0 0x80000002 0x3000).finish 0x000705] := by
  unfold Serves
  decide

/-- A sender whose started head has been fetched whole and that reads the next descriptor's second
word. -/
def beyond : Machine.Stream :=
  { sender with held := [{ startedHead with fetched := 2 }], fetchPos := 8, reading := some 0x80000002 }

theorem witness_SendBusErrorClosesTheStream :
    Serves (serving sender .firstWord false) 0
        { sender with op := some ⟨.firstWord, 0x1000, false⟩ } ⟨.firstWord, 0x1000, false⟩
      ∧ Serves (serving sender .firstWord true) 0
        { sender with op := some ⟨.firstWord, 0x1000, true⟩ } ⟨.firstWord, 0x1000, true⟩
      ∧ Serves (serving returner .handBack false) 0
        { returner with op := some ⟨.handBack, 0x1000, false⟩ } ⟨.handBack, 0x1000, false⟩
      ∧ sender.isSend = true ∧ sender.isOpen = true ∧ returner.isOpen = true
      ∧ (Serves (serving reader (.bufferRead 2) false) 0
          { reader with op := some ⟨.bufferRead 2, 0x1000, false⟩ } ⟨.bufferRead 2, 0x1000, false⟩
        ∧ reader.fetching = some (TxDesc.ofWords 0 0x80000002 0x3000)
        ∧ (∀ h ∈ reader.held.head?, h.index = (TxDesc.ofWords 0 0x80000002 0x3000).index))
      ∧ (Serves (serving beyond (.secondWord 8 0x80000002) false) 0
          { beyond with op := some ⟨.secondWord 8 0x80000002, 0x1000, false⟩ }
          ⟨.secondWord 8 0x80000002, 0x1000, false⟩
        ∧ beyond.fetching = none ∧ beyond.reading = some 0x80000002
        ∧ beyond.held = [{ startedHead with fetched := 2 }]
        ∧ startedHead.index ≠ (TxDesc.ofWords beyond.fetchPos 0x80000002 0).index)
      ∧ (Serves (serving { returner with state := .closing } .handBack false) 0
          { returner with state := .closing, op := some ⟨.handBack, 0x1000, false⟩ }
          ⟨.handBack, 0x1000, false⟩
        ∧ { returner with state := StreamState.closing }.isOpen = false
        ∧ { returner with state := StreamState.closing }.closeReason ≠ .leave) := by
  unfold Serves
  decide

theorem witness_ListenDescriptorReadActs :
    Serves (serving listener .firstWord false) 0
        { listener with op := some ⟨.firstWord, 0x1000, false⟩ } ⟨.firstWord, 0x1000, false⟩
      ∧ Serves (serving { listener with reading := some 0x80000002 } (.secondWord 0 0x80000002) false) 0
        { listener with reading := some 0x80000002, op := some ⟨.secondWord 0 0x80000002, 0x1000, false⟩ }
        ⟨.secondWord 0 0x80000002, 0x1000, false⟩
      ∧ listener.isSend = false ∧ listener.current = none
      ∧ { listener with current := some (RxDesc.ofWords 0 0x80000002 0) }.current.isSome = true := by
  unfold Serves
  decide

/-- A listener with a placed word and then a descriptor to hand back. -/
def writer : Machine.Stream :=
  { listener with
    writeQueue := [.word 0 0x3000 9, .done ((RxDesc.ofWords 0 0x80000002 0x3000).finish)] }

/-- A listener with a descriptor to hand back. -/
def finisher : Machine.Stream := { writer with writeQueue := writer.writeQueue.drop 1 }

theorem witness_ListenWritesAct :
    Serves (serving writer (.wordWrite 1) false) 0
        { writer with op := some ⟨.wordWrite 1, 0x1000, false⟩ } ⟨.wordWrite 1, 0x1000, false⟩
      ∧ Serves (serving finisher .statusWrite false) 0
        { finisher with op := some ⟨.statusWrite, 0x1000, false⟩ } ⟨.statusWrite, 0x1000, false⟩
      ∧ Serves (serving finisher .handBack false) 0
        { finisher with op := some ⟨.handBack, 0x1000, false⟩ } ⟨.handBack, 0x1000, false⟩
      ∧ finisher.isSend = false
      ∧ finisher.writeQueue = [.done ((RxDesc.ofWords 0 0x80000002 0x3000).finish)] := by
  unfold Serves
  decide

theorem witness_ListenBusErrorClosesTheStream :
    Serves (serving writer (.wordWrite 1) false) 0
        { writer with op := some ⟨.wordWrite 1, 0x1000, false⟩ } ⟨.wordWrite 1, 0x1000, false⟩
      ∧ Serves (serving listener .firstWord true) 0
        { listener with op := some ⟨.firstWord, 0x1000, true⟩ } ⟨.firstWord, 0x1000, true⟩
      ∧ Serves (serving closedListener (.secondWord 255 0xC0000002) true) 0
        { closedListener with op := some ⟨.secondWord 255 0xC0000002, 0x1000, true⟩ }
        ⟨.secondWord 255 0xC0000002, 0x1000, true⟩
      ∧ writer.isSend = false ∧ writer.isOpen = true ∧ listener.isOpen = true
      ∧ closedListener.isOpen = false ∧ closedListener.isSend = false
      ∧ writer.writeQueue = .word 0 0x3000 9 :: finisher.writeQueue
      ∧ { writer with current := some filling }.current = some filling ∧ filling.count ≠ 0
      ∧ faultQueue 0 writer.writeQueue = [.done { (RxDesc.ofWords 0 0x80000002 0x3000).finish with
          busFault := true }] := by
  unfold Serves
  decide

/-- A listener with a current descriptor of four words. -/
def taker : Machine.Stream := { listener with current := some (RxDesc.ofWords 0 0x80000004 0x3000) }

theorem witness_AcceptedWordIsPlacedOrDropped :
    (taker.listenHold = false ∧ myCell.mark = false ∧ taker.queuedWords < 32
      ∧ taker.current = some (RxDesc.ofWords 0 0x80000004 0x3000)
      ∧ (RxDesc.ofWords 0 0x80000004 0x3000).count + 1
          < (RxDesc.ofWords 0 0x80000004 0x3000).capacity)
    ∧ (listener.current = none ∧ listener.listenHold = false)
    ∧ { taker with current := some (RxDesc.ofWords 0 0x90000004 0x3000) }.listenHold = true
    ∧ (RxDesc.ofWords 0 0x80000001 0x3000).capacity ≤ (RxDesc.ofWords 0 0x80000001 0x3000).count + 1
    ∧ { (RxDesc.ofWords 0 0x80000004 0x3000) with count := 1 }.count ≠ 0
    ∧ { myCell with mark := true }.mark = true
    ∧ (RxDesc.ofWords 1 0x80000004 0x4000).wait = false
    ∧ 1 < (RxDesc.ofWords 1 0x80000004 0x4000).capacity := by
  decide

theorem witness_EnginesIssueInOrder :
    (sender.op = none ∧ sender.dead = false ∧ sender.isSend = true ∧ sender.isOpen = true
      ∧ sender.writeBack = [] ∧ sender.held = [] ∧ sender.reading = none ∧ sender.ringEnd = false)
    ∧ returner.writeBack = [(TxDesc.ofWords 0 0x80000002 0x3000).finish 0x000705]
    ∧ (reader.held.getLast? = some (TxDesc.ofWords 0 0x80000002 0x3000)
      ∧ (TxDesc.ofWords 0 0x80000002 0x3000).fetched < (TxDesc.ofWords 0 0x80000002 0x3000).count)
    ∧ (beyond.held.getLast? = some { startedHead with fetched := 2 }
      ∧ ({ startedHead with fetched := 2 } : TxDesc).count ≤ 2 ∧ beyond.reading = some 0x80000002)
    ∧ (listener.isSend = false ∧ listener.isOpen = true ∧ listener.writeQueue = []
      ∧ listener.current = none ∧ listener.reading = none)
    ∧ writer.writeQueue = .word 0 0x3000 9 :: finisher.writeQueue
    ∧ finisher.writeQueue = [.done ((RxDesc.ofWords 0 0x80000002 0x3000).finish)]
    ∧ (closedSender.isOpen = false ∧ closedSender.writeBack = [])
    ∧ (closedListener.isOpen = false ∧ closedListener.writeQueue = []
      ∧ { listener with current := some filling, next := some filling }.next.isSome = true)
    ∧ (writer.issue.op = some ⟨.wordWrite 1, 0x3000, false⟩
      ∧ finisher.issue.op = some ⟨.statusWrite, 0x2008, false⟩)
    ∧ runs (.headerArrival quiet) { ready' false with
        streams := member.streams.set 0 (some { sender with ringEnd := true, starved := true }) } (fun t =>
          t.streams[0].any fun st => st.isOpen && st.op == some ⟨.firstWord, 0x1000, false⟩) = true
    ∧ runs (.headerArrival quiet) { ready' true with
        streams := member.streams.set 0 (some { sender with ringEnd := true, starved := true }) } (fun t =>
          t.streams[0].any fun st => st.isOpen && st.op.isNone) = true := by decide +kernel

theorem queued_engines_issued : EnginesIssued { queued with streams := State.reset.streams } := by
  intro n st h
  fin_cases n <;> simp [State.reset] at h

theorem witness_MasterPortServesInTurn :
    State.reset.portServing = none ∧ (serving sender .firstWord false).portServing.isSome = true
      ∧ { delivered with streams := delivered.streams.set 15 (some sender), portLast := 0
                       }.pump.portServing = some 1
      ∧ { delivered with portLast := 15 }.pump.portServing = some 0
      ∧ { State.reset with membership := .loading, profileAddress := 0x100
                         }.nextProfileRead = some (0x100, 2)
      ∧ { State.reset with membership := .loading, profileAddress := 0x100
                           fetched := profile.take 2 }.nextProfileRead = some (0x108, 5) := by
  decide

/-- The member's map without its FREE slot. -/
def full : Vector Slot 24 := member.slots.set 2 ⟨.held ⟨9, 202, 1⟩ 0, false⟩

theorem witness_TargetsAreChosenInOrder :
    (member.slots[(2 : Fin 24)].entry = .free
      ∧ ∀ j : Fin 24, j < 2 → member.slots[j].entry ≠ .free)
    ∧ (∀ j : Fin 24, full[j].entry ≠ .free) ∧ sender.defn.startMode = .preempt
    ∧ full[(2 : Fin 24)].entry = .held ⟨9, 202, 1⟩ 0 ∧ (9 : Station) ≠ 3
    ∧ (1 : Priority).toNat < sender.defn.priority.toNat
    ∧ target full 3 sender.defn = some (2, true)
    ∧ target full 3 { sender.defn with priority := 0 } = none
    ∧ target full 3 { sender.defn with startMode := .wait } = none := by decide

theorem witness_ChosenBidIsFitToBid :
    member.chooseBid.chosenBid = some ⟨0, ⟨2, 3, false, 2, 100⟩⟩
      ∧ 0 ∈ { member with wins := [0] }.wins
      ∧ 4 ≤ { member with wins := [4, 3, 2, 1] }.wins.length
      ∧ { member with peers := member.peers.set 3 ⟨.present, 0, some 7, none⟩ }.bidValid
          ⟨2, 3, false, 2, 100⟩ .free = true
      ∧ (member.membership.judges = true ∧ member.frame = some (opened false)
        ∧ (opened false).header = .due ∧ (opened false).unexpected = false ∧ member.command = none)
      ∧ (∀ index ∈ [1, 254], ({ member with index := index }.index ≠ 255)
        ∧ runs (.headerArrival quiet) { member with index := index } (fun t =>
            t.chosenBid == some ⟨0, ⟨2, 3, false, 2, 100⟩⟩) = true)
      ∧ runs (.headerArrival quiet) { member with index := 255 } (·.chosenBid.isNone) = true
      ∧ runs (.censusCellArrival 0) (lastCensusCell .member) (fun t =>
          t.membership == .member && t.chosenBid.isSome) = true
      ∧ runs (.censusCellArrival 0) (lastCensusCell .listening) (fun t =>
          t.membership == .announcing && t.chosenBid.isNone) = true := by decide +kernel

/-- A sender of priority 3 that has never been full. -/
def claimer : Machine.Stream :=
  { sender with
    defn := { sender.defn with label := 101, priority := 3 }, state := .claiming, everFull := false }

/-- The member with stream 2 CLAIMING at the head of the open queue. -/
def queueing : State :=
  { member with openQueue := [2], streams := member.streams.set 2 (some claimer) }

theorem member_excludes_no_label (s : State) (hs : s.slots = member.slots) (hk : s.number = 3)
    (st : Machine.Stream) : ¬ Excluded s st := by
  rintro ⟨i, c, h, he, hh, -⟩
  rw [hs] at he
  rw [hk] at hh
  fin_cases i <;> simp [member, State.reset, Slot.reset] at he
  simp [← he.2, theirs] at hh

theorem member_repairs_its_sender (s : State) (hs : s.slots = member.slots) (hk : s.number = 3)
    (hq : s = queueing ∨ s = member) : RepairCandidate s 0 sender := by
  refine ⟨⟨?_, rfl, rfl, member_excludes_no_label s hs hk _⟩, fun m st₂ hm => .inr ?_⟩
  · rcases hq with rfl | rfl <;> rfl
  · have h := hm.1
    rcases hq with rfl | rfl <;>
      fin_cases m <;> simp [queueing, member, State.reset] at h <;> subst h <;>
        first
          | exact ⟨rfl, Fin.zero_le _⟩
          | exact absurd hm.2.2.1 (by decide)

/-- The member with stream 2 CLAIMING at the head of the open queue, and no other stream. -/
def headOnly : State := { queueing with streams := State.reset.streams.set 2 (some claimer) }

theorem witness_one_or_no_candidate :
    (HeadCandidate headOnly 2 claimer ∧ ∀ r st, ¬ RepairCandidate headOnly r st)
      ∧ (∀ h st, ¬ HeadCandidate { headOnly with openQueue := [] } h st)
      ∧ ∀ r st, ¬ RepairCandidate { headOnly with openQueue := [] } r st := by
  have none_repairs (s : State) (hs : s.streams = State.reset.streams.set 2 (some claimer))
      (r : Fin 16) (st : Machine.Stream) : ¬ RepairCandidate s r st := by
    rintro ⟨⟨h, -, hr, -⟩, -⟩
    rw [hs] at h
    fin_cases r <;> simp [State.reset] at h
    subst h
    cases hr
  exact ⟨⟨⟨rfl, rfl, by decide, member_excludes_no_label _ rfl rfl _⟩, none_repairs _ rfl⟩,
    fun _ _ h => by simp [HeadCandidate] at h, none_repairs _ rfl⟩

theorem witness_CandidatesAreTriedInOrder :
    RepairCandidate queueing 0 sender ∧ HeadCandidate queueing 2 claimer
      ∧ sender.defn.priority.toNat < claimer.defn.priority.toNat
      ∧ RepairCandidate member 0 sender ∧ (∀ h st₂, ¬ HeadCandidate member h st₂)
      ∧ (queueing.membership = .member ∧ 0 ∉ queueing.wins ∧ queueing.wins.length < 4)
      ∧ queueing.chooseBid.chosenBid = some ⟨2, ⟨3, 3, false, 2, 101⟩⟩
      ∧ (member.tryCandidate 0).chosenBid ≠ none ∧ (member.tryCandidate 15).chosenBid = none
      ∧ (member.streams[(1 : Fin 16)] = some listener
        ∧ (∃ k ∈ member.slots[(1 : Fin 24)].entry.users 200, k ≠ member.number)
        ∧ ∀ h, member.slots[(1 : Fin 24)].entry ≠ .releasePending h)
      ∧ (5 ∈ labelUsers member.slots 201 ∧ (5 : Station) ≠ 3 ∧ clashes member.slots 201 3 = false)
      ∧ (∀ k ∈ labelUsers member.slots 101, k = 3) :=
  ⟨member_repairs_its_sender _ rfl rfl (.inl rfl),
    ⟨rfl, rfl, by decide, member_excludes_no_label _ rfl rfl _⟩, by decide,
    member_repairs_its_sender _ rfl rfl (.inr rfl), fun _ _ h => by simp [HeadCandidate, member, State.reset] at h,
    by decide, by decide, by decide, by decide, ⟨rfl, by decide, fun _ h => by cases h⟩, by decide,
    by decide⟩

theorem witness_state_rules :
    (sender.isSend = true ∧ sender.state.openSend = true
      ∧ (ownHoldings member.slots 3 100).length ≤ sender.defn.width)
    ∧ listener.isSend = false ∧ listener.state.openListen = true
    ∧ closedSender.state.openSend = false ∧ closedListener.state.openListen = false := by
  decide

/-- A listener with a latched cue under a WAIT hold. -/
def waitingListener : Machine.Stream :=
  { listener with current := some (RxDesc.ofWords 0 0x90000004 0x3000), latched := true }

/-- A CLOSED listener bound to line 1, under a label of its own. -/
def closedBound : Machine.Stream := { closedListener with defn := { listener.defn with label := 77 } }

theorem witness_CueActionsTakePrecedence :
    ({ listener with awaiting := true }.awaiting = true)
    ∧ (listener.awaiting = false ∧ listener.startStop = true ∧ listener.underHold = false)
    ∧ waitingListener.underHold = true
    ∧ (sender.awaiting = false ∧ sender.startStop = false ∧ sender.underHold = false)
    ∧ (waitingListener.isOpen = true ∧ waitingListener.latched = true)
    ∧ (listener.isOpen = true ∧ listener.defn.cue = some ⟨1, .startStop⟩
      ∧ (2 : BitVec 4).getLsbD 1 = true)
    ∧ (∀ a ∈ [CueAction.start, .stop, .release, .consume],
        { listener with cueAction := some a }.cueAction = some a)
    ∧ listener.cueAction = none
    ∧ (member.membership.drives = true ∧ member.frame = some (opened false)
      ∧ (opened false).header = .due ∧ (opened false).unexpected = false)
    ∧ runs (.headerArrival (encodeHeader { Header.blank with cue := 2 })) member (fun t =>
        t.membership == .member && t.cueOut == 2
          && t.streams[1].any fun st => st.isOpen && st.cueAction == some .stop) = true
    ∧ runs (.headerArrival (encodeHeader { Header.blank with cue := 2 })) (opening closedBound)
        (fun t => t.lastResult == .done
          && t.streams[2].any fun st => st.isOpen && st.awaiting && st.cueAction.isNone) = true := by
  decide +kernel

theorem witness_TrunkFormatsRoundTrip :
    myCensusCell.heldCount.toNat ≤ 8
      ∧ (∀ d ∈ myCensusCell.meaningful, d.slot.toNat < 24 ∧ d.label ≠ 0)
      ∧ encodeCensusCell myCensusCell ≠ 0
      ∧ droveThrough ((arbitrationPart ⟨1, 3, false, 2, 100⟩).map some) ⟨1, 3, false, 2, 100⟩ = true
      ∧ droveThrough [] ⟨1, 3, false, 2, 100⟩ = false
      ∧ droveThrough [some true, some true] ⟨1, 3, false, 2, 100⟩ = false
      ∧ receiveHeader true [] = .damaged [] := by decide +kernel

theorem queued_steps : step queued = .next { State.reset with pending := [.start] } := rfl

theorem witness_EveryStepDrivesByMembership :
    DrivesByMembership queued ∧ MapUnknownOutside queued ∧ DrivesByMembership State.reset
      ∧ MapUnknownOutside { State.reset with pending := [.start] } := by
  unfold DrivesByMembership MapUnknownOutside
  decide

theorem witness_EveryStepKeepsTheMapInOrder :
    MapInOrder queued ∧ LabelsInOrder queued ∧ PendingInOrder queued ∧ HoldingsInOrder queued
      ∧ RevertsInOrder queued := by
  refine ⟨?_, ?_, ?_, ?_, ?_⟩
  · intro i
    fin_cases i <;> simp [queued, member, Entry.InOrder, State.reset, Slot.reset, theirs]
  · unfold LabelsInOrder
    decide +kernel
  · intro i _
    refine ⟨rfl, fun f h hc => ?_⟩
    cases h
    cases hc
  · unfold HoldingsInOrder
    decide +kernel
  · unfold RevertsInOrder
    decide +kernel

theorem witness_EveryStepKeepsTheCounts : CountsInRange queued ∧ WriteQueuesBounded queued := by
  refine ⟨by unfold CountsInRange; decide, fun n st h => ?_⟩
  have : st = sender ∨ st = listener := by
    fin_cases n <;> simp [queued, member, State.reset] at h <;> simp [← h]
  rcases this with rfl | rfl <;> decide

end Sys2Proof.Tests
end

section
/-! PROOFS. What a station drives, and where its map is UNKNOWN, is kept by every step (R1, R21, R35,
R46). -/

namespace Sys2Proof.Machine

open Sys2Proof

/-! ### The states in which a station drives are states in which it judges, and so on (R1, R21) -/

theorem Membership.judges_of_drives {m : Membership} (h : m.drives = true) : m.judges = true := by
  revert h; cases m <;> decide

theorem Membership.maps_of_judges {m : Membership} (h : m.judges = true) : m.maps = true := by
  revert h; cases m <;> decide

theorem Membership.receives_of_maps {m : Membership} (h : m.maps = true) : m.receives = true := by
  revert h; cases m <;> decide

theorem Membership.maps_of_drives {m : Membership} (h : m.drives = true) : m.maps = true :=
  maps_of_judges (judges_of_drives h)

/-! ### The membership state that an operation leaves -/

@[simp] theorem State.closeOne_membership (s : State) (reason : CloseReason) (n : Fin 16) :
    (s.closeOne reason n).membership = s.membership := (SameTrunk.closeOne s reason n).membership

@[simp] theorem State.closeEvery_membership (s : State) (reason : CloseReason) :
    (s.closeEvery reason).membership = s.membership := (SameTrunk.closeEvery s reason).membership

@[simp] theorem State.takeCommand_membership (s : State) :
    s.takeCommand.membership = s.membership := (SameTrunk.takeCommand s).membership

@[simp] theorem State.commandAndCell_membership (s : State) (f : Frame) :
    (s.commandAndCell f).membership = s.membership := (SameTrunk.commandAndCell s f).membership

@[simp] theorem State.heedCues_membership (s : State) (bits : BitVec 4) (n : Option (Fin 16)) :
    (s.heedCues bits n).membership = s.membership := (SameTrunk.heedCues s bits n).membership

@[simp] theorem State.chooseBid_membership (s : State) :
    s.chooseBid.membership = s.membership := (SameTrunk.chooseBid s).membership

@[simp] theorem State.chooseAtHeader_membership (s : State) (f : Frame) :
    (s.chooseAtHeader f).membership = s.membership := (SameTrunk.chooseAtHeader s f).membership

/-! ### A station that keeps to its membership state -/

/-- The station drives what its membership state allows, and its map is UNKNOWN where it does not act:
the two invariants together (R1, R21, R35, R46). -/
def Placed (s : State) : Prop := DrivesByMembership s ∧ MapUnknownOutside s

/-- What of a state `Placed` reads. -/
def State.trunkSide (s : State) : Membership × Drive × Option ChosenBid × Option ChosenBid × Bool × Tsync
    × Timer × Option Frame × Vector Slot 24 :=
  (s.membership, s.drive, s.bidDriven, s.chosenBid, s.vetoOwed, s.tsync, s.timer, s.frame, s.slots)

/-- An operation beside the trunk and the map keeps a station placed. -/
theorem Placed.of_same {s t : State} (h : Placed s)
    (same : t.trunkSide = s.trunkSide := by simp [State.trunkSide]) : Placed t := by
  simp only [State.trunkSide, Prod.mk.injEq] at same
  obtain ⟨hmembership, hdrive, hdriven, hchosen, hveto, htsync, htimer, hframe, hslots⟩ := same
  rw [Placed, DrivesByMembership, MapUnknownOutside, hmembership, hdrive, hdriven, hchosen, hveto,
    htsync, htimer, hframe, hslots]
  exact h

/-- The map of a placed station may change in any way where it acts, and elsewhere to one that is all
UNKNOWN (R21, R35). -/
theorem Placed.of_slots {s t : State} (h : Placed s)
    (slots : s.membership.maps = false → t.slots = Vector.replicate 24 Slot.reset)
    (same : State.trunkSide { t with slots := s.slots } = s.trunkSide := by
      simp [State.trunkSide]) : Placed t := by
  obtain ⟨hd, -⟩ := h
  simp only [State.trunkSide, Prod.mk.injEq] at same
  obtain ⟨hmembership, hdrive, hdriven, hchosen, hveto, htsync, htimer, hframe, -⟩ := same
  rw [Placed, DrivesByMembership, MapUnknownOutside, hmembership, hdrive, hdriven, hchosen, hveto,
    htsync, htimer, hframe]
  exact ⟨hd, slots⟩

/-- Where the map acts it may change in any way. -/
theorem Placed.of_maps {s t : State} (h : Placed s) (hm : s.membership.maps = true)
    (same : State.trunkSide { t with slots := s.slots } = s.trunkSide := by
      simp [State.trunkSide]) : Placed t :=
  h.of_slots (fun hf => by rw [hm] at hf; cases hf) same

/-- Where a station drives, judges, maps and receives, nothing is asked of it. -/
theorem Placed.of_drives {s : State} (h : s.membership.drives = true) : Placed s := by
  have hj := Membership.judges_of_drives h
  have hm := Membership.maps_of_judges hj
  have hr := Membership.receives_of_maps hm
  exact ⟨⟨by simp [h], by simp [hj], by simp [hr]⟩, by simp [MapUnknownOutside, hm]⟩

/-- Where a station judges headers but drives none, its header fields and cells are undriven. -/
theorem Placed.of_judges {s : State} (h : s.membership.judges = true)
    (header : s.drive.header = Header.blank) (cells : s.drive.cells = Vector.replicate 24 none)
    (bidDriven : s.bidDriven = none) (chosenBid : s.chosenBid = none) (vetoOwed : s.vetoOwed = false) :
    Placed s := by
  have hm := Membership.maps_of_judges h
  have hr := Membership.receives_of_maps hm
  exact ⟨⟨fun _ => ⟨header, cells, bidDriven, chosenBid, vetoOwed⟩, by simp [h], by simp [hr]⟩,
    by simp [MapUnknownOutside, hm]⟩

/-- A station that receives arrivals, drives nothing and knows nothing of the map is placed. -/
theorem Placed.of_silent {s : State} (drive : s.drive = Drive.nothing) (bidDriven : s.bidDriven = none)
    (chosenBid : s.chosenBid = none) (vetoOwed : s.vetoOwed = false)
    (trunk : s.membership.receives = false → s.tsync = .undriven ∧ s.timer = .stopped ∧ s.frame = none)
    (slots : s.membership.maps = false → s.slots = Vector.replicate 24 Slot.reset) : Placed s :=
  ⟨⟨fun _ => by simp [drive, bidDriven, chosenBid, vetoOwed, Drive.nothing],
    fun _ => by simp [drive, Drive.nothing], trunk⟩, slots⟩

/-! ### Operations beside the trunk -/

theorem Placed.pump {s : State} (h : Placed s) : Placed s.pump := h.of_same

theorem Placed.mapStreams {s : State} (h : Placed s) (f : Fin 16 → Stream → Stream) :
    Placed (s.mapStreams f) := h.of_same

theorem Placed.onStream {s : State} (h : Placed s) (n : Fin 16) (f : Stream → Stream) :
    Placed (s.onStream n f) := h.of_same

theorem Placed.raise {s : State} (h : Placed s) (e : StationEvent) : Placed (s.raise e) := h.of_same

theorem Placed.finishClosing {s : State} (h : Placed s) : Placed s.finishClosing := h.of_same

theorem Placed.cleanQueue {s : State} (h : Placed s) : Placed s.cleanQueue := h.of_same

/-- A slot of which nothing is known is not asked into the release intent (R46). -/
theorem Slot.refresh_reset (k : Station) (streams : Vector (Option Stream) 16) :
    Slot.reset.refresh k streams = Slot.reset := by
  simp [Slot.refresh, Slot.reset, Entry.keepsIntent]

/-- A map all UNKNOWN stays so when its release intent is brought up to date (R46). -/
theorem State.refreshIntent_unknown {s : State} (h : s.slots = Vector.replicate 24 Slot.reset) :
    s.refreshIntent.slots = Vector.replicate 24 Slot.reset := by
  refine Vector.ext fun i hi => ?_
  simp [State.refreshIntent, h, Slot.refresh_reset]

theorem Placed.refreshIntent {s : State} (h : Placed s) : Placed s.refreshIntent :=
  h.of_slots fun hm => State.refreshIntent_unknown (h.2 hm)

theorem Placed.closeOne {s : State} (h : Placed s) (reason : CloseReason) (n : Fin 16) :
    Placed (s.closeOne reason n) := (h.onStream n _).cleanQueue.refreshIntent

theorem Placed.closeEvery {s : State} (h : Placed s) (reason : CloseReason) :
    Placed (s.closeEvery reason) := (h.mapStreams _).cleanQueue.refreshIntent

theorem Placed.performCommand {s : State} (h : Placed s) (c : Command) :
    Placed (s.performCommand c) := by
  unfold State.performCommand
  split
  · split
    · exact (h.onStream c.stream.toFin (Stream.opened s.number s.slots)).of_same rfl
    · exact h
  · exact h.closeOne _ _
  · exact h.of_same rfl

theorem Placed.takeCommand {s : State} (h : Placed s) : Placed s.takeCommand := by
  unfold State.takeCommand State.takeThis
  split
  · exact h
  · rename_i c _
    refine Placed.raise ?_ _
    split
    · exact (h.performCommand c).of_same rfl
    · exact h.of_same rfl

/-! ### The entries of the membership states -/

theorem Placed.enterOffline (s : State) : Placed s.enterOffline :=
  .of_silent rfl rfl rfl rfl (fun _ => ⟨rfl, rfl, rfl⟩) fun _ => rfl

theorem Placed.enterLoading (s : State) : Placed s.enterLoading :=
  .of_silent rfl rfl rfl rfl (fun _ => ⟨rfl, rfl, rfl⟩) fun _ => rfl

theorem Placed.enterRefused (s : State) (reason : RefusalReason) : Placed (s.enterRefused reason) :=
  Placed.takeCommand (.of_silent rfl rfl rfl rfl (fun _ => ⟨rfl, rfl, rfl⟩) fun _ => rfl)

theorem Placed.resetValues (s : State) : Placed s.resetValues :=
  .of_silent rfl rfl rfl rfl (fun _ => ⟨rfl, rfl, rfl⟩) fun _ => rfl

theorem Placed.checkLeft {s : State} (h : Placed s) : Placed s.checkLeft := by
  unfold State.checkLeft
  split
  · exact (Placed.enterOffline s).raise _
  · exact h

/-- A closure of every stream asks no slot of an UNKNOWN map into the release intent (R46). -/
theorem State.closeEvery_unknown {s : State} (reason : CloseReason)
    (h : s.slots = Vector.replicate 24 Slot.reset) :
    (s.closeEvery reason).slots = Vector.replicate 24 Slot.reset :=
  State.refreshIntent_unknown (by simpa using h)

/-- Entry to LOST drops what the station drove and all it knew of the map (R35, R73). -/
theorem Placed.enterLost (s : State) : Placed s.enterLost := by
  refine Placed.raise (Placed.of_silent ?_ ?_ ?_ ?_ (by simp [Membership.receives]) fun _ => ?_) _
  · simp [State.clearPeers, State.closeEvery, State.clearMap, State.dropClaims]
  · simp [State.clearPeers, State.closeEvery, State.clearMap, State.dropClaims, State.emptyArbiter]
  · simp [State.clearPeers, State.closeEvery, State.clearMap, State.dropClaims, State.emptyArbiter]
  · simp [State.clearPeers, State.closeEvery, State.clearMap, State.dropClaims]
  · exact State.closeEvery_unknown (s := s.dropClaims.clearMap) .lost rfl

theorem Placed.lose (s : State) : Placed s.lose := by
  unfold State.lose
  split
  · exact (Placed.enterOffline s).raise _
  · exact Placed.enterLost s

/-- LEAVE in MEMBER leaves a LEAVING station, which may drive everything (R101). -/
theorem Placed.leaveMember (s : State) : Placed s.leaveMember := by
  have hleaving : Placed { s with membership := .leaving, chosenBid := none } := .of_drives rfl
  exact (hleaving.closeEvery .leave).checkLeft

theorem Placed.writeControl {s : State} (h : Placed s) (startBit leaveBit resetBit : Bool) :
    Placed (s.writeControl startBit leaveBit resetBit) := by
  unfold State.writeControl State.requestStart State.requestLeave
  split
  · exact Placed.resetValues s
  · split
    · split
      · exact Placed.enterLoading s
      · exact Placed.enterLoading s
      · exact h
    · split
      · split
        · exact Placed.enterOffline s
        · exact Placed.enterOffline s
        · exact Placed.enterOffline s
        · exact Placed.leaveMember s
        · exact h
      · exact h

/-! ### The profile -/

/-- A load completion starts the quiet wait in LISTENING, and drives nothing (R3, R96). -/
theorem Placed.loadComplete {s : State} (h : Placed s) (hs : s.membership = .loading)
    (ws : List Word) : Placed (s.loadComplete ws) := by
  obtain ⟨⟨hdrive, hcensus, -⟩, -⟩ := h
  rw [hs] at hdrive hcensus
  exact ⟨⟨fun _ => hdrive rfl, fun _ => hcensus rfl, fun hr => by cases hr⟩, fun hm => by cases hm⟩

theorem Placed.checkFetch {s : State} (h : Placed s) (hs : s.membership = .loading) :
    Placed s.checkFetch := by
  unfold State.checkFetch
  dsimp only
  split
  · exact h
  · split
    · exact Placed.enterRefused _ _
    · split
      · exact h
      · split
        · exact h.loadComplete hs _
        · exact Placed.enterRefused _ _

theorem Placed.profileRead {s : State} (h : Placed s) (words : List Word) :
    Placed (s.profileRead words) := by
  unfold State.profileRead
  split
  · rename_i hs
    exact Placed.checkFetch h.of_same hs
  · exact h

theorem Placed.profileBusError {s : State} (h : Placed s) : Placed s.profileBusError := by
  unfold State.profileBusError
  split
  · exact Placed.enterRefused _ _
  · exact h

/-! ### Headers -/

/-- The header of the frame in progress has arrived, if there is a frame. -/
theorem Placed.setHeader {s : State} (h : Placed s) (hs : HeaderStatus) : Placed (s.setHeader hs) := by
  obtain ⟨⟨hdrive, hcensus, htrunk⟩, hmap⟩ := h
  refine ⟨⟨hdrive, hcensus, fun hr => ?_⟩, hmap⟩
  obtain ⟨htsync, htimer, hframe⟩ := htrunk hr
  exact ⟨htsync, htimer, by simp [State.setHeader, hframe]⟩

theorem Placed.mapReport {s : State} (h : Placed s) (closes : Fin 16 → Bool)
    (old : Vector Slot 24) : Placed (s.mapReport closes old) := h.of_same

/-- The win list counts a header; of what is driven only the bits of a bid change (R12, R108). -/
theorem Placed.countWin {s : State} (h : Placed s) (read : List (Option Bool)) :
    Placed (s.countWin read) := h

theorem Placed.dropChosen {s : State} (h : Placed s) : Placed { s with chosenBid := none } := by
  obtain ⟨⟨hdrive, hcensus, htrunk⟩, hmap⟩ := h
  refine ⟨⟨fun hd => ?_, hcensus, htrunk⟩, hmap⟩
  obtain ⟨hheader, hcells, hdriven, -, hveto⟩ := hdrive hd
  exact ⟨hheader, hcells, hdriven, rfl, hveto⟩

theorem Placed.dropDriven {s : State} (h : Placed s) : Placed { s with bidDriven := none } := by
  obtain ⟨⟨hdrive, hcensus, htrunk⟩, hmap⟩ := h
  refine ⟨⟨fun hd => ?_, hcensus, htrunk⟩, hmap⟩
  obtain ⟨hheader, hcells, -, hchosen, hveto⟩ := hdrive hd
  exact ⟨hheader, hcells, rfl, hchosen, hveto⟩

/-- A station that judges headers may drive a census cell (R1, R79). -/
theorem Placed.driveCensus {s : State} (h : Placed s) (hj : s.membership.judges = true) :
    Placed s.driveCensus := by
  obtain ⟨⟨hdrive, -, htrunk⟩, hmap⟩ := h
  exact ⟨⟨hdrive, fun hf => by simp [State.driveCensus, hj] at hf, htrunk⟩, hmap⟩

theorem Placed.commandAndCell {s : State} (h : Placed s) (hj : s.membership.judges = true)
    (f : Frame) : Placed (s.commandAndCell f) := by
  have hj' : s.takeCommand.membership.judges = true := by simp [hj]
  unfold State.commandAndCell
  split
  · exact h.takeCommand
  · split
    · dsimp only
      split
      · exact (h.takeCommand.driveCensus hj').of_same
      · exact (h.driveCensus hj).takeCommand.of_same
    · exact h.takeCommand.driveCensus hj'

theorem Placed.heedCues {s : State} (h : Placed s) (bits : BitVec 4) (n : Option (Fin 16)) :
    Placed (s.heedCues bits n) := by
  unfold State.heedCues
  split
  · refine Placed.cleanQueue (Placed.mapStreams ?_ _)
    exact h.of_same
  · exact h

/-- Only a MEMBER chooses a bid (R107). -/
theorem Placed.chooseBid {s : State} (h : Placed s) : Placed s.chooseBid := by
  unfold State.chooseBid
  dsimp only
  split
  · rename_i hm
    refine Placed.of_drives ?_
    rw [(SameTrunk.tryCandidates _ _).membership, hm.1]
    rfl
  · exact h.dropChosen

theorem Placed.chooseAtHeader {s : State} (h : Placed s) (f : Frame) :
    Placed (s.chooseAtHeader f) := by
  unfold State.chooseAtHeader
  split
  · exact h.chooseBid
  · exact h.dropChosen

theorem Placed.finishHeader {s : State} (h : Placed s) (f : Frame) : Placed (s.finishHeader f) := by
  have hc : Placed ({ s with bidDriven := none } : State).finishClosing := h.dropDriven.finishClosing
  refine Placed.checkLeft ?_
  split
  · exact hc
  · exact hc.mapStreams _

theorem Placed.handleHeader {s : State} (h : Placed s) (hm : s.membership.maps = true) (x : Header) :
    Placed (s.handleHeader x) := h.of_maps hm (by simp [State.trunkSide, State.handleHeader])

@[simp] theorem State.mapHeader_membership (s : State) (x : Header) :
    (s.mapHeader x).membership = s.membership := by simp [State.mapHeader, State.handleHeader]

theorem Placed.mapHeader {s : State} (h : Placed s) (hm : s.membership.maps = true) (x : Header) :
    Placed (s.mapHeader x) := ((h.handleHeader hm x).mapReport _ _).refreshIntent

theorem Placed.chooseAll {s : State} (h : Placed s) (old : Vector Slot 24) (stall : BitVec 24)
    (f : Frame) : Placed (s.chooseAll old stall f) := h.mapStreams _

theorem Placed.chooseUnheard {s : State} (h : Placed s) (f : Frame) : Placed (s.chooseUnheard f) :=
  h.mapStreams _

theorem Placed.judgeHeader {s : State} (h : Placed s) (hj : s.membership.judges = true)
    (bits : HeaderBits) (f : Frame) : Placed (s.judgeHeader bits f) := by
  have hm := Membership.maps_of_judges hj
  have hmap := (h.countWin (arbitrationRead bits)).mapHeader hm (headerFields f bits)
  unfold State.judgeHeader
  dsimp only
  refine ((Placed.heedCues (hmap.commandAndCell ?_ f) _ _).chooseAll _ _ f).chooseAtHeader f
    |>.finishHeader f
  rw [State.mapHeader_membership]
  exact hj

theorem Placed.oweVeto {s : State} (h : Placed s) : Placed s.oweVeto := by
  unfold State.oweVeto
  split
  · rename_i hd
    refine Placed.mapStreams (Placed.of_drives ?_) _
    exact hd
  · exact h

@[simp] theorem State.oweVeto_membership (s : State) : s.oweVeto.membership = s.membership := by
  unfold State.oweVeto
  split <;> simp

theorem Placed.unsettleAll {s : State} (h : Placed s) (hm : s.membership.maps = true) :
    Placed s.unsettleAll := h.of_maps hm

theorem Placed.missHeader {s : State} (h : Placed s) (hj : s.membership.judges = true)
    (arb : List Halves) (f : Frame) : Placed (s.missHeader arb f) := by
  have hm := Membership.maps_of_judges hj
  have hdrop := (h.countWin (arb.map bitOfHalves)).dropChosen
  unfold State.missHeader
  dsimp only
  refine (Placed.commandAndCell ((hdrop.unsettleAll hm).mapReport _ _).refreshIntent.oweVeto ?_ f
    |>.chooseUnheard f).finishHeader f
  simpa [State.countWin] using hj

theorem Placed.damagedHeader {s : State} (h : Placed s) (arb : List Halves) (f : Frame) :
    Placed (s.damagedHeader arb f) := by
  have hset := h.setHeader .damaged
  unfold State.damagedHeader
  dsimp only
  split
  · rename_i hd
    split
    · exact (Placed.lose _).takeCommand
    · have hcount : Placed { s.setHeader .damaged with
          damageCount := (s.setHeader .damaged).damageCount + 1 } := hset.of_same rfl
      exact hcount.missHeader (Membership.judges_of_drives hd) arb f
  · split
    · rename_i hj
      exact hset.missHeader hj arb f
    · exact hset.takeCommand

theorem Placed.intactHeader {s : State} (h : Placed s) (bits : HeaderBits) (f : Frame) :
    Placed (s.intactHeader bits f) := by
  have hset := h.setHeader (.intact (headerFields f bits).valid)
  unfold State.intactHeader
  dsimp only
  split
  · rename_i hj
    exact hset.judgeHeader hj bits f
  · exact hset.takeCommand

theorem Placed.takeHeader {s : State} (h : Placed s) (rx : HeaderRx) : Placed (s.takeHeader rx) := by
  unfold State.takeHeader
  split
  · exact h
  · split
    · exact h.damagedHeader _ _
    · split
      · exact h.damagedHeader _ _
      · exact h.intactHeader _ _

/-! ### Cells -/

/-- The frame in progress counts on, if there is one. -/
theorem Placed.mapFrame {s : State} (h : Placed s) (g : Frame → Frame) :
    Placed { s with frame := s.frame.map g } := by
  obtain ⟨⟨hdrive, hcensus, htrunk⟩, hmap⟩ := h
  refine ⟨⟨hdrive, hcensus, fun hr => ?_⟩, hmap⟩
  obtain ⟨htsync, htimer, hframe⟩ := htrunk hr
  exact ⟨htsync, htimer, by simp [hframe]⟩

theorem Placed.resolveCell {s : State} (h : Placed s) (hm : s.membership.maps = true) (i : Nat)
    (rx : CellRx) : Placed (s.resolveCell i rx) := by
  unfold State.resolveCell
  split
  · exact h.of_maps hm
  · exact h

theorem Placed.applyReadback {s : State} (h : Placed s) (hm : s.membership.maps = true) (i : Nat)
    (ok : Option Bool) : Placed (s.applyReadback i ok) := by
  unfold State.applyReadback
  split
  · exact h
  · exact h.of_maps hm

@[simp] theorem State.resolveCell_membership (s : State) (i : Nat) (rx : CellRx) :
    (s.resolveCell i rx).membership = s.membership := by
  unfold State.resolveCell
  split <;> rfl

theorem Placed.cellActs {s : State} (h : Placed s) (hm : s.membership.maps = true) (i : Nat)
    (rx : CellRx) : Placed (s.cellActs i rx) := by
  have hheard := h.mapStreams fun _ st => st.hearCell i rx s.slots s.stamp
  have hcell := (hheard.resolveCell (by simpa using hm) i rx).applyReadback (by simpa using hm) i
    (if s.membership.drives then s.readbackOf i rx else none)
  exact ((hcell.mapReport _ _).refreshIntent.finishClosing).checkLeft

theorem Placed.takeCell {s : State} (h : Placed s) (i : Nat) (rx : CellRx) :
    Placed (s.takeCell i rx) := by
  unfold State.takeCell
  split
  · rename_i hm
    exact Placed.cellActs (h.mapFrame _) hm i rx
  · exact h.mapFrame _

theorem Placed.cellArrives {s : State} (h : Placed s) (bits : CellBits) :
    Placed (s.cellArrives bits) := by
  unfold State.cellArrives
  split
  · exact h
  · exact h.takeCell _ _

/-! ### Census cells -/

theorem Placed.raiseIf {s : State} (h : Placed s) (b : Bool) (e : StationEvent) :
    Placed (s.raiseIf b e) := by
  cases b
  · exact h
  · exact h.raise e

@[simp] theorem State.raiseIf_membership (s : State) (b : Bool) (e : StationEvent) :
    (s.raiseIf b e).membership = s.membership := by cases b <;> rfl

theorem Placed.adoptCycle {s : State} (h : Placed s) (c : Census) : Placed (s.adoptCycle c) := by
  unfold State.adoptCycle
  split
  · exact Placed.raiseIf h.of_same _ _
  · exact h

@[simp] theorem State.adoptCycle_membership (s : State) (c : Census) :
    (s.adoptCycle c).membership = s.membership := by
  unfold State.adoptCycle
  split <;> simp

@[simp] theorem State.reconcileTables_membership (s : State) (c : Census) :
    (s.reconcileTables c).membership = s.membership := by simp [State.reconcileTables]

theorem Placed.reconcile {s : State} (h : Placed s) (hm : s.membership.maps = true) (c : Census) :
    Placed (s.reconcile c) := by
  have htables : Placed (s.reconcileTables c) := by
    refine Placed.raiseIf (Placed.raiseIf ?_ _ _) _ _
    exact h.of_maps hm
  have hreport := ((htables.adoptCycle c).mapReport (fun _ => s.losesAt c.own) s.slots).refreshIntent
  exact Placed.mapStreams hreport.of_same _

@[simp] theorem State.reconcile_membership (s : State) (c : Census) :
    (s.reconcile c).membership = s.membership := by simp [State.reconcile]

/-- LISTENING ends without a change of what is driven (R97). -/
theorem Placed.endListening {s : State} (h : Placed s) (hs : s.membership = .listening) (c : Census) :
    Placed (s.endListening c) := by
  unfold State.endListening
  split
  · exact Placed.enterRefused _ _
  · obtain ⟨⟨hdrive, -, -⟩, -⟩ := h
    rw [hs] at hdrive
    obtain ⟨hheader, hcells, hdriven, hchosen, hveto⟩ := hdrive rfl
    exact .of_judges rfl hheader hcells hdriven hchosen hveto

theorem Placed.endAnnouncing {s : State} (h : Placed s) (own : Option Bool) :
    Placed (s.endAnnouncing own) := by
  unfold State.endAnnouncing
  split
  · split
    · exact h
    · exact .of_drives rfl
  · dsimp only
    split
    · exact Placed.enterRefused _ _
    · exact h.of_same
  · exact h

theorem Placed.endMember {s : State} (h : Placed s) (own : Option Bool) : Placed (s.endMember own) := by
  unfold State.endMember
  split
  · exact h.of_same
  · dsimp only
    split
    · exact Placed.lose _
    · exact h.of_same
  · exact h

theorem Placed.censusTransition {s : State} (h : Placed s) (c : Census) :
    Placed (s.censusTransition c) := by
  unfold State.censusTransition
  split
  · rename_i hs
    exact h.endListening hs c
  · exact h.endAnnouncing _
  · exact h.endMember _
  · exact h.endMember _
  · exact h

theorem Placed.completeCensus {s : State} (h : Placed s) (c : Census) :
    Placed (s.completeCensus c) := by
  unfold State.completeCensus
  split
  · rename_i hm
    exact (((h.reconcile hm c).censusTransition c).chooseBid.finishClosing).checkLeft
  · exact h

/-- A census cell is recorded where there is a frame in progress, and cell 31 completes the census. -/
theorem Placed.takeCensus {s : State} {f : Frame} (h : Placed s) (hf : s.frame = some f)
    (rx : CensusRx) : Placed (s.takeCensus f rx) := by
  have hrec : Placed { s with frame := some (f.addCensus rx (s.censusReadback f.arrived rx)) } := by
    have := h.mapFrame fun g => g.addCensus rx (s.censusReadback g.arrived rx)
    rwa [hf] at this
  unfold State.takeCensus
  dsimp only
  split
  · exact hrec.completeCensus _
  · exact hrec

theorem Placed.censusArrives {s : State} (h : Placed s) (bits : CensusBits) :
    Placed (s.censusArrives bits) := by
  unfold State.censusArrives
  split
  · exact h
  · rename_i f hf
    exact h.takeCensus (Option.filter_eq_some_iff.1 hf).1 _

/-! ### Frame starts -/

theorem Placed.cutOne {s : State} (h : Placed s) : Placed s.cutOne := by
  unfold State.cutOne
  split
  · exact h
  · rename_i f hf
    split
    · exact h.takeCensus hf _
    · exact h.takeCell _ _

theorem Placed.cutCells {s : State} (h : Placed s) (n : Nat) : Placed (s.cutCells n) := by
  induction n generalizing s with
  | zero => exact h
  | succ n ih => exact ih h.cutOne

theorem Placed.cutShort {s : State} (h : Placed s) (arb : List Halves) : Placed (s.cutShort arb) := by
  unfold State.cutShort
  split
  · exact h
  · exact (h.takeHeader _).cutCells _

/-- A frame opens where arrivals are received (R1). -/
theorem Placed.startFrame {s : State} (h : Placed s) (hr : s.membership.receives = true)
    (mark : Bool) : Placed (s.startFrame mark) := by
  obtain ⟨⟨hdrive, hcensus, -⟩, hmap⟩ := h
  exact ⟨⟨hdrive, hcensus, fun hf => by simp [State.startFrame, hr] at hf⟩, hmap⟩

/-- A LOST station that enters LISTENING drives nothing there either (R75). -/
theorem Placed.endLost {s : State} (h : Placed s) (mark : Bool) : Placed (s.endLost mark) := by
  unfold State.endLost
  split
  · rename_i hl
    simp only [Bool.and_eq_true, beq_iff_eq] at hl
    obtain ⟨⟨hdrive, hcensus, -⟩, -⟩ := h
    rw [hl.2] at hdrive hcensus
    exact ⟨⟨fun _ => hdrive rfl, fun _ => hcensus rfl, fun hr => by cases hr⟩, fun hm => by cases hm⟩
  · exact h

@[simp] theorem State.endLost_frame (s : State) (mark : Bool) : (s.endLost mark).frame = s.frame := by
  unfold State.endLost
  split <;> rfl

/-- A station that drives no header field drives nothing from the frame start on (R1). -/
theorem Placed.driveNothing {s : State} (h : Placed s) : Placed s.driveNothing := by
  obtain ⟨⟨hdrive, -, htrunk⟩, hmap⟩ := h
  refine ⟨⟨fun hd => ?_, fun _ => rfl, htrunk⟩, hmap⟩
  obtain ⟨-, -, -, -, hveto⟩ := hdrive hd
  exact ⟨rfl, rfl, rfl, rfl, hveto⟩

theorem Placed.openFrame {s : State} (h : Placed s) (hr : s.membership.receives = true)
    (mark : Bool) : Placed (s.openFrame mark) := by
  have hopen := ((h.startFrame hr mark).endLost mark).mapStreams fun _ st =>
    st.applyCue ((s.startFrame mark).endLost mark).slots
  unfold State.openFrame
  dsimp only
  split
  · refine Placed.checkLeft ?_
    split
    · rename_i hd
      refine Placed.finishClosing (Placed.of_drives ?_)
      simpa [State.driveFrame] using hd
    · exact hopen.driveNothing
  · exact hopen

theorem Placed.frameStarts {s : State} (h : Placed s) (mark : Bool) (arb : List Halves) :
    Placed (s.frameStarts mark arb) := by
  unfold State.frameStarts
  split
  · dsimp only
    split
    · rename_i hr
      exact (h.cutShort arb).openFrame hr _
    · exact h.cutShort arb
  · exact h

/-! ### Timers -/

/-- A timer that runs, runs where arrivals are received, so its expiry may drive TSYNC (R2, R3). -/
theorem Placed.timerEnds {s : State} (h : Placed s) (hr : s.timer ≠ .stopped) (timer : Timer)
    (tsync : Tsync) : Placed { s with timer := timer, tsync := tsync } := by
  obtain ⟨⟨hdrive, hcensus, htrunk⟩, hmap⟩ := h
  exact ⟨⟨hdrive, hcensus, fun hf => absurd (htrunk hf).2.1 hr⟩, hmap⟩

theorem Placed.quietWaitEnds {s : State} (h : Placed s) : Placed s.quietWaitEnds := by
  unfold State.quietWaitEnds
  split
  · rename_i ht
    exact h.timerEnds (by simp [ht]) _ _
  · exact h

theorem Placed.frameTimerEnds {s : State} (h : Placed s) : Placed s.frameTimerEnds := by
  unfold State.frameTimerEnds
  split
  · rename_i ht
    exact h.timerEnds (by rcases ht with ht | ht <;> simp [ht]) _ _
  · exact h

/-! ### Pins, registers and the bus -/

theorem Placed.cueEdge {s : State} (h : Placed s) (pin : BitVec 2) : Placed (s.cueEdge pin) := by
  unfold State.cueEdge
  split
  · split
    · exact h.raise _
    · exact h.of_same
  · exact h

theorem Placed.writeCommand {s : State} (h : Placed s) (code stream : BitVec 4) :
    Placed (s.writeCommand code stream) := by
  unfold State.writeCommand
  split
  · dsimp only
    split
    · exact Placed.takeCommand h.of_same
    · exact h.of_same
  · exact h.of_same

theorem Placed.writeRegister {s : State} (h : Placed s) (offset : Nat) (v : Word) :
    Placed (s.writeRegister offset v) := by
  have control : Placed (s.writeStationControl v) := by
    have hc := h.writeControl (v.getLsbD 0) (v.getLsbD 1) (v.getLsbD 2)
    unfold State.writeStationControl
    dsimp only
    split
    · exact hc.pump
    · exact hc
  have address : Placed (s.writeProfileAddress v) := by
    unfold State.writeProfileAddress
    split
    · exact h.of_same
    · exact h
  unfold State.writeRegister
  repeat' split
  · exact control
  · exact address
  · exact h.writeCommand _ _
  · exact h.of_same rfl
  · exact h.of_same rfl
  · exact h.of_same rfl
  · exact h.mapStreams _
  · exact h.of_same rfl
  · exact h

theorem Placed.hostWriteAt {s : State} (h : Placed s) (offset bytes : Nat) (v : Word) :
    Placed (s.hostWriteAt offset bytes v) := by
  unfold State.hostWriteAt
  split
  · exact h
  · exact h.writeRegister _ _

theorem Placed.endOp {s : State} (h : Placed s) (n : Fin 16) : Placed (s.endOp n) := h.of_same

theorem Placed.endRead {s : State} (h : Placed s) (send : Bool)
    (f : BusKind → Option (Stream → Stream)) : Placed (s.endRead send f) := by
  unfold State.endRead
  split
  · exact h
  · split
    · split
      · exact h
      · split
        · exact h.endOp _
        · exact (h.endOp _).onStream _ _
    · exact h

theorem Placed.endWrite {s : State} (h : Placed s) (send : Bool)
    (f : BusKind → Option (Stream → Stream × List (Word × Word))) : Placed (s.endWrite send f) := by
  unfold State.endWrite
  split
  · exact h
  · rename_i v _
    split
    · split
      · exact h
      · rename_i g _
        exact ((h.endOp v.stream).onStream v.stream fun st => (g st).1).of_same
    · exact h

theorem Placed.busError {s : State} (h : Placed s) (send : Bool) : Placed (s.busError send) := by
  unfold State.busError
  split
  · exact h
  · split
    · dsimp only
      split
      · exact h.endOp _
      · exact ((h.endOp _).closeOne _ _).onStream _ _
    · exact h

/-! ### Every command, and every step -/

theorem Placed.exec {s t : State} {c : Instr} (h : Placed s) (ht : exec c s = .next t) : Placed t := by
  have guarded : ∀ (p : Prop) [Decidable p] (u : State), Placed u →
      Placed (if p then u.pump else s) := fun p _ u hu => by
    split
    · exact hu.pump
    · exact h
  cases c with
  | powerOn => cases ht; exact Placed.of_silent rfl rfl rfl rfl (fun _ => ⟨rfl, rfl, rfl⟩) fun _ => rfl
  | rstn => cases ht; exact (Placed.resetValues s).of_same
  | rstnRise =>
    cases ht
    split
    · exact (Placed.resetValues s).of_same
    · exact h
  | start | leave | reset | openCmd | closeCmd | standingCmd | profileAddressWrite | eventsWrite
  | streamEventsWrite | eventEnableWrite | streamEventEnableWrite | registerWrite
  | commandCodeUnknown => cases ht; exact h.hostWriteAt _ _ _
  | entryCapture | cueoutPulseEnd => cases ht; exact h.of_same rfl
  | cueEdge => cases ht; exact h.cueEdge _
  | quietWaitExpiry => cases ht; exact h.quietWaitEnds
  | frameTimerExpiry => cases ht; exact h.frameTimerEnds
  | frameStart => cases ht; exact (h.frameStarts _ _).pump
  | bootstrap => cases ht; exact guarded _ _ (h.frameStarts _ _)
  | headerArrival | damagedHeader => cases ht; exact (h.takeHeader _).pump
  | winRecordExpiry | damageLimit => cases ht; exact guarded _ _ (h.takeHeader _)
  | cellArrival => cases ht; exact (h.cellArrives _).pump
  | readbackCollision => cases ht; exact guarded _ _ (h.cellArrives _)
  | censusCellArrival => cases ht; exact (h.censusArrives _).pump
  | joinAttemptsLimit | censusReadbackLimit => cases ht; exact guarded _ _ (h.censusArrives _)
  | profileReadDone => cases ht; exact h.profileRead _
  | profileFault => cases ht; exact h.profileBusError
  | sendDescriptorRead | sendBufferRead | listenDescriptorRead => cases ht; exact (h.endRead _ _).pump
  | sendStatusWrite | sendHandBack | listenWordWrite | listenStatusWrite | listenHandBack =>
    cases ht; exact (h.endWrite _ _).pump
  | sendBusError | listenBusError => cases ht; exact (h.busError _).pump

/-- Settles O57: every operation of the model keeps a station placed, so every command does. -/
theorem everyStepDrivesByMembership : Obligations.EveryStepDrivesByMembership :=
  keeps_of_exec Placed (fun _ _ h => h) fun _ _ _ h ht => h.exec ht

end Sys2Proof.Machine
end

section
/-! PROOFS. A frame start delivers what the frame in progress had not (R9, R1). -/

namespace Sys2Proof.Machine

open Sys2Proof

/-! ### The frame in progress after an arrival -/

/-- The frame in progress goes on, or the station has left the trunk and there is none. -/
def FrameKept (s t : State) : Prop := t.frame = s.frame ∨ t.frame = none

theorem FrameKept.of_eq {s t : State} (h : t.frame = s.frame) : FrameKept s t := .inl h

theorem FrameKept.trans {s t u : State} (a : FrameKept s t) (b : FrameKept t u) : FrameKept s u := by
  rcases b with b | b
  · rw [FrameKept, b]
    exact a
  · exact .inr b

@[simp] theorem State.closeEvery_frame (s : State) (reason : CloseReason) :
    (s.closeEvery reason).frame = s.frame := (SameTrunk.closeEvery s reason).frame

@[simp] theorem State.takeCommand_frame (s : State) : s.takeCommand.frame = s.frame :=
  (SameTrunk.takeCommand s).frame

@[simp] theorem State.commandAndCell_frame (s : State) (f : Frame) :
    (s.commandAndCell f).frame = s.frame := (SameTrunk.commandAndCell s f).frame

@[simp] theorem State.chooseUnheard_frame (s : State) (f : Frame) :
    (s.chooseUnheard f).frame = s.frame := (SameTrunk.chooseUnheard s f).frame

@[simp] theorem State.chooseBid_frame (s : State) : s.chooseBid.frame = s.frame :=
  (SameTrunk.chooseBid s).frame

@[simp] theorem State.oweVeto_frame (s : State) : s.oweVeto.frame = s.frame := by
  unfold State.oweVeto
  split <;> simp

theorem FrameKept.checkLeft (s : State) : FrameKept s s.checkLeft := by
  unfold State.checkLeft
  split
  · exact .inr rfl
  · exact .inl rfl

theorem FrameKept.enterRefused (s : State) (reason : RefusalReason) :
    FrameKept s (s.enterRefused reason) := by
  refine .inr ?_
  rw [State.enterRefused, State.takeCommand_frame]
  rfl

theorem FrameKept.lose (s : State) : FrameKept s s.lose := by
  unfold State.lose
  split
  · exact .inr rfl
  · exact .inl (by simp [State.enterLost, State.clearPeers, State.clearMap, State.dropClaims,
      State.emptyArbiter])

theorem FrameKept.finishHeader (s : State) (f : Frame) : FrameKept s (s.finishHeader f) := by
  refine .trans (.of_eq ?_) (FrameKept.checkLeft _)
  split <;> simp

theorem FrameKept.missHeader (s : State) (arb : List Halves) (f : Frame) :
    FrameKept s (s.missHeader arb f) :=
  .trans (.of_eq (by simp [State.countWin])) (FrameKept.finishHeader _ f)

/-- A damaged header marks the header of the frame as arrived damaged (R62). -/
theorem State.damagedHeader_frame (s : State) (arb : List Halves) (f : Frame) :
    FrameKept (s.setHeader .damaged) (s.damagedHeader arb f) := by
  have hcount : FrameKept (s.setHeader .damaged) { s.setHeader .damaged with
      damageCount := (s.setHeader .damaged).damageCount + 1 } := .inl rfl
  unfold State.damagedHeader
  dsimp only
  split
  · split
    · exact (hcount.trans (FrameKept.lose _)).trans (.of_eq (State.takeCommand_frame _))
    · exact hcount.trans (FrameKept.missHeader _ arb f)
  · split
    · exact FrameKept.missHeader _ arb f
    · exact .of_eq (State.takeCommand_frame _)

theorem State.resolveCell_frame (s : State) (i : Nat) (rx : CellRx) :
    (s.resolveCell i rx).frame = s.frame := by
  unfold State.resolveCell
  split <;> rfl

theorem State.applyReadback_frame (s : State) (i : Nat) (ok : Option Bool) :
    (s.applyReadback i ok).frame = s.frame := by
  unfold State.applyReadback
  split <;> rfl

/-- The next cell counts in the frame (R9). -/
theorem State.takeCell_frame (s : State) (i : Nat) (rx : CellRx) :
    FrameKept s.countCell (s.takeCell i rx) := by
  unfold State.takeCell State.cellActs
  split
  · exact .trans (.of_eq (by simp [State.resolveCell_frame, State.applyReadback_frame]))
      (FrameKept.checkLeft _)
  · exact .of_eq rfl

@[simp] theorem State.raiseIf_frame (s : State) (b : Bool) (e : StationEvent) :
    (s.raiseIf b e).frame = s.frame := by cases b <;> rfl

@[simp] theorem State.adoptCycle_frame (s : State) (c : Census) : (s.adoptCycle c).frame = s.frame := by
  unfold State.adoptCycle
  split <;> simp

@[simp] theorem State.reconcile_frame (s : State) (c : Census) : (s.reconcile c).frame = s.frame := by
  simp [State.reconcile, State.reconcileTables]

theorem FrameKept.censusTransition (s : State) (c : Census) : FrameKept s (s.censusTransition c) := by
  unfold State.censusTransition State.endListening State.endAnnouncing State.endMember
  split
  · split
    · exact FrameKept.enterRefused _ _
    · exact .inl rfl
  · split
    · split <;> exact .inl rfl
    · dsimp only
      split
      · exact FrameKept.enterRefused _ _
      · exact .inl rfl
    · exact .inl rfl
  · split
    · exact .inl rfl
    · dsimp only
      split
      · exact FrameKept.lose _
      · exact .inl rfl
    · exact .inl rfl
  · split
    · exact .inl rfl
    · dsimp only
      split
      · exact FrameKept.lose _
      · exact .inl rfl
    · exact .inl rfl
  · exact .inl rfl

theorem FrameKept.completeCensus (s : State) (c : Census) : FrameKept s (s.completeCensus c) := by
  unfold State.completeCensus
  split
  · have hrec : FrameKept s (s.reconcile c) := .of_eq (by simp)
    refine (hrec.trans (FrameKept.censusTransition _ c)).trans (.trans (.of_eq ?_) (.checkLeft _))
    simp
  · exact .inl rfl

/-- The next census cell is recorded in the frame (R18). -/
theorem State.takeCensus_frame (s : State) (f : Frame) (rx : CensusRx) :
    FrameKept { s with frame := some (f.addCensus rx (s.censusReadback f.arrived rx)) }
      (s.takeCensus f rx) := by
  unfold State.takeCensus
  dsimp only
  split
  · exact FrameKept.completeCensus _ _
  · exact .inl rfl

/-! ### What a frame start cuts -/

/-- With no frame in progress there is nothing to cut. -/
theorem State.cutCells_of_none {s : State} (h : s.frame = none) (n : Nat) : s.cutCells n = s := by
  induction n with
  | zero => rfl
  | succ n ih => simpa [State.cutCells, State.cutOne, h] using ih

/-- A header that has arrived does not arrive again. -/
theorem State.takeHeader_of_arrived {s : State} {f : Frame} (hf : s.frame = some f)
    (hh : f.header ≠ .due) (rx : HeaderRx) : s.takeHeader rx = s := by
  have hdue : s.headerDue = none := by simp [State.headerDue, hf, hh]
  simp [State.takeHeader, hdue]

/-- When the header has arrived, the cells still to come are cut. -/
theorem State.cutShort_of_arrived {s : State} {f : Frame} (hf : s.frame = some f)
    (hh : f.header ≠ .due) (arb : List Halves) :
    s.cutShort arb = s.cutCells (f.size - f.arrived) := by
  unfold State.cutShort
  rw [hf]
  exact congrArg _ (State.takeHeader_of_arrived hf hh _)

/-- A state that an arrival of the frame has left, with `n` cells to come or with no frame, is cut by
those `n` cells. -/
theorem State.cutShort_after {t u : State} {g : Frame} (hk : FrameKept t u) (hg : t.frame = some g)
    (hh : g.header ≠ .due) (arb : List Halves) :
    u.cutShort arb = u.cutCells (g.size - g.arrived) := by
  rcases hk with hu | hu
  · exact State.cutShort_of_arrived (hu.trans hg) hh arb
  · rw [State.cutCells_of_none hu, State.cutShort, hu]

/-- The header that a frame start cuts arrives damaged, and the frame is then cut on (R9). -/
theorem State.cutShort_header {s : State} {f : Frame} (hf : s.frame = some f) (hh : f.header = .due)
    (arb : List Halves) : s.cutShort arb = (s.takeHeader (.damaged arb)).cutShort arb := by
  by_cases hr : s.membership.receives = true
  · have hdue : s.headerDue = some f := by simp [State.headerDue, hf, hr, hh]
    have htake : s.takeHeader (.damaged arb) = s.damagedHeader arb f := by
      simp [State.takeHeader, hdue]
    have hset : (s.setHeader .damaged).frame = some { f with header := .damaged } := by
      simp [State.setHeader, hf]
    rw [State.cutShort, hf, htake,
      State.cutShort_after (State.damagedHeader_frame s arb f) hset (by simp) arb]
    rfl
  · have hdue : s.headerDue = none := by simp [State.headerDue, hf, hr]
    have htake : s.takeHeader (.damaged arb) = s := by simp [State.takeHeader, hdue]
    rw [htake]

/-- A cell that a frame start cuts arrives damaged or silent, and the frame is then cut on (R9). -/
theorem State.cutShort_cell {s : State} {f : Frame} (hf : s.frame = some f) (hh : f.header ≠ .due)
    (hc : f.census = false) (ha : f.arrived < 24) (arb : List Halves) :
    s.cutShort arb = (s.takeCell f.arrived
      (if f.validAt f.arrived = some true then .damaged else .silent)).cutShort arb := by
  have hone : s.cutOne = s.takeCell f.arrived
      (if f.validAt f.arrived = some true then .damaged else .silent) := by
    simp [State.cutOne, hf, hc]
  have hcount : s.countCell.frame = some { f with arrived := f.arrived + 1 } := by
    simp [State.countCell, hf]
  have hsize : f.size - f.arrived = (f.size - (f.arrived + 1)) + 1 := by
    simp only [Frame.size, hc, Config.slotCount, Bool.false_eq_true, if_false]
    omega
  rw [State.cutShort_of_arrived hf hh, hsize, State.cutCells, hone,
    State.cutShort_after (State.takeCell_frame s _ _) hcount hh arb]
  rfl

/-- A census cell that a frame start cuts arrives damaged, and the frame is then cut on (R9). -/
theorem State.cutShort_census {s : State} {f : Frame} (hf : s.frame = some f) (hh : f.header ≠ .due)
    (hc : f.census = true) (ha : f.arrived < 32) (arb : List Halves) :
    s.cutShort arb = (s.takeCensus f .damaged).cutShort arb := by
  have hone : s.cutOne = s.takeCensus f .damaged := by simp [State.cutOne, hf, hc]
  have hsize : f.size - f.arrived = (f.size - (f.arrived + 1)) + 1 := by
    simp only [Frame.size, hc, Config.censusCellCount, if_true]
    omega
  rw [State.cutShort_of_arrived hf hh, hsize, State.cutCells, hone,
    State.cutShort_after (State.takeCensus_frame s f _) rfl hh arb]
  rfl

/-- Nothing is cut from a frame that has been delivered (R9). -/
theorem State.cutShort_of_delivered {s : State} (h : Delivered s) (arb : List Halves) :
    s.cutShort arb = s := by
  cases hf : s.frame with
  | none => simp [State.cutShort, hf]
  | some f =>
    obtain ⟨hh, ha⟩ := h f hf
    rw [State.cutShort_of_arrived hf hh, ha, Nat.sub_self]
    rfl

/-- Settles O15, one arrival of the cut frame at a time. -/
theorem frameStartCutsTheFrameShort : Obligations.FrameStartCutsTheFrameShort := by
  intro mark arb s
  refine ⟨fun h => State.cutShort_of_delivered h arb, fun f hf hh => State.cutShort_header hf hh arb,
    fun f hf hh hc ha => State.cutShort_cell hf hh hc ha arb,
    fun f hf hh hc ha => State.cutShort_census hf hh hc ha arb, fun hr => ?_, fun hr hcut => ?_⟩
  · simp [exec, execFrameStart, State.frameStarts, hr]
  · simp [exec, execFrameStart, State.frameStarts, hr, hcut]

end Sys2Proof.Machine
end

section
/-! PROOFS. What a frame start opens (R2, R4 to R6, R8, R75, R91). -/

namespace Sys2Proof.Machine

open Sys2Proof

/-! ### The frame that opens -/

/-- The station at the start of the frame, before it drives: the index has moved, LOST may have ended,
and the listeners' cue actions have taken effect. -/
def State.opening (mark : Bool) (s : State) : State := ((s.startFrame mark).endLost mark).applyCues

/-- What of a state neither the driving of a frame nor the engines change. -/
def State.frameSide (s : State) : BitVec 8 × Bool × Nat × BitVec 16 × Timer × Tsync × Membership
    × Option Frame × Vector Slot 24 × Vector Peer 32 × BitVec 9 × Option Word × Nat × Option Command :=
  (s.index, s.aligned, s.bootstrap, s.cycle, s.timer, s.tsync, s.membership, s.frame, s.slots, s.peers,
    s.events, s.standing, s.damageCount, s.command)

/-- Only the end of LOST changes the membership state at a frame start (R75). -/
theorem State.opening_membership (s : State) (mark : Bool) :
    (s.opening mark).membership
      = if s.membership = .lost ∧ mark = true then .listening else s.membership := by
  have hl : ((s.startFrame mark).endLost mark).membership
      = if s.membership = .lost ∧ mark = true then .listening else s.membership := by
    unfold State.endLost
    cases mark <;> by_cases h : s.membership = .lost <;> simp [State.startFrame, h]
  simpa [State.opening, State.applyCues] using hl

theorem State.opening_drives (s : State) (mark : Bool) :
    (s.opening mark).membership.drives = s.membership.drives := by
  rw [State.opening_membership]
  split
  · rename_i h
    rw [h.1]
    rfl
  · rfl

@[simp] theorem State.endLost_slots (s : State) (mark : Bool) : (s.endLost mark).slots = s.slots := by
  unfold State.endLost
  split <;> rfl

@[simp] theorem State.endLost_number (s : State) (mark : Bool) : (s.endLost mark).number = s.number := by
  unfold State.endLost
  split <;> rfl

/-- Whether a station has a part in the map is read from the map and its number (R101). -/
theorem State.hasPart_congr {s t : State} (slots : t.slots = s.slots) (number : t.number = s.number) :
    t.hasPart = s.hasPart := by simp [State.hasPart, slots, number]

/-- A frame opens: a MEMBER or LEAVING station drives what it has, another one nothing (R1). -/
theorem State.openFrame_eq {s : State} (hleft : s.membership = .leaving → s.hasPart = true)
    (mark : Bool) : s.openFrame mark = if s.membership.drives
      then ((s.opening mark).driveFrame (s.newFrame mark)).finishClosing
      else (s.opening mark).driveNothing := by
  have hframe : (s.opening mark).frame = some (s.newFrame mark) := by
    simp [State.opening, State.applyCues, State.startFrame]
  have hopen : s.openFrame mark = (if (s.opening mark).membership.drives
      then ((s.opening mark).driveFrame (s.newFrame mark)).finishClosing
      else (s.opening mark).driveNothing).checkLeft := by
    unfold State.openFrame
    dsimp only
    rw [show ((s.startFrame mark).endLost mark).applyCues = s.opening mark from rfl, hframe]
  rw [hopen, State.opening_drives]
  refine SameTrunk.checkLeft_of_part _ fun hm => ?_
  have hmembership : (s.opening mark).membership = .leaving := by
    rw [← hm]
    split <;> simp [State.driveFrame, State.driveNothing]
  have hslots : s.membership = .leaving := by
    rw [State.opening_membership] at hmembership
    split at hmembership
    · cases hmembership
    · exact hmembership
  rw [← hleft hslots]
  refine State.hasPart_congr ?_ ?_ <;> split <;>
    simp [State.driveFrame, State.driveNothing, State.opening, State.applyCues, State.startFrame]

/-- What the driving of a frame leaves as the opening had made it. -/
theorem State.openFrame_frameSide {s : State} (hleft : s.membership = .leaving → s.hasPart = true)
    (mark : Bool) : (s.openFrame mark).pump.frameSide = (s.opening mark).frameSide := by
  rw [State.openFrame_eq hleft]
  split <;> simp [State.frameSide, State.driveFrame, State.driveNothing]

/-- The plain frame start that reaches the limit while LISTENING and UNALIGNED bootstraps (R8). -/
theorem State.bootstraps_eq (s : State) (mark : Bool) :
    s.bootstraps mark
      = (s.membership == .listening && !s.aligned && !mark && 512 ≤ s.bootstrap + 1) := by
  unfold State.bootstraps State.bootstrapAfter
  cases s.aligned <;> cases mark <;> cases s.membership <;> rfl

/-- The index, the alignment, the bootstrap count, the cycle number, the timer and the frame at the start
of a frame (R2, R4 to R6, R8, R91); the rest of `frameSide` stays. -/
theorem State.opening_frameSide (s : State) (mark : Bool) :
    (s.opening mark).frameSide = (s.indexAfter mark, s.aligned || mark || s.bootstraps mark,
      (if mark = true ∧ s.membership = .lost then 0 else s.bootstrapAfter mark),
      (if mark then s.cycle + 1 else s.cycle), (if mark then .census else .ordinary), .undriven,
      (if s.membership = .lost ∧ mark = true then .listening else s.membership),
      some (s.newFrame mark), s.slots, s.peers, s.events, s.standing, s.damageCount, s.command) := by
  unfold State.opening State.applyCues State.endLost
  cases mark <;> by_cases h : s.membership = .lost <;> simp [State.frameSide, State.startFrame, h]

/-- A frame start at a station that still takes arrivals when the frame in progress has been cut opens
the next frame (R9). -/
theorem exec_frameStart_of_receives {s : State} (hr : s.membership.receives = true) (mark : Bool)
    (arb : List Halves) (hc : (s.cutShort arb).membership.receives = true) :
    exec (.frameStart mark arb) s
      = .next ((s.cutShort arb).openFrame ((s.cutShort arb).edgeIsMark mark)).pump := by
  simp [exec, execFrameStart, State.frameStarts, hr, hc]

/-- The index, the alignment and the rest after a frame start (the first part of O16). -/
theorem frameStart_moves (mark long boots : Bool) (arb : List Halves) (s u : State)
    (hr : s.membership.receives = true) (hu : u = s.cutShort arb)
    (hur : u.membership.receives = true) (hleft : u.membership = .leaving → u.hasPart = true)
    (hlong : long = (mark || u.tsync == .mark))
    (hboots : boots = (u.membership == .listening && !u.aligned && !long && 512 ≤ u.bootstrap + 1)) :
    ∃ t, exec (.frameStart mark arb) s = .next t
      ∧ t.frameSide = (if long then 0 else if u.aligned then (if u.index = 255 then 255 else u.index + 1)
          else if boots then 255 else 0, u.aligned || long || boots,
        (if long = true ∧ u.membership = .lost then 0 else u.bootstrapAfter long),
        (if long then u.cycle + 1 else u.cycle), (if long then .census else .ordinary), .undriven,
        (if u.membership = .lost ∧ long = true then .listening else u.membership),
        some (u.newFrame long), u.slots, u.peers, u.events, u.standing, u.damageCount, u.command) := by
  have hedge : u.edgeIsMark mark = long := hlong.symm
  rw [← State.bootstraps_eq] at hboots
  subst hu hboots
  refine ⟨_, exec_frameStart_of_receives hr mark arb hur, ?_⟩
  rw [hedge, State.openFrame_frameSide hleft, State.opening_frameSide]
  rfl

/-- BOOTSTRAP at the limit is the plain frame start (R8). -/
theorem exec_bootstrap_of_limit {s : State} (arb : List Halves) (hb : s.bootstraps false = true) :
    exec (.bootstrap arb) s = exec (.frameStart false arb) s := by
  simp [exec, execBootstrap, execFrameStart, hb]

/-- Settles O16. -/
theorem frameStartMovesTheIndex : Obligations.FrameStartMovesTheIndex := by
  refine ⟨fun mark long boots arb s u hr hu hur hleft hlong hboots => ?_,
    fun arb s hm ha hb hd hts => ?_⟩
  · obtain ⟨t, ht, hside⟩ := frameStart_moves mark long boots arb s u hr hu hur hleft hlong hboots
    simp only [State.frameSide, Prod.mk.injEq] at hside
    obtain ⟨hindex, haligned, hbootstrap, hcycle, htimer, htsync, hmembership, hframe, hslots, hpeers,
      hevents, hstanding, hdamage, hcommand⟩ := hside
    refine ⟨t, ht, hindex, haligned, fun hl => ?_, fun hl hlost => ?_, hcycle, htimer, htsync,
      hmembership, ?_, hslots, hpeers, hevents, hstanding, hdamage, hcommand⟩
    · rw [hbootstrap, hl]
      unfold State.bootstrapAfter
      cases u.aligned <;> simp
    · rw [hbootstrap, if_pos ⟨hl, hlost⟩]
    · rw [hframe, State.newFrame, State.opensWrong, Bool.and_assoc]
  · have hcut : s.cutShort arb = s := State.cutShort_of_delivered hd arb
    have hboots : s.bootstraps false = true := by simp [State.bootstraps_eq, hm, ha, hb]
    obtain ⟨t, ht, hside⟩ := frameStart_moves false false true arb s s (by simp [hm, Membership.receives])
      hcut.symm (by simp [hm, Membership.receives]) (by simp [hm]) (by simp [hts])
      (by simp [hm, ha, hb])
    simp only [State.frameSide, Prod.mk.injEq] at hside
    obtain ⟨hindex, haligned, hbootstrap, hcycle, htimer, -, hmembership, -, hslots, -⟩ := hside
    refine ⟨t, by rw [exec_bootstrap_of_limit arb hboots, ht], by simp [haligned], by simp [hindex, ha],
      ?_, by simp [hmembership, hm], by simp [htimer], by simp [hcycle], hslots⟩
    rw [hbootstrap]
    simp [State.bootstrapAfter, ha, hm, hb]

end Sys2Proof.Machine
end

section
/-! PROOFS. What a MEMBER or LEAVING station drives at a frame start (R7, R10, R14, R33, R47, R164, R179). -/

namespace Sys2Proof.Machine

open Sys2Proof

/-! ### Masks -/

/-- A bit of a slot mask. -/
@[simp] theorem slotMask_getElem (p : Fin 24 → Bool) (i : Nat) (h : i < 24) :
    (slotMask p)[i] = p ⟨i, h⟩ := by simp [slotMask]

theorem slotMask_get (p : Fin 24 → Bool) (i : Fin 24) : (slotMask p).getLsbD i.val = p i := by simp

/-! ### What keeps the definition of a stream -/

@[simp] theorem Stream.checkListenStarved_defn (st : Stream) :
    st.checkListenStarved.defn = st.defn := by
  unfold Stream.checkListenStarved
  split
  · rfl
  · split <;> rfl

@[simp] theorem Stream.listenRule_defn (slots : Vector Slot 24) (st : Stream) :
    (st.listenRule slots).defn = st.defn := by
  unfold Stream.listenRule
  split <;> rfl

@[simp] theorem Stream.stopHandBack_defn (st : Stream) : st.stopHandBack.defn = st.defn := by
  unfold Stream.stopHandBack Stream.handBackCurrent
  split
  · split <;> simp
  · rfl

@[simp] theorem Stream.applyCue_defn (slots : Vector Slot 24) (st : Stream) :
    (st.applyCue slots).defn = st.defn := by
  unfold Stream.applyCue Stream.releaseCurrent
  split <;> simp

@[simp] theorem Stream.finishEmpties_defn (stamp : Stamp) (st : Stream) :
    (st.finishEmpties stamp).defn = st.defn := rfl

@[simp] theorem Stream.leaveWord_defn (driven : Bool) (stamp : Stamp) (st : Stream) :
    (st.leaveWord driven stamp).defn = st.defn := by
  unfold Stream.leaveWord Stream.finishHead
  split
  · dsimp only
    split
    · split <;> rfl
    · rfl
  · rfl

@[simp] theorem Stream.leaveWords_defn (driven : Bool) (stamp : Stamp) (n : Nat) (st : Stream) :
    (st.leaveWords driven stamp n).defn = st.defn := by
  induction n generalizing st with
  | zero => rfl
  | succ n ih => simp [Stream.leaveWords, ih]

@[simp] theorem Stream.checkStarved_defn (st : Stream) : st.checkStarved.defn = st.defn := by
  unfold Stream.checkStarved
  split <;> rfl

@[simp] theorem State.spendWords_defn (s : State) (expected : Bool) (st : Stream) :
    (s.spendWords expected st).defn = st.defn := by
  unfold State.spendWords Stream.chooseNone
  split
  · dsimp only
    split <;> simp
  · rfl

@[simp] theorem Stream.listenStall_defn (slots : Vector Slot 24) (st : Stream) :
    (st.listenStall slots).defn = st.defn := by
  unfold Stream.listenStall
  split <;> rfl

@[simp] theorem Stream.finishClosing_defn (part : Bool) (st : Stream) :
    (st.finishClosing part).defn = st.defn := by
  unfold Stream.finishClosing
  split <;> rfl

/-- The engine changes nothing of a stream but its outstanding operation and its poll. -/
theorem Stream.issue_eq (st : Stream) : st.issue = { st with op := st.issue.op, poll := st.issue.poll } := by
  unfold Stream.issue
  split
  · rfl
  · split <;> rfl

/-- The direction of a stream is part of its definition (R120). -/
theorem Stream.isSend_congr {st st' : Stream} (h : st'.defn = st.defn) : st'.isSend = st.isSend := by
  simp [Stream.isSend, h]

/-! ### A stream at the frame start -/

/-- What a frame start does to a stream of a station that drives: its cue action, its words, its STALLED
flag, the end of its CLOSING, and what its engine then issues. -/
def State.streamOpens (s : State) (long : Bool) (n : Fin 16) (st : Stream) : Stream :=
  let v := s.opening long
  let f := s.newFrame long
  let spent := v.spendWords (!f.census && !f.unexpected) (st.applyCue s.slots)
  let stalled := if f.census then spent else spent.listenStall v.slots
  (stalled.finishClosing ((v.driveFrame f).streamHasPart n stalled)).issue

@[simp] theorem State.endLost_streams (s : State) (mark : Bool) :
    (s.endLost mark).streams = s.streams := by
  unfold State.endLost
  split <;> rfl

@[simp] theorem State.opening_slots (s : State) (mark : Bool) : (s.opening mark).slots = s.slots := by
  simp [State.opening, State.applyCues, State.startFrame]

@[simp] theorem State.opening_number (s : State) (mark : Bool) :
    (s.opening mark).number = s.number := by
  simp [State.opening, State.applyCues, State.startFrame]

/-- The streams at the opening: the cue actions have taken effect (R179). -/
theorem State.opening_stream (s : State) (mark : Bool) (n : Fin 16) :
    (s.opening mark).streams[n] = (s.streams[n]).map (Stream.applyCue s.slots) := by
  simp [State.opening, State.applyCues, State.startFrame]

theorem State.openFrame_stream {s : State} (hd : s.membership.drives = true)
    (hleft : s.membership = .leaving → s.hasPart = true) (long : Bool) (n : Fin 16) :
    (s.openFrame long).pump.streams[n] = (s.streams[n]).map (s.streamOpens long n) := by
  rw [State.pump_get, State.openFrame_eq hleft, if_pos hd]
  have hstreams := State.opening_stream s long n
  simp only [Fin.getElem_fin] at hstreams
  simp only [State.finishClosing, Fin.getElem_fin, State.mapStreams_get]
  rw [State.driveFrame]
  simp only [State.mapStreams_get, hstreams, Option.map_map]
  rfl

theorem State.streamOpens_defn (s : State) (long : Bool) (n : Fin 16) (st : Stream) :
    (s.streamOpens long n st).defn = st.defn := by
  unfold State.streamOpens
  dsimp only
  rw [Stream.issue_eq]
  split <;> simp

/-- A listen stream at a frame start: its cue action takes effect, and in an ordinary frame its STALLED
flag shows whether it asks for stall (R164, R179). -/
theorem State.streamOpens_listener (s : State) (long : Bool) (n : Fin 16) (st : Stream)
    (h : st.isSend = false) : s.streamOpens long n st
      = (if long then st.applyCue s.slots else (st.applyCue s.slots).listenStall s.slots).issue := by
  have hcue : (st.applyCue s.slots).isSend = false := by
    rw [Stream.isSend_congr (Stream.applyCue_defn _ _), h]
  have hspend : ∀ (v : State) (e : Bool), v.spendWords e (st.applyCue s.slots) = st.applyCue s.slots := by
    intro v e
    simp [State.spendWords, hcue]
  have hstall : ((st.applyCue s.slots).listenStall s.slots).isSend = false := by
    rw [Stream.isSend_congr (Stream.listenStall_defn _ _), hcue]
  unfold State.streamOpens
  cases long
  · simp [hspend, State.newFrame, Stream.finishClosing, hstall]
  · simp [hspend, State.newFrame, Stream.finishClosing, hcue]

/-- A listener that is not held and short of room asks for stall, and shows it STALLED (R164). -/
theorem Stream.listenStall_stalled (slots : Vector Slot 24) (st : Stream) (h : st.isSend = false) :
    (st.listenStall slots).stalled = st.asksStall slots := by
  simp [Stream.listenStall, h]

/-- The conditions under which a listener asks for stall (R164). -/
theorem Stream.asksStall_iff (slots : Vector Slot 24) (st : Stream) (h : st.isSend = false) :
    st.asksStall slots = true ↔ st.state = .tuned ∧ st.listenHold = false
      ∧ st.room < 2 * (carriers slots st.defn.label).length := by
  simp [Stream.asksStall, h, and_assoc]

/-- A stream that asks for stall is a listener (R164). -/
theorem Stream.isSend_of_asksStall {slots : Vector Slot 24} {st : Stream}
    (h : st.asksStall slots = true) : st.isSend = false := by
  simp only [Stream.asksStall, Bool.and_eq_true, Bool.not_eq_true'] at h
  exact h.1.1.1

/-! ### The cells driven -/

/-- A frame that opened as the station expected: an ordinary frame, and not in place of a census frame
(R5 to R7). -/
theorem State.newFrame_expected {s : State} (hd : s.membership.drives = true) (long : Bool) :
    (!(s.newFrame long).census && !(s.newFrame long).unexpected) = true
      ↔ long = false ∧ (s.aligned = true → s.index ≠ 255) := by
  cases long <;> by_cases ha : s.aligned = true <;>
    simp [State.newFrame, hd, State.opensWrong, ha]

/-- A slot this station may fill is HELD by it and outside its release intent (R33, R48). -/
theorem State.drivable_iff (s : State) (i : Fin 24) :
    s.drivable i = true ↔ s.slots[i].intent = false
      ∧ ∃ h damage, s.slots[i].entry = .held h damage ∧ h.station = s.number
        ∧ s.slotFace i = (h.label, h.priority) := by
  unfold State.drivable State.slotFace Entry.heldBy
  cases s.slots[i].entry <;> simp [and_comm]

theorem State.mem_slotsToDrive (s : State) (expected : Bool) (st : Stream) (i : Fin 24) :
    i ∈ s.slotsToDrive expected st ↔ expected = true ∧ st.isSend = true ∧ st.sending = true
      ∧ i ∈ st.chosen ∧ s.drivable i = true := by
  unfold State.slotsToDrive
  split <;> simp_all

/-- A cell that a stream drives goes into a slot it may fill, and carries this station and the label and
priority of the slot's entry (R125). -/
theorem State.mem_cellsOf {s : State} {expected : Bool} {st : Stream} {i : Fin 24} {c : Cell}
    (h : (i, c) ∈ s.cellsOf expected st) : i ∈ s.slotsToDrive expected st ∧ c.owner = s.number
      ∧ (c.label, c.priority) = s.slotFace i := by
  simp only [State.cellsOf, List.mem_map, Prod.mk.injEq] at h
  obtain ⟨⟨⟨j, w⟩, k⟩, hmem, rfl, rfl⟩ := h
  have hz := (List.mem_zipIdx hmem).2.2
  have hpair : (j, w) ∈ (s.slotsToDrive expected st).zip st.staging := by
    rw [hz]
    exact List.getElem_mem _
  exact ⟨(List.of_mem_zip hpair).1, rfl, rfl⟩

/-- A station drives a cell only in an expected frame, and only in a slot that it may fill (R33, R48). -/
theorem State.cellDriven_some {s : State} {expected : Bool} {i : Fin 24} {c : Cell}
    (h : s.cellDriven expected i = some c) : expected = true ∧ s.drivable i = true
      ∧ c.owner = s.number ∧ (c.label, c.priority) = s.slotFace i := by
  obtain ⟨o, -, ho⟩ := List.exists_of_findSome?_eq_some h
  obtain ⟨st, -, hst⟩ := Option.bind_eq_some_iff.1 ho
  obtain ⟨⟨j, c'⟩, hfind, rfl⟩ := Option.map_eq_some_iff.1 hst
  have hj : j = i := by simpa using List.find?_some hfind
  subst hj
  obtain ⟨hslot, howner, hface⟩ := State.mem_cellsOf (List.mem_of_find?_eq_some hfind)
  obtain ⟨hexp, -, -, -, hdrive⟩ := (State.mem_slotsToDrive _ _ _ _).1 hslot
  exact ⟨hexp, hdrive, howner, hface⟩

/-- Each slot a stream drives gets one of its staged words, where there are enough of them (R125). -/
theorem State.cellsOf_of_mem {s : State} {expected : Bool} {st : Stream} {i : Fin 24}
    (hi : i ∈ s.slotsToDrive expected st)
    (hl : (s.slotsToDrive expected st).length ≤ st.staging.length) :
    ∃ c, (i, c) ∈ s.cellsOf expected st := by
  obtain ⟨k, hk, rfl⟩ := List.getElem_of_mem hi
  have hw : k < st.staging.length := by omega
  refine ⟨s.cellFor st (s.slotsToDrive expected st)[k] k st.staging[k], ?_⟩
  simp only [State.cellsOf, List.mem_map]
  refine ⟨(((s.slotsToDrive expected st)[k], st.staging[k]), k), ?_, rfl⟩
  rw [List.mem_zipIdx_iff_getElem?]
  simp [hk, hw]

/-- A slot that a sending stream chose for a staged word is driven, if it may still be filled (R125). -/
theorem State.cellDriven_isSome {s : State} {n : Fin 16} {st : Stream} {i : Fin 24} {expected : Bool}
    (hn : s.streams[n] = some st) (hi : i ∈ s.slotsToDrive expected st)
    (hl : st.chosen.length ≤ st.staging.length) : (s.cellDriven expected i).isSome = true := by
  have hlen : (s.slotsToDrive expected st).length ≤ st.staging.length := by
    refine Nat.le_trans ?_ hl
    unfold State.slotsToDrive
    split
    · exact List.length_filter_le _ _
    · simp
  obtain ⟨c, hc⟩ := State.cellsOf_of_mem hi hlen
  simp only [State.cellDriven, List.findSome?_isSome_iff]
  refine ⟨some st, by rw [← hn]; simp, ?_⟩
  simp only [Option.bind_some, Option.isSome_map, List.find?_isSome]
  exact ⟨(i, c), hc, by simp⟩

/-! ### The stall bits -/

/-- STALL is driven for the carriers of the listeners that ask for it (R164). -/
theorem State.stallMask_get (s : State) (i : Fin 24) : s.stallMask.getLsbD i.val = true ↔
    ∃ (n : Fin 16) (st : Stream), s.streams[n] = some st ∧ st.asksStall s.slots = true
      ∧ ∃ h damage, s.slots[i].entry = .held h damage ∧ h.label = st.defn.label := by
  simp only [State.stallMask, slotMask_get, List.any_eq_true, Vector.mem_toList_iff,
    Vector.mem_iff_getElem, Option.any_eq_true, Bool.and_eq_true, List.contains_iff_mem, mem_carriers]
  constructor
  · rintro ⟨o, ⟨n, hn, rfl⟩, st, hst, hask, hheld⟩
    exact ⟨⟨n, hn⟩, st, hst, hask, hheld⟩
  · rintro ⟨n, st, hst, hask, hheld⟩
    exact ⟨_, ⟨n.val, n.isLt, rfl⟩, st, hst, hask, hheld⟩

/-! ### The whole drive -/

/-- What a station that drives has on TDAT after a frame start. -/
theorem State.openFrame_drive {s : State} (hd : s.membership.drives = true)
    (hleft : s.membership = .leaving → s.hasPart = true) (long : Bool) :
    (s.openFrame long).pump.drive = (s.opening long).frameDrive (s.newFrame long) := by
  rw [State.openFrame_eq hleft, if_pos hd]
  simp [State.driveFrame]

/-- What a frame start spends (R50, R115, R172). -/
theorem State.openFrame_spent {s : State} (hd : s.membership.drives = true)
    (hleft : s.membership = .leaving → s.hasPart = true) (long : Bool) :
    (s.openFrame long).pump.vetoOwed = false ∧ (s.openFrame long).pump.cuePending = 0
      ∧ (s.openFrame long).pump.chosenBid = none := by
  rw [State.openFrame_eq hleft, if_pos hd]
  simp [State.driveFrame]

/-- What the station owes is still owed at the opening. -/
theorem State.opening_owed (s : State) (mark : Bool) : (s.opening mark).vetoOwed = s.vetoOwed
    ∧ (s.opening mark).cuePending = s.cuePending ∧ (s.opening mark).chosenBid = s.chosenBid := by
  unfold State.opening State.applyCues State.endLost
  split <;> simp [State.startFrame]

/-- STALL shows which listeners are STALLED after the frame start (R164). -/
theorem State.openFrame_stall {s : State} (hd : s.membership.drives = true)
    (hleft : s.membership = .leaving → s.hasPart = true) (i : Fin 24) :
    (s.opening false).stallMask.getLsbD i.val = true ↔
      ∃ (n : Fin 16) (st : Stream), (s.openFrame false).pump.streams[n] = some st
        ∧ st.isSend = false ∧ st.stalled = true ∧ ∃ h damage, s.slots[i].entry = .held h damage
          ∧ h.label = st.defn.label := by
  have listener : ∀ n st, st.isSend = false → (s.streamOpens false n st).isSend = false
      ∧ (s.streamOpens false n st).stalled = (st.applyCue s.slots).asksStall s.slots := by
    intro n st h
    refine ⟨by rw [Stream.isSend_congr (s.streamOpens_defn false n st), h], ?_⟩
    have hcue : (st.applyCue s.slots).isSend = false := by
      rw [Stream.isSend_congr (Stream.applyCue_defn _ _), h]
    rw [State.streamOpens_listener _ _ _ _ h, Stream.issue_eq]
    exact Stream.listenStall_stalled _ _ hcue
  rw [State.stallMask_get, State.opening_slots]
  simp only [State.opening_stream, State.openFrame_stream hd hleft]
  constructor
  · rintro ⟨n, st₁, hst, hask, hheld⟩
    obtain ⟨st, hn, rfl⟩ := Option.map_eq_some_iff.1 hst
    have hs : st.isSend = false := by
      rw [← Stream.isSend_congr (Stream.applyCue_defn s.slots st)]
      exact Stream.isSend_of_asksStall hask
    obtain ⟨hlisten, hstalled⟩ := listener n st hs
    refine ⟨n, _, by rw [hn]; rfl, hlisten, hstalled.trans hask, ?_⟩
    rwa [State.streamOpens_defn, ← Stream.applyCue_defn s.slots]
  · rintro ⟨n, st', hst, hs', hstalled', hheld⟩
    obtain ⟨st, hn, rfl⟩ := Option.map_eq_some_iff.1 hst
    have hs : st.isSend = false := by
      rwa [Stream.isSend_congr (s.streamOpens_defn false n st)] at hs'
    refine ⟨n, _, by rw [hn]; rfl, (listener n st hs).2.symm.trans hstalled', ?_⟩
    rwa [Stream.applyCue_defn, ← s.streamOpens_defn false n st]

/-- What a listen stream is after the frame start (R164, R179). -/
theorem State.openFrame_listener {s : State} (long : Bool) (n : Fin 16) {st : Stream}
    (h : st.isSend = false) :
    Sys2Proof.Stream.still { s.streamOpens long n st with stalled := st.stalled }
        = Sys2Proof.Stream.still { st.applyCue s.slots with stalled := st.stalled }
      ∧ (long = true → (s.streamOpens long n st).stalled = (st.applyCue s.slots).stalled)
      ∧ (long = false → ((s.streamOpens long n st).stalled = true
          ↔ (s.streamOpens long n st).state = .tuned ∧ (s.streamOpens long n st).listenHold = false
            ∧ (s.streamOpens long n st).room
              < 2 * (carriers s.slots (s.streamOpens long n st).defn.label).length)) := by
  have hcue : (st.applyCue s.slots).isSend = false := by
    rw [Stream.isSend_congr (Stream.applyCue_defn _ _), h]
  rw [State.streamOpens_listener _ _ _ _ h, Stream.issue_eq]
  cases long
  · refine ⟨?_, by simp, fun _ => ?_⟩
    · simp [Sys2Proof.Stream.still, Stream.listenStall, hcue]
    · rw [if_neg (by simp)]
      have hask := Stream.asksStall_iff s.slots (st.applyCue s.slots) hcue
      rw [← Stream.listenStall_stalled _ _ hcue] at hask
      simp only [Stream.listenStall, hcue, Bool.false_eq_true, if_false] at hask ⊢
      exact hask
  · exact ⟨rfl, fun _ => rfl, fun h => by cases h⟩

/-- No cue action changes the STALLED flag of a listener (R179). -/
theorem Stream.applyCue_stalled (slots : Vector Slot 24) (st : Stream) :
    (st.applyCue slots).stalled = st.stalled := by
  have hrule : ∀ x : Stream, (x.listenRule slots).stalled = x.stalled := fun x => by
    unfold Stream.listenRule
    split <;> rfl
  have hstop : ∀ x : Stream, x.stopHandBack.stalled = x.stalled := fun x => by
    unfold Stream.stopHandBack Stream.handBackCurrent Stream.checkListenStarved
    repeat' split
    all_goals rfl
  unfold Stream.applyCue
  split
  · rfl
  · exact hrule _
  · rw [hstop, hrule]
  · rfl
  · rfl

/-- Settles O17. -/
theorem frameStartDrivesWhatIsOwed : Obligations.FrameStartDrivesWhatIsOwed := by
  intro mark long arb s u hr hu hd hleft hlong
  have hur := Membership.receives_of_maps (Membership.maps_of_drives hd)
  have hedge : u.edgeIsMark mark = long := hlong.symm
  subst hu
  refine ⟨_, exec_frameStart_of_receives hr mark arb hur, ?_⟩
  rw [hedge]
  generalize s.cutShort arb = u at *
  have hdrive := State.openFrame_drive hd hleft long
  obtain ⟨hveto, hcue, hchosen⟩ := State.openFrame_spent hd hleft long
  obtain ⟨oveto, ocue, ochosen⟩ := State.opening_owed u long
  have hexp := State.newFrame_expected hd long
  have hcensus : (u.newFrame long).census = long := rfl
  have hdrivable : ∀ i, (u.opening long).drivable i = u.drivable i := by simp [State.drivable]
  have hface : ∀ i, (u.opening long).slotFace i = u.slotFace i := by simp [State.slotFace]
  refine ⟨by rw [hdrive]; exact oveto, hveto, by rw [hdrive]; exact ocue, hcue, fun i => ?_,
    fun i => ?_, fun i c hc => ?_, ?_, fun hl => ?_, by rw [hdrive]; rfl, hchosen,
    fun n st i hn hs hact hsend hlen hi hheld hint hl hidx => ?_, fun hl i => ?_, fun n st hn hs => ?_⟩
  · rw [hdrive]
    simp only [State.frameDrive, hcensus]
    cases long <;> simp [State.releaseMask]
  · rw [hdrive]
    simp [State.frameDrive, validMask]
  · rw [hdrive] at hc
    obtain ⟨he, hdr, howner, hfc⟩ := State.cellDriven_some (by simpa [State.frameDrive] using hc)
    obtain ⟨hl, hidx⟩ := hexp.1 he
    rw [hdrivable, State.drivable_iff] at hdr
    obtain ⟨hint, h, damage, hentry, hst, hfc'⟩ := hdr
    rw [hface, hfc', Prod.mk.injEq] at hfc
    exact ⟨hl, hidx, howner.trans (State.opening_number u long), hint, h, damage, hentry, hst,
      hfc.1.symm, hfc.2.symm⟩
  · rw [hdrive]
    simp only [State.frameDrive, ochosen, hexp]
  · rw [hdrive]
    exact if_pos (hcensus.trans hl)
  · rw [hdrive]
    have hopen : (u.opening long).streams[n] = some st := by
      rw [State.opening_stream, hn]
      simp [Stream.applyCue, hact]
    have hslot : i ∈ (u.opening long).slotsToDrive
        (!(u.newFrame long).census && !(u.newFrame long).unexpected) st := by
      rw [State.mem_slotsToDrive, hdrivable]
      exact ⟨hexp.2 ⟨hl, hidx⟩, hs, hsend, hi, by rw [State.drivable, hheld, hint]; rfl⟩
    simpa [State.frameDrive] using State.cellDriven_isSome hopen hslot hlen
  · subst hl
    rw [hdrive, ← State.openFrame_stall hd hleft i]
    simp [State.frameDrive, hcensus]
  · obtain ⟨hstill, hlongst, hstall⟩ := State.openFrame_listener (s := u) long n hs
    refine ⟨u.streamOpens long n st, ?_, hstill, fun hl => ?_, fun hl => ?_⟩
    · rw [State.openFrame_stream hd hleft, hn]
      rfl
    · rw [hlongst hl, Stream.applyCue_stalled]
    · rw [hstall hl, State.streamOpens_defn]
      rfl

end Sys2Proof.Machine
end

section
/-! PROOFS. The census cell that a station composes at a census header (R79, R80, R93, R98). -/

namespace Sys2Proof.Machine

open Sys2Proof

/-! ### The declarations of a station -/

/-- The declarations of a station before the limit of eight, in slot order (R79). -/
def allDeclarations (slots : Vector Slot 24) (k : Station) : List Declaration :=
  (List.finRange 24).filterMap fun i => declarationOf k i slots[i].entry

theorem ownDeclarations_eq (slots : Vector Slot 24) (k : Station) :
    ownDeclarations slots k = (allDeclarations slots k).take 8 := rfl

/-- What a station declares of a slot: that it holds it, or its own candidate record (R69, R79). -/
theorem declarationOf_eq_some (k : Station) (i : Fin 24) (e : Entry) (d : Declaration) :
    declarationOf k i e = some d ↔ d.slot = BitVec.ofNat 5 i.val
      ∧ ((∃ h damage, e = .held h damage ∧ h.station = k ∧ d.label = h.label ∧ d.priority = h.priority)
        ∨ ∃ cs c, e = .unsure cs ∧ cs.find? (fun x => x.station == k) = some c
            ∧ d.label = c.label ∧ d.priority = c.priority) := by
  obtain ⟨slot, label, priority⟩ := d
  cases e with
  | held h damage =>
    by_cases hk : h.station = k <;> simp [declarationOf, hk, eq_comm (a := slot), eq_comm (a := label),
      eq_comm (a := priority)]
  | unsure cs =>
    cases hf : cs.find? (fun x => x.station == k) <;>
      simp [declarationOf, Entry.candidateOf, hf, eq_comm]
  | _ => simp [declarationOf, Entry.candidateOf]

/-- The number of a slot, in the five bits of a declaration. -/
theorem slotNumber_toNat (i : Fin 24) : (BitVec.ofNat 5 i.val).toNat = i.val := by
  have := i.isLt
  simp only [BitVec.toNat_ofNat]
  omega

theorem mem_allDeclarations (slots : Vector Slot 24) (k : Station) (d : Declaration) :
    d ∈ allDeclarations slots k ↔ ∃ i : Fin 24, d.slot.toNat = i.val
      ∧ ((∃ h damage, slots[i].entry = .held h damage ∧ h.station = k
            ∧ d.label = h.label ∧ d.priority = h.priority)
        ∨ ∃ cs c, slots[i].entry = .unsure cs ∧ cs.find? (fun x => x.station == k) = some c
            ∧ d.label = c.label ∧ d.priority = c.priority) := by
  have number : ∀ i : Fin 24, d.slot.toNat = i.val ↔ d.slot = BitVec.ofNat 5 i.val := fun i => by
    rw [← BitVec.toNat_inj, slotNumber_toNat]
  simp only [allDeclarations, List.mem_filterMap, List.mem_finRange, true_and, declarationOf_eq_some,
    number]

/-- The declarations come in slot order (R79). -/
theorem allDeclarations_ascending (slots : Vector Slot 24) (k : Station) :
    ((allDeclarations slots k).map (·.slot.toNat)).Pairwise (· < ·) := by
  rw [List.pairwise_map, allDeclarations, List.pairwise_filterMap]
  refine (List.pairwise_lt_finRange 24).imp fun hij d hd d' hd' => ?_
  rw [((declarationOf_eq_some _ _ _ _).1 hd).1, ((declarationOf_eq_some _ _ _ _).1 hd').1,
    slotNumber_toNat, slotNumber_toNat]
  exact hij

/-! ### The cell composed -/

theorem State.declarations_length (s : State) : s.declarations.length ≤ 8 := by
  unfold State.declarations
  split
  · rw [ownDeclarations_eq, List.length_take]
    exact Nat.min_le_left _ _
  · simp

/-- The held count of the cell is the number of declarations it carries (R17, R79). -/
theorem State.composeCell_heldCount (s : State) :
    s.composeCell.heldCount.toNat = s.declarations.length := by
  have := s.declarations_length
  simp only [State.composeCell, BitVec.toNat_ofNat]
  omega

/-- A position beyond the held count is blank (R17). -/
theorem State.composeCell_blank (s : State) (j : Fin 8)
    (h : s.composeCell.heldCount.toNat ≤ j.val) : s.composeCell.declarations[j] = ⟨0, 0, 0⟩ := by
  rw [State.composeCell_heldCount] at h
  simp [State.composeCell, Declaration.blank, List.getElem?_eq_none h]

/-- The meaningful declarations of the cell are the station's (R79). -/
theorem State.composeCell_meaningful (s : State) : s.composeCell.meaningful = s.declarations := by
  rw [CensusCell.meaningful, State.composeCell_heldCount]
  have hlen := s.declarations_length
  refine List.ext_getElem ?_ fun i hi hi' => ?_
  · simpa using hlen
  · simp [State.composeCell, List.getElem?_eq_getElem hi']

/-! ### The command of a header, and the cell -/

theorem State.performCommand_drive (s : State) (c : Command) : (s.performCommand c).drive = s.drive := by
  unfold State.performCommand State.openOne State.closeOne
  split
  · split <;> simp
  · simp
  · rfl

theorem State.performCommand_joinWord (s : State) (c : Command) :
    (s.performCommand c).joinWord = s.joinWord := by
  unfold State.performCommand State.openOne State.closeOne
  split
  · split <;> simp
  · simp
  · rfl

/-- Only STANDING changes the standing word (R190). -/
theorem State.performCommand_standing (s : State) (c : Command) (h : c.code ≠ .setStanding) :
    (s.performCommand c).standing = s.standing := by
  unfold State.performCommand State.openOne State.closeOne
  split
  · split <;> simp
  · simp
  · rename_i hc
    exact absurd hc h

@[simp] theorem State.takeCommand_drive (s : State) : s.takeCommand.drive = s.drive := by
  unfold State.takeCommand State.takeThis
  split
  · rfl
  · dsimp only
    split
    · exact State.performCommand_drive _ _
    · rfl

@[simp] theorem State.takeCommand_joinWord (s : State) : s.takeCommand.joinWord = s.joinWord := by
  unfold State.takeCommand State.takeThis
  split
  · rfl
  · dsimp only
    split
    · exact State.performCommand_joinWord _ _
    · rfl

theorem State.takeCommand_standing (s : State)
    (h : ∀ c, s.command = some c → c.code ≠ .setStanding) :
    s.takeCommand.standing = s.standing := by
  unfold State.takeCommand State.takeThis
  split
  · rfl
  · rename_i c hc
    dsimp only
    split
    · exact State.performCommand_standing _ _ (h c hc)
    · rfl

/-- A state in which the census cell of a header may be composed, when the header leaves `x` before its
command and `y` after it: the trunk protocol stands in it as in both, and the standing word as in one of
them, in `x` when no STANDING command is pending (R79, R93, log 7). -/
structure ComposedIn (x y z : State) : Prop where
  census : y.drive.census = some z.composeCell
  trunk : SameTrunk x z
  entries : ∀ i : Fin 24, y.slots[i].entry = z.slots[i].entry
  joinWord : z.joinWord = x.joinWord
  standing : z.standing = x.standing ∨ z.standing = y.standing
  otherwise : (∀ c, x.command = some c → c.code ≠ .setStanding) → z.standing = x.standing

/-- At a census header the cell is composed before the pending command is taken, or after it. -/
theorem State.commandAndCell_composed (x : State) (f : Frame) (hf : f.census = true) :
    ∃ z, ComposedIn x (x.commandAndCell f) z := by
  have taken : ∀ y : State, y.drive.census = some x.takeCommand.composeCell →
      (∀ i : Fin 24, y.slots[i].entry = x.takeCommand.slots[i].entry) →
      y.standing = x.takeCommand.standing → ComposedIn x y x.takeCommand := fun y hc he hs =>
    ⟨hc, SameTrunk.takeCommand x, he, State.takeCommand_joinWord x, .inr hs.symm,
      State.takeCommand_standing x⟩
  unfold State.commandAndCell
  by_cases hp : x.standingPending = true
  · by_cases ho : Config.standingFirst x.free = true
    · simp only [hf, hp, ho, Bool.not_true, Bool.false_eq_true, if_true, if_false]
      exact ⟨_, taken _ rfl (fun _ => rfl) rfl⟩
    · simp only [hf, hp, ho, Bool.not_true, Bool.false_eq_true, if_true, if_false]
      refine ⟨x, ?_, SameTrunk.refl x, (SameTrunk.takeCommand x.driveCensus).entries, rfl, .inl rfl,
        fun _ => rfl⟩
      exact congrArg Drive.census (State.takeCommand_drive x.driveCensus)
  · simp only [hf, hp, Bool.not_true, Bool.false_eq_true, if_false]
    exact ⟨_, taken _ rfl (fun _ => rfl) rfl⟩

/-! ### The rest of a census header -/

/-- What the cell composed at a header is made of, besides the map. -/
def State.cellSide (s : State) : Membership × Station × BitVec 16 × Option Word × Word × Option Command :=
  (s.membership, s.number, s.cycle, s.standing, s.joinWord, s.command)

/-- What is seen of the composition after the header. -/
def State.cellShown (s : State) : Membership × Option CensusCell × Option Word × Vector Slot 24 :=
  (s.membership, s.drive.census, s.standing, s.slots)

theorem State.oweVeto_cellSide (s : State) : s.oweVeto.cellSide = s.cellSide := by
  unfold State.oweVeto
  split <;> simp [State.cellSide]

theorem State.heedCues_cellShown (s : State) (bits : BitVec 4) (n : Option (Fin 16)) :
    (s.heedCues bits n).cellShown = s.cellShown := by
  unfold State.heedCues
  split <;> simp [State.cellShown]

/-- A census header is handled by what comes before the command, the command and the cell, what comes
after, and the check of R101. -/
def HeaderComposes (s : State) (f : Frame) (t : State) : Prop :=
  ∃ x z : State, x.cellSide = s.cellSide ∧ z.cellShown = (x.commandAndCell f).cellShown
    ∧ t = z.checkLeft

/-- What a header ends with leaves the composition as it is, but for the check of R101. -/
theorem State.finishHeader_shown (s : State) (f : Frame) :
    ∃ z : State, z.cellShown = s.cellShown ∧ s.finishHeader f = z.checkLeft := by
  refine ⟨_, ?_, rfl⟩
  split <;> simp [State.cellShown]

/-- No bid is chosen at a census header (R107). -/
theorem State.chooseAtHeader_cellShown (s : State) {f : Frame} (hf : f.census = true) :
    (s.chooseAtHeader f).cellShown = s.cellShown := by simp [State.chooseAtHeader, hf, State.cellShown]

theorem State.judgeHeader_composes (s : State) (bits : HeaderBits) {f : Frame}
    (hf : f.census = true) : HeaderComposes s f (s.judgeHeader bits f) := by
  let x := (s.countWin (arbitrationRead bits)).mapHeader (headerFields f bits)
  let cued := (x.commandAndCell f).heedCues (headerFields f bits).cue x.commandedStream
  obtain ⟨z, hz, ht⟩ := State.finishHeader_shown
    ((cued.chooseAll s.slots (headerFields f bits).stall f).chooseAtHeader f) f
  refine ⟨x, z, ?_, hz.trans ?_, ht⟩
  · simp [x, State.cellSide, State.mapHeader, State.handleHeader, State.countWin]
  · have hchoose : (cued.chooseAll s.slots (headerFields f bits).stall f).cellShown = cued.cellShown := by
      simp [State.cellShown, State.chooseAll]
    rw [State.chooseAtHeader_cellShown _ hf, hchoose]
    exact State.heedCues_cellShown _ _ _

theorem State.missHeader_composes (s : State) (arb : List Halves) (f : Frame) :
    HeaderComposes s f (s.missHeader arb f) := by
  let drop : State := { s.countWin (arb.map bitOfHalves) with chosenBid := none }
  let x := ((drop.unsettleAll.mapReport drop.closesPending s.slots).refreshIntent).oweVeto
  obtain ⟨z, hz, ht⟩ := State.finishHeader_shown ((x.commandAndCell f).chooseUnheard f) f
  refine ⟨x, z, ?_, hz.trans ?_, ht⟩
  · rw [State.oweVeto_cellSide]
    simp [State.cellSide, drop, State.countWin]
  · simp [State.cellShown, State.chooseUnheard]

/-- A census header that does not end membership composes the cell, intact or damaged. -/
theorem State.takeHeader_composes {s : State} {f : Frame} (header : HeaderRx)
    (hj : s.membership.judges = true) (hd : s.membership.drives = true → s.damageCount < 4)
    (hf : s.frame = some f) (hh : f.header = .due) (hc : f.census = true) :
    HeaderComposes s f (s.takeHeader header) := by
  have hr := Membership.receives_of_maps (Membership.maps_of_judges hj)
  have hdue : s.headerDue = some f := by simp [State.headerDue, hf, hr, hh]
  have damaged : ∀ arb, HeaderComposes s f (s.damagedHeader arb f) := by
    intro arb
    unfold State.damagedHeader
    dsimp only
    split
    · rename_i hdr
      have hlt : ¬ Config.damageLimit ≤ (s.setHeader .damaged).damageCount + 1 := by
        have := hd hdr
        simp only [Config.damageLimit, State.setHeader]
        omega
      rw [if_neg hlt]
      exact State.missHeader_composes { s.setHeader .damaged with
        damageCount := (s.setHeader .damaged).damageCount + 1 } arb f
    · rw [if_pos (show (s.setHeader .damaged).membership.judges = true from hj)]
      exact State.missHeader_composes (s.setHeader .damaged) arb f
  have intact : ∀ bits, HeaderComposes s f (s.intactHeader bits f) := by
    intro bits
    unfold State.intactHeader
    dsimp only
    rw [if_pos (show (s.setHeader (.intact (headerFields f bits).valid)).membership.judges = true
      from hj)]
    exact State.judgeHeader_composes (s.setHeader (.intact (headerFields f bits).valid)) bits hc
  unfold State.takeHeader
  rw [hdue]
  cases header with
  | damaged arb => exact damaged arb
  | intact bits =>
    dsimp only
    split
    · exact damaged []
    · exact intact bits

/-- An arrival of a header is taken, and the engines then issue what they can. -/
theorem exec_header (header : HeaderRx) (s : State) :
    exec header.command s = .next (s.takeHeader header).pump := by cases header <;> rfl

/-- Settles O34. -/
theorem censusHeaderComposesTheCell : Obligations.CensusHeaderComposesTheCell := by
  intro header s f hj hd hf hh hc
  refine ⟨_, exec_header header s, fun hm => ?_⟩
  obtain ⟨x, z, hx, hz, ht⟩ := State.takeHeader_composes header hj hd hf hh hc
  obtain ⟨w, hw⟩ := x.commandAndCell_composed f hc
  rw [ht] at hm ⊢
  simp only [State.cellSide, Prod.mk.injEq] at hx
  obtain ⟨hxm, hxn, hxc, hxs, hxj, hxcmd⟩ := hx
  simp only [State.cellShown, Prod.mk.injEq] at hz
  obtain ⟨hzm, hzc, hzs, hzsl⟩ := hz
  have hzleft : z.checkLeft = z := by
    unfold State.checkLeft
    split
    · rename_i hl
      have hs : s.membership = .leaving := by
        rw [← hl.1, hzm, State.commandAndCell_membership, hxm]
      rw [State.checkLeft, if_pos hl, hs] at hm
      cases hm
    · rfl
  rw [hzleft]
  have hnumber : w.number = s.number := hw.trunk.number.trans hxn
  have hmembership : w.membership = s.membership := hw.trunk.membership.trans hxm
  have hentry : ∀ i : Fin 24, z.pump.slots[i].entry = w.slots[i].entry := fun i => by
    rw [State.pump_slots, hzsl]
    exact hw.entries i
  refine ⟨w.composeCell, by rw [State.pump_drive, hzc, hw.census], hnumber,
    hw.trunk.cycle.trans hxc, ?_, fun hcmd => ?_, fun ha => ?_, w.composeCell_blank, fun hdr => ?_⟩
  · rw [State.pump_standing, hzs, ← hxj, ← hw.joinWord, ← hxs]
    rcases hw.standing with h | h <;> simp [State.composeCell, h]
  · have := hw.otherwise (by rwa [hxcmd])
    simp [State.composeCell, this, hxs, hw.joinWord, hxj]
  · have hno : w.declarations = [] := by simp [State.declarations, hmembership, ha, Membership.drives]
    simp [State.composeCell, hno]
  · have hdecl : w.declarations = (allDeclarations w.slots s.number).take 8 := by
      rw [State.declarations, hmembership, if_pos hdr, hnumber, ownDeclarations_eq]
    refine ⟨allDeclarations w.slots s.number, ?_, ?_, allDeclarations_ascending _ _, fun d => ?_⟩
    · rw [State.composeCell_meaningful, hdecl]
    · rw [State.composeCell_heldCount, hdecl, List.length_take]
    · simp only [hentry]
      exact mem_allDeclarations w.slots s.number d

end Sys2Proof.Machine
end

section
/-! PROOFS. What the census cells do as they arrive, and what census completion does (R18, R46, R70, R82,
R91, R92, R129). -/

namespace Sys2Proof.Machine

open Sys2Proof

/-! ### Events -/

/-- The mask of an event has the bit of that event alone (R199). -/
theorem StationEvent.mask_get (e e' : StationEvent) : e.mask.getLsbD e'.bit = (e == e') := by
  cases e <;> cases e' <;> decide

/-- Raising an event sets its bit and no other (R191). -/
theorem State.raise_bit (s : State) (e e' : StationEvent) :
    (s.raise e).events.getLsbD e'.bit = (s.events.getLsbD e'.bit || e == e') := by
  rw [State.raise, BitVec.getLsbD_or, StationEvent.mask_get]

theorem State.raiseIf_bit (s : State) (b : Bool) (e e' : StationEvent) :
    (s.raiseIf b e).events.getLsbD e'.bit = (s.events.getLsbD e'.bit || (b && e == e')) := by
  cases b
  · simp [State.raiseIf]
  · exact State.raise_bit s e e'

@[simp] theorem State.raiseIf_slots (s : State) (b : Bool) (e : StationEvent) :
    (s.raiseIf b e).slots = s.slots := by cases b <;> rfl

@[simp] theorem State.raiseIf_streams (s : State) (b : Bool) (e : StationEvent) :
    (s.raiseIf b e).streams = s.streams := by cases b <;> rfl

@[simp] theorem State.raiseIf_peers (s : State) (b : Bool) (e : StationEvent) :
    (s.raiseIf b e).peers = s.peers := by cases b <;> rfl

@[simp] theorem State.raiseIf_number (s : State) (b : Bool) (e : StationEvent) :
    (s.raiseIf b e).number = s.number := by cases b <;> rfl

@[simp] theorem State.raiseIf_index (s : State) (b : Bool) (e : StationEvent) :
    (s.raiseIf b e).index = s.index := by cases b <;> rfl

@[simp] theorem State.raiseIf_cycle (s : State) (b : Bool) (e : StationEvent) :
    (s.raiseIf b e).cycle = s.cycle := by cases b <;> rfl

/-! ### The governing cycle number (R91) -/

/-- The stations in ascending order: station `n` is the `n`-th. -/
theorem allStations_get (n : Nat) (h : n < allStations.length) : allStations[n] = BitVec.ofNat 5 n := by
  simp only [allStations, List.getElem_map, List.getElem_finRange]
  rfl

theorem mem_allStations (k : Station) : k ∈ allStations := by
  simp only [allStations, List.mem_map, List.mem_finRange, true_and]
  exact ⟨k.toFin, by simp⟩

/-- The lowest-numbered heard station governs (R91). -/
theorem Census.governing_of_lowest {c : Census} {self k : Station} {cell : CensusCell}
    (own : BitVec 16) (hk : c.heard self k = some cell)
    (lower : ∀ j : Station, j.toNat < k.toNat → c.heard self j = none) :
    c.governing self own = some (if k = self then own else cell.cycle) := by
  have hlen : k.toNat < allStations.length := by
    have := k.isLt
    simp only [allStations, List.length_map, List.length_finRange]
    omega
  have hget : allStations[k.toNat] = k := by rw [allStations_get]; simp
  have hsplit : allStations = allStations.take k.toNat ++ k :: allStations.drop (k.toNat + 1) := by
    conv_lhs => rw [← List.take_append_drop k.toNat allStations, List.drop_eq_getElem_cons hlen, hget]
  rw [Census.governing, List.findSome?_eq_some_iff]
  refine ⟨_, k, _, hsplit, by simp [hk], ?_⟩
  · intro j hj
    obtain ⟨n, hn, rfl⟩ := List.getElem_of_mem hj
    have hlt : n < k.toNat := by simpa using (List.length_take_le _ _).trans_lt' hn
    rw [List.getElem_take, allStations_get, lower, Option.map_none]
    have := k.isLt
    simp only [BitVec.toNat_ofNat]
    omega

/-- With no station heard no cycle number governs (R91). -/
theorem Census.governing_of_silent {c : Census} {self : Station} (own : BitVec 16)
    (h : ∀ k, c.heard self k = none) : c.governing self own = none := by
  simp [Census.governing, h]

/-- The cycle number that is adopted (R91). -/
theorem State.adoptCycle_cycle (s : State) (c : Census) :
    (s.adoptCycle c).cycle = (c.governing s.number s.cycle).getD s.cycle := by
  unfold State.adoptCycle
  split <;> simp [*]

/-- CYCLE_ADJUST is raised where the cycle number changes outside LISTENING, and no other event is
(R91, R92). -/
theorem State.adoptCycle_bit (s : State) (c : Census) (e : StationEvent) :
    (s.adoptCycle c).events.getLsbD e.bit = (s.events.getLsbD e.bit
      || ((s.adoptCycle c).cycle != s.cycle && s.membership != .listening
        && StationEvent.cycleAdjust == e)) := by
  rw [State.adoptCycle_cycle]
  unfold State.adoptCycle
  split
  · rename_i n hn
    rw [State.raiseIf_bit, hn]
    rfl
  · rename_i hn
    simp [hn]

@[simp] theorem State.adoptCycle_slots (s : State) (c : Census) : (s.adoptCycle c).slots = s.slots := by
  unfold State.adoptCycle
  split <;> simp

@[simp] theorem State.adoptCycle_streams (s : State) (c : Census) :
    (s.adoptCycle c).streams = s.streams := by
  unfold State.adoptCycle
  split <;> simp

@[simp] theorem State.adoptCycle_peers (s : State) (c : Census) : (s.adoptCycle c).peers = s.peers := by
  unfold State.adoptCycle
  split <;> simp

@[simp] theorem State.adoptCycle_number (s : State) (c : Census) :
    (s.adoptCycle c).number = s.number := by
  unfold State.adoptCycle
  split <;> simp

@[simp] theorem State.adoptCycle_index (s : State) (c : Census) : (s.adoptCycle c).index = s.index := by
  unfold State.adoptCycle
  split <;> simp

/-! ### What has changed in a table (R92) -/

/-- The faces of two tables differ where those of some entry do. -/
theorem map_face_ne_iff {α β : Type} [DecidableEq β] {n : Nat} (face : α → β) (old new : Vector α n) :
    ((old.toList.map face) != (new.toList.map face)) = true
      ↔ ∃ i : Fin n, face new[i] ≠ face old[i] := by
  rw [bne_iff_ne, ne_eq, ← not_forall_not, not_iff_not]
  constructor
  · intro h i hi
    have := List.getElem_of_eq h (i := i.val) (by simp)
    exact hi (by simpa using this.symm)
  · intro h
    refine List.ext_getElem (by simp) fun i hi hi' => ?_
    have := not_not.1 (h ⟨i, by simpa using hi⟩)
    simpa using this.symm

/-! ### Which labels open send streams carry (R46) -/

/-- The label that a stream carries as an open send stream. -/
def Stream.openLabel (st : Stream) : Option Label :=
  if st.isSend && st.state.openSend then some st.defn.label else none

/-- A label is carried by an open send stream of the table. -/
theorem openSendCarries_iff_openLabel (streams : Vector (Option Stream) 16) (l : Label) :
    openSendCarries streams l = true
      ↔ ∃ (n : Fin 16) (st : Stream), streams[n] = some st ∧ st.openLabel = some l := by
  simp [openSendCarries_iff, Stream.openLabel, and_assoc]

/-- The second table carries no label that the first does not. -/
def CarriesLess (v w : Vector (Option Stream) 16) : Prop :=
  ∀ l, openSendCarries w l = true → openSendCarries v l = true

theorem CarriesLess.refl (v : Vector (Option Stream) 16) : CarriesLess v v := fun _ h => h

theorem CarriesLess.trans {u v w : Vector (Option Stream) 16} (a : CarriesLess u v)
    (b : CarriesLess v w) : CarriesLess u w := fun l h => a l (b l h)

/-- A table whose streams each come from one that carries the same label, or carry none. -/
theorem CarriesLess.of_streams {v w : Vector (Option Stream) 16}
    (h : ∀ (n : Fin 16) (st' : Stream), w[n] = some st' → st'.openLabel = none
      ∨ ∃ st, v[n] = some st ∧ st'.openLabel = st.openLabel) : CarriesLess v w := by
  intro l hl
  obtain ⟨n, st', hn, hst⟩ := (openSendCarries_iff_openLabel w l).1 hl
  rcases h n st' hn with h0 | ⟨st, hv, hsame⟩
  · rw [h0] at hst
    cases hst
  · exact (openSendCarries_iff_openLabel v l).2 ⟨n, st, hv, hsame ▸ hst⟩

/-- A change of every stream that keeps what it carries, or ends it. -/
theorem CarriesLess.mapStreams (s : State) (f : Fin 16 → Stream → Stream)
    (h : ∀ n st, (f n st).openLabel = none ∨ (f n st).openLabel = st.openLabel) :
    CarriesLess s.streams (s.mapStreams f).streams := by
  refine .of_streams fun n st' hn => ?_
  simp only [Fin.getElem_fin, State.mapStreams_get] at hn
  obtain ⟨st, hst, rfl⟩ := Option.map_eq_some_iff.1 hn
  exact (h n st).imp_right fun hsame => ⟨st, hst, hsame⟩

/-- A change of every stream that keeps what it carries. -/
theorem CarriesLess.mapStreams_symm (s : State) (f : Fin 16 → Stream → Stream)
    (h : ∀ n st, (f n st).openLabel = st.openLabel) :
    CarriesLess (s.mapStreams f).streams s.streams := by
  refine .of_streams fun n st hn => .inr ⟨f n st, ?_, (h n st).symm⟩
  simp only [Fin.getElem_fin, State.mapStreams_get]
  rw [show s.streams[n.val] = some st from hn]
  rfl

/-- A slot stays asked for when fewer labels are carried (R46). -/
theorem AskedFor.mono {k : Station} {v w : Vector (Option Stream) 16} {e : Entry}
    (h : CarriesLess v w) (ha : Sys2Proof.Entry.AskedFor k v e) : Sys2Proof.Entry.AskedFor k w e := by
  rw [← Entry.asked_iff] at *
  cases e with
  | held x d =>
    simp only [Entry.asked, Bool.and_eq_true, Bool.not_eq_true'] at *
    refine ⟨ha.1, ?_⟩
    cases hw : openSendCarries w x.label with
    | false => rfl
    | true => rw [h _ hw] at ha; exact absurd ha.2 (by simp)
  | _ => exact ha

/-! ### What the operations of a census completion do to one stream -/

theorem Stream.openLabel_congr {st st' : Stream} (defn : st'.defn = st.defn)
    (state : st'.state.openSend = st.state.openSend) : st'.openLabel = st.openLabel := by
  simp [Stream.openLabel, Stream.isSend, defn, state]

/-- The rules keep an open send stream open (R122, R134). -/
theorem Stream.report_openLabel (k : Station) (old new : Vector Slot 24) (st : Stream) :
    (st.report k old new).openLabel = st.openLabel := by
  have hsend : ∀ slots, (st.standing k slots).openLabel = st.openLabel := fun slots => by
    unfold Stream.standing
    split
    · rename_i h
      simp only [Bool.and_eq_true] at h
      obtain ⟨-, ho⟩ := h
      repeat' split
      all_goals exact Stream.openLabel_congr rfl (by rw [ho]; rfl)
    · rfl
  have hlisten : ∀ slots, (st.listenRule slots).openLabel = st.openLabel := fun slots => by
    unfold Stream.listenRule
    split
    · rename_i h
      simp only [Bool.and_eq_true, Bool.not_eq_true'] at h
      have hs := h.1
      unfold Stream.isSend at hs
      simp [Stream.openLabel, Stream.isSend, hs]
    · rfl
  unfold Stream.report
  dsimp only
  split
  · split
    · rfl
    · exact hsend _
  · split
    · rfl
    · exact hlisten _

theorem Stream.noteStallRun_openLabel (st : Stream) : st.noteStallRun.openLabel = st.openLabel := by
  unfold Stream.noteStallRun
  split <;> rfl

theorem Stream.finishClosing_openLabel (part : Bool) (st : Stream) :
    (st.finishClosing part).openLabel = st.openLabel := by
  unfold Stream.finishClosing
  split
  · rename_i h
    simp only [Bool.and_eq_true, beq_iff_eq] at h
    simp [Stream.openLabel, Stream.signal, h.1.2, StreamState.openSend]
  · rfl

theorem Stream.issue_openLabel (st : Stream) : st.issue.openLabel = st.openLabel := by
  rw [Stream.issue_eq]
  rfl

/-- A closure leaves no open send stream (R131). -/
theorem Stream.close_openLabel (part : Bool) (st : Stream) :
    (st.close .labelClash part).openLabel = none
      ∨ (st.close .labelClash part).openLabel = st.openLabel := by
  unfold Stream.close
  split
  · split
    · left
      cases part <;> simp [Stream.closeSend, Stream.openLabel, StreamState.openSend]
    · split <;> exact .inr rfl
  · rename_i hs
    split
    · left
      unfold Stream.isSend at hs
      simp [Stream.closeListen, Stream.stopListen, Stream.openLabel, Stream.isSend, hs]
    · exact .inr rfl

/-- The stall-run flag stands, and the stream's event is not cleared (R129, R191). -/
structure StallKept (st st' : Stream) : Prop where
  stallRun : st'.stallRun = st.stallRun
  event : st.event = true → st'.event = true

theorem StallKept.refl (st : Stream) : StallKept st st := ⟨rfl, id⟩

theorem StallKept.trans {a b c : Stream} (h : StallKept a b) (h' : StallKept b c) : StallKept a c :=
  ⟨h'.stallRun.trans h.stallRun, fun e => h'.event (h.event e)⟩

theorem StallKept.close (part : Bool) (st : Stream) : StallKept st (st.close .labelClash part) := by
  unfold Stream.close
  split
  · split
    · exact ⟨rfl, fun h => by simp [Stream.closeSend, h]⟩
    · split <;> exact .refl st
  · split
    · exact ⟨rfl, fun h => by simp [Stream.closeListen, h]⟩
    · exact .refl st

theorem StallKept.finishClosing (part : Bool) (st : Stream) : StallKept st (st.finishClosing part) := by
  unfold Stream.finishClosing
  split
  · exact ⟨rfl, fun h => by simp [Stream.signal]⟩
  · exact .refl st

theorem StallKept.issue (st : Stream) : StallKept st st.issue := by
  rw [Stream.issue_eq]
  exact ⟨rfl, id⟩

/-- The rules read and write neither the class, nor the stall run, nor the event (R122, R134). -/
theorem Stream.report_stall (k : Station) (old new : Vector Slot 24) (st : Stream) :
    (st.report k old new).defn = st.defn ∧ (st.report k old new).stallRun = st.stallRun
      ∧ (st.report k old new).event = st.event
      ∧ (st.isSend = true → (st.report k old new).state.openSend = st.state.openSend) := by
  have hopen : st.isSend = true → (st.report k old new).defn = st.defn →
      (st.report k old new).state.openSend = st.state.openSend := by
    intro hs hd
    have h := Stream.report_openLabel k old new st
    unfold Stream.openLabel at h
    rw [Stream.isSend_congr hd, hs, hd, Bool.true_and, Bool.true_and] at h
    cases ho : (st.report k old new).state.openSend <;> cases ho' : st.state.openSend <;>
      simp [ho, ho'] at h ⊢
  have hrest : (st.report k old new).defn = st.defn ∧ (st.report k old new).stallRun = st.stallRun
      ∧ (st.report k old new).event = st.event := by
    unfold Stream.report Stream.standing Stream.listenRule
    dsimp only
    repeat' split
    all_goals exact ⟨rfl, rfl, rfl⟩
  exact ⟨hrest.1, hrest.2.1, hrest.2.2, fun hs => hopen hs hrest.1⟩

/-- The stall-run flag of an open PACED send stream is examined and set; of any other it stays
(R129). -/
theorem Stream.noteStallRun_spec (st : Stream) :
    (st.isSend = true ∧ st.state.openSend = true ∧ st.defn.cls = .paced →
        st.noteStallRun.stallRun = true ∧ (st.stallRun = true → st.noteStallRun.event = true))
      ∧ (st.isSend = false ∨ st.state.openSend = false ∨ st.defn.cls = .lossy →
        st.noteStallRun.stallRun = st.stallRun) := by
  refine ⟨fun ⟨hs, ho, hc⟩ => ?_, fun h => ?_⟩
  · exact ⟨by simp [Stream.noteStallRun, hs, ho, hc],
      fun hr => by simp [Stream.noteStallRun, hs, ho, hc, Stream.signal, hr]⟩
  · rcases h with h | h | h <;> simp [Stream.noteStallRun, h]

/-! ### A choice of the arbiter, as an induction -/

/-- What closures for a LABEL_CLASH and a change of the chosen bid keep, a choice of the arbiter keeps
(R107, R111). -/
theorem State.chooseBid_keeps (inv : State → Prop)
    (close : ∀ s n, inv s → inv (s.closeOne .labelClash n))
    (choose : ∀ s b, inv s → inv { s with chosenBid := b }) (s : State) (h : inv s) :
    inv s.chooseBid := by
  have one : ∀ s n, inv s → inv (s.tryCandidate n) := fun s n h => by
    unfold State.tryCandidate
    split
    · exact h
    · split
      · exact close _ _ h
      · split
        · exact h
        · exact choose _ _ h
  have all : ∀ ns s, inv s → inv (s.tryCandidates ns) := fun ns => by
    induction ns with
    | nil => exact fun _ h => h
    | cons n ns ih =>
      intro s h
      unfold State.tryCandidates
      dsimp only
      split
      · exact one _ _ h
      · exact ih _ (one _ _ h)
  unfold State.chooseBid
  dsimp only
  split
  · exact all _ _ (choose _ _ h)
  · exact choose _ _ h

/-! ### The release intent after a census completion -/

/-- At station `k` the release intent is up to date with the streams, from the intent `base` before, and
the labels carried are among those of `carried` (R46, R49). -/
structure IntentFollows (k : Station) (base : Fin 24 → Bool) (carried : Vector (Option Stream) 16)
    (s : State) : Prop where
  number : s.number = k
  intent : ∀ i : Fin 24, s.slots[i].intent = true ↔ Sys2Proof.Entry.StaysIntended k s.slots[i].entry
    ∧ (base i = true ∨ Sys2Proof.Entry.AskedFor k s.streams s.slots[i].entry)
  carries : CarriesLess carried s.streams

section
variable {k : Station} {base : Fin 24 → Bool} {carried : Vector (Option Stream) 16} {s t : State}

theorem IntentFollows.congr (h : IntentFollows k base carried s) (number : t.number = s.number)
    (slots : t.slots = s.slots) (streams : t.streams = s.streams) : IntentFollows k base carried t :=
  ⟨number.trans h.number, by rw [slots, streams]; exact h.intent, by rw [streams]; exact h.carries⟩

/-- A change of every stream that keeps the labels carried. -/
theorem IntentFollows.mapStreams (h : IntentFollows k base carried s) (f : Fin 16 → Stream → Stream)
    (label : ∀ n st, (f n st).openLabel = st.openLabel) :
    IntentFollows k base carried (s.mapStreams f) := by
  have hless := CarriesLess.mapStreams s f fun n st => .inr (label n st)
  have hmore := CarriesLess.mapStreams_symm s f label
  refine ⟨by rw [State.mapStreams_number, h.number], fun i => ?_, h.carries.trans hless⟩
  rw [State.mapStreams_slots, h.intent]
  exact and_congr_right fun _ => or_congr_right ⟨AskedFor.mono hless, AskedFor.mono hmore⟩

/-- The streams after one of them is closed (R131, R136). -/
theorem State.closeOne_stream (s : State) (reason : CloseReason) (n m : Fin 16) :
    (s.closeOne reason n).streams[m] = if m = n
      then (s.streams[n]).map fun st => st.close reason (s.streamHasPart n st) else s.streams[m] := by
  have hstreams : (s.closeOne reason n).streams
      = (s.onStream n fun st => st.close reason (s.streamHasPart n st)).streams := by
    simp [State.closeOne]
  rw [hstreams]
  split
  · rename_i h
    rw [h, State.onStream_get_self]
  · rename_i h
    exact State.onStream_get_other _ _ _ _ h

/-- A closure of one stream brings the intent up to date with it (R46, R131). -/
theorem IntentFollows.closeOne (h : IntentFollows k base carried s) (n : Fin 16) :
    IntentFollows k base carried (s.closeOne .labelClash n) := by
  have hless : CarriesLess s.streams (s.closeOne .labelClash n).streams := by
    refine .of_streams fun m st' hm => ?_
    rw [State.closeOne_stream] at hm
    split at hm
    · obtain ⟨st, hst, rfl⟩ := Option.map_eq_some_iff.1 hm
      rename_i hmn
      exact (Stream.close_openLabel _ st).imp_right fun hl => ⟨st, by rw [hmn, hst], hl⟩
    · exact .inr ⟨st', hm, rfl⟩
  have hstreams : (s.closeOne .labelClash n).streams
      = (s.onStream n fun st => st.close .labelClash (s.streamHasPart n st)).streams := by
    simp [State.closeOne]
  refine ⟨(SameTrunk.closeOne s _ n).number.trans h.number, fun i => ?_, h.carries.trans hless⟩
  have hintent := State.refreshIntent_intent
    (s.onStream n fun st => st.close .labelClash (s.streamHasPart n st)).cleanQueue i
  simp only [State.cleanQueue_slots, State.onStream_slots, State.cleanQueue_number,
    State.onStream_number, State.cleanQueue_streams, ← hstreams, h.number, h.intent] at hintent
  rw [(SameTrunk.closeOne s .labelClash n).entries i]
  refine hintent.trans ⟨?_, ?_⟩
  · rintro ⟨⟨-, hb | ha⟩ | ha, hstay⟩
    · exact ⟨hstay, .inl hb⟩
    · exact ⟨hstay, .inr (AskedFor.mono hless ha)⟩
    · exact ⟨hstay, .inr ha⟩
  · rintro ⟨hstay, hb | ha⟩
    · exact ⟨.inl ⟨hstay, .inl hb⟩, hstay⟩
    · exact ⟨.inr ha, hstay⟩

theorem IntentFollows.chooseBid (h : IntentFollows k base carried s) :
    IntentFollows k base carried s.chooseBid :=
  State.chooseBid_keeps _ (fun _ n hs => hs.closeOne n) (fun _ _ hs => hs.congr rfl rfl rfl) s h

theorem IntentFollows.finishClosing (h : IntentFollows k base carried s) :
    IntentFollows k base carried s.finishClosing :=
  h.mapStreams _ fun _ st => Stream.finishClosing_openLabel _ st

theorem IntentFollows.pump (h : IntentFollows k base carried s) :
    IntentFollows k base carried s.pump :=
  (h.mapStreams _ fun _ st => Stream.issue_openLabel st).congr (by simp) (by simp)
    (by rw [State.pump_streams]; rfl)

end

/-! ### Stall runs and events after a census completion -/

/-- No event of the station is raised or cleared, and every stream keeps its stall run (R129, R191). -/
structure StreamsKept (s t : State) : Prop where
  events : t.events = s.events
  stall : ∀ (n : Fin 16) (st : Stream), s.streams[n] = some st →
    ∃ st', t.streams[n] = some st' ∧ StallKept st st'

theorem StreamsKept.refl (s : State) : StreamsKept s s :=
  ⟨rfl, fun _ st hn => ⟨st, hn, .refl st⟩⟩

theorem StreamsKept.trans {s t u : State} (a : StreamsKept s t) (b : StreamsKept t u) :
    StreamsKept s u where
  events := b.events.trans a.events
  stall n st hn := by
    obtain ⟨st', hn', hst'⟩ := a.stall n st hn
    obtain ⟨st'', hn'', hst''⟩ := b.stall n st' hn'
    exact ⟨st'', hn'', hst'.trans hst''⟩

theorem StreamsKept.congr {s t u : State} (h : StreamsKept s t) (events : u.events = t.events)
    (streams : u.streams = t.streams) : StreamsKept s u :=
  ⟨events.trans h.events, by rw [streams]; exact h.stall⟩

theorem StreamsKept.mapStreams (s : State) (f : Fin 16 → Stream → Stream)
    (h : ∀ n st, StallKept st (f n st)) : StreamsKept s (s.mapStreams f) := by
  refine ⟨by simp, fun n st hn => ⟨f n st, ?_, h n st⟩⟩
  simp only [Fin.getElem_fin, State.mapStreams_get]
  rw [show s.streams[n.val] = some st from hn]
  rfl

theorem StreamsKept.closeOne (s : State) (n : Fin 16) : StreamsKept s (s.closeOne .labelClash n) := by
  refine ⟨by simp [State.closeOne], fun m st hm => ?_⟩
  rw [State.closeOne_stream]
  split
  · rename_i hmn
    exact ⟨_, by rw [← hmn, hm]; rfl, StallKept.close _ st⟩
  · exact ⟨st, hm, .refl st⟩

theorem StreamsKept.chooseBid (s : State) : StreamsKept s s.chooseBid :=
  State.chooseBid_keeps (StreamsKept s) (fun t n ht => ht.trans (StreamsKept.closeOne t n))
    (fun _ _ ht => ht.congr rfl rfl) s (StreamsKept.refl s)

theorem StreamsKept.finishClosing (s : State) : StreamsKept s s.finishClosing :=
  StreamsKept.mapStreams s _ fun _ st => StallKept.finishClosing _ st

theorem StreamsKept.pump (s : State) : StreamsKept s s.pump :=
  (StreamsKept.mapStreams s _ fun _ st => StallKept.issue st).congr (by simp)
    (by rw [State.pump_streams]; rfl)

end Sys2Proof.Machine
end

section
/-! PROOFS. Census completion: reconciliation, the transitions and the choice (R82 to R92). -/

namespace Sys2Proof.Machine

open Sys2Proof

/-! ### Reconciliation -/

/-- The map's part of reconciliation, with the peer table, the cycle number and their events. -/
theorem State.reconcile_entry (s : State) (c : Census) (i : Fin 24) :
    (s.reconcile c).slots[i].entry = (s.reconcileWith c).slot i s.slots[i].entry := by
  have h := State.refreshIntent_entry
    (((s.reconcileTables c).adoptCycle c).mapReport (fun _ => s.losesAt c.own) s.slots) i
  rw [State.mapReport_slots, State.adoptCycle_slots] at h
  rw [State.reconcile, State.mapStreams_slots]
  refine h.trans ?_
  simp [State.reconcileTables]

theorem State.reconcile_peers (s : State) (c : Census) : (s.reconcile c).peers
    = reconcilePeers c s.number (s.membership == Membership.listening) s.peers := by
  simp [State.reconcile, State.reconcileTables, State.reconcileWith]

theorem State.reconcile_cycle (s : State) (c : Census) :
    (s.reconcile c).cycle = (c.governing s.number s.cycle).getD s.cycle := by
  simp [State.reconcile, State.adoptCycle_cycle, State.reconcileTables]

theorem State.reconcile_index (s : State) (c : Census) : (s.reconcile c).index = s.index := by
  simp [State.reconcile, State.reconcileTables]

theorem State.reconcile_damageCount (s : State) (c : Census) : (s.reconcile c).damageCount = 0 := by
  simp [State.reconcile]

/-- The events of a reconciliation, by their causes (R91, R92). -/
theorem State.reconcile_bit (s : State) (c : Census) (e : StationEvent) :
    (s.reconcile c).events.getLsbD e.bit = (s.events.getLsbD e.bit
      || (peersChanged s.peers (s.reconcile c).peers && StationEvent.peerChange == e)
      || ((s.membership.drives && mapRepaired s.slots (mapEntries (s.reconcileWith c).slot s.slots))
        && StationEvent.censusRepair == e)
      || ((s.reconcile c).cycle != s.cycle && s.membership != .listening
        && StationEvent.cycleAdjust == e)) := by
  have hevents : (s.reconcile c).events = ((s.reconcileTables c).adoptCycle c).events := by
    simp [State.reconcile]
  have hcycle : (s.reconcile c).cycle = ((s.reconcileTables c).adoptCycle c).cycle := by
    simp [State.reconcile]
  have hcycle' : (s.reconcileTables c).cycle = s.cycle := by simp [State.reconcileTables]
  rw [hevents, hcycle, State.adoptCycle_bit, State.reconcileTables_membership, hcycle',
    State.reconcile_peers]
  simp only [State.reconcileTables, State.raiseIf_bit]
  rfl

/-- The streams after a reconciliation: the rules are applied where the map has changed what a stream
reads, and the stall run is examined (R34, R129). -/
theorem State.reconcile_stream (s : State) (c : Census) (n : Fin 16) (st : Stream)
    (h : s.streams[n] = some st) : ∃ st₁ : Stream, (s.reconcile c).streams[n] = some st₁.noteStallRun
      ∧ st₁.defn = st.defn ∧ st₁.stallRun = st.stallRun
      ∧ (st.isSend = true → st₁.state.openSend = st.state.openSend) := by
  have hs : ((s.reconcileTables c).adoptCycle c).streams[n] = some st := by
    rw [State.adoptCycle_streams, ← h]
    simp [State.reconcileTables]
  have hr : (s.reconcile c).streams[n]
      = ((((s.reconcileTables c).adoptCycle c).mapReport (fun _ => s.losesAt c.own)
          s.slots).streams[n]).map Stream.noteStallRun := by
    simp [State.reconcile]
  cases hl : s.losesAt c.own with
  | true =>
    rw [hl] at hr
    rw [hr, State.mapReport_closed _ _ _ _ rfl, hs]
    exact ⟨st, rfl, rfl, rfl, fun _ => rfl⟩
  | false =>
    rw [hl] at hr
    rw [hr, State.mapReport_open _ _ _ _ rfl, hs]
    obtain ⟨hdefn, hstall, -, hopen⟩ := Stream.report_stall _ s.slots _ st
    exact ⟨_, rfl, hdefn, hstall, hopen⟩

/-- Reconciliation brings the release intent up to date with the map and the streams (R46, R49). -/
theorem State.reconcile_intent (s : State) (c : Census) :
    IntentFollows s.number (fun i => s.slots[i].intent) s.streams (s.reconcile c) := by
  let x := (s.reconcileTables c).adoptCycle c
  have hnumber : x.number = s.number := by simp [x, State.reconcileTables]
  have hstreams : x.streams = s.streams := by simp [x, State.reconcileTables]
  have hintent : ∀ i : Fin 24, x.slots[i].intent = s.slots[i].intent := fun i => by
    simp [x, State.reconcileTables]
  have hless : CarriesLess s.streams (x.mapReport (fun _ => s.losesAt c.own) s.slots).streams := by
    rw [← hstreams]
    refine CarriesLess.mapStreams x _ fun n st => .inr ?_
    split
    · rfl
    · exact Stream.report_openLabel _ _ _ st
  have hfresh : IntentFollows s.number (fun i => s.slots[i].intent) s.streams
      (x.mapReport (fun _ => s.losesAt c.own) s.slots).refreshIntent := by
    refine ⟨by simp [hnumber], fun i => ?_, by simpa using hless⟩
    rw [State.refreshIntent_intent, State.refreshIntent_entry, State.refreshIntent_streams,
      State.mapReport_slots, State.mapReport_number, hnumber, hintent]
    exact and_comm
  exact (hfresh.congr (t := { (x.mapReport (fun _ => s.losesAt c.own) s.slots).refreshIntent with
    damageCount := 0 }) rfl rfl rfl).mapStreams _ fun _ st => Stream.noteStallRun_openLabel st

/-! ### The transitions -/

/-- What a transition at a census completion leaves as it was, and JOINED alone of the events it may
raise. -/
structure TransitionKeeps (r q : State) : Prop where
  slots : q.slots = r.slots
  streams : q.streams = r.streams
  peers : q.peers = r.peers
  cycle : q.cycle = r.cycle
  index : q.index = r.index
  number : q.number = r.number
  damageCount : r.damageCount = 0 → q.damageCount = 0
  events : ∀ e : StationEvent, e ≠ .joined → q.events.getLsbD e.bit = r.events.getLsbD e.bit

theorem TransitionKeeps.refl (r : State) : TransitionKeeps r r :=
  ⟨rfl, rfl, rfl, rfl, rfl, rfl, id, fun _ _ => rfl⟩

theorem TransitionKeeps.enterMember (r : State) : TransitionKeeps r r.enterMember := by
  refine ⟨rfl, rfl, rfl, rfl, rfl, rfl, fun _ => rfl, fun e he => ?_⟩
  have hj : (StationEvent.joined == e) = false := by simpa using he.symm
  rw [State.enterMember, State.raise_bit, hj, Bool.or_false]

/-- A station that enters REFUSED has no map (R102). -/
theorem State.enterRefused_maps (s : State) (reason : RefusalReason) :
    (s.enterRefused reason).membership.maps = false := by
  rw [State.enterRefused, State.takeCommand_membership]
  rfl

/-- A station that meets a loss condition has no map (R72, R76). -/
theorem State.lose_maps (s : State) : s.lose.membership.maps = false := by
  unfold State.lose
  split <;> rfl

theorem State.endMember_keeps {r : State} {own : Option Bool}
    (h : (r.endMember own).membership.maps = true) : TransitionKeeps r (r.endMember own) := by
  unfold State.endMember at *
  split
  · exact ⟨rfl, rfl, rfl, rfl, rfl, rfl, id, fun _ _ => rfl⟩
  · dsimp only at *
    split
    · rename_i hl
      rw [if_pos hl, State.lose_maps] at h
      cases h
    · exact ⟨rfl, rfl, rfl, rfl, rfl, rfl, id, fun _ _ => rfl⟩
  · exact .refl r

theorem State.endAnnouncing_keeps {r : State} {own : Option Bool}
    (h : (r.endAnnouncing own).membership.maps = true) : TransitionKeeps r (r.endAnnouncing own) := by
  unfold State.endAnnouncing at *
  split
  · split
    · exact .refl r
    · exact .enterMember r
  · dsimp only at *
    split
    · rename_i hl
      rw [if_pos hl, State.enterRefused_maps] at h
      cases h
    · exact ⟨rfl, rfl, rfl, rfl, rfl, rfl, id, fun _ _ => rfl⟩
  · exact .refl r

theorem State.endListening_keeps {r : State} {c : Census}
    (h : (r.endListening c).membership.maps = true) : TransitionKeeps r (r.endListening c) := by
  unfold State.endListening at *
  split
  · rename_i ha
    rw [ha] at h
    dsimp only at h
    rw [State.enterRefused_maps] at h
    cases h
  · exact ⟨rfl, rfl, rfl, rfl, rfl, rfl, id, fun _ _ => rfl⟩

/-- A transition after which the map still acts changes nothing that reconciliation has left
(R97 to R99). -/
theorem State.censusTransition_keeps {r : State} {c : Census}
    (h : (r.censusTransition c).membership.maps = true) :
    TransitionKeeps r (r.censusTransition c) := by
  unfold State.censusTransition at *
  cases hm : r.membership with
  | listening => rw [hm] at h; exact State.endListening_keeps h
  | announcing => rw [hm] at h; exact State.endAnnouncing_keeps h
  | member => rw [hm] at h; exact State.endMember_keeps h
  | leaving => rw [hm] at h; exact State.endMember_keeps h
  | _ => exact .refl r

/-! ### The completion -/

/-- A completion after which the map still acts is the reconciliation, a transition that keeps what it
left, the choice and the end of CLOSING streams. -/
theorem State.completeCensus_of_maps {s : State} {c : Census} (hm : s.membership.maps = true)
    (h : (s.completeCensus c).membership.maps = true) :
    ∃ q, TransitionKeeps (s.reconcile c) q ∧ s.completeCensus c = q.chooseBid.finishClosing := by
  have hcomplete : s.completeCensus c
      = ((s.reconcile c).censusTransition c).chooseBid.finishClosing.checkLeft := if_pos hm
  have hleft : ((s.reconcile c).censusTransition c).chooseBid.finishClosing.checkLeft
      = ((s.reconcile c).censusTransition c).chooseBid.finishClosing := by
    rw [hcomplete] at h
    unfold State.checkLeft at *
    split
    · rename_i hl
      rw [if_pos hl] at h
      cases h
    · rfl
  rw [hcomplete, hleft, State.finishClosing_membership, State.chooseBid_membership] at h
  exact ⟨_, State.censusTransition_keeps h, hcomplete.trans hleft⟩

/-- What a census completion leaves, of what reconciliation has made, while the map still acts. -/
structure Reconciled (r t : State) : Prop where
  entries : ∀ i : Fin 24, t.slots[i].entry = r.slots[i].entry
  peers : t.peers = r.peers
  cycle : t.cycle = r.cycle
  index : t.index = r.index
  damageCount : t.damageCount = 0
  events : ∀ e : StationEvent, e ≠ .joined → t.events.getLsbD e.bit = r.events.getLsbD e.bit
  stall : ∀ (n : Fin 16) (st : Stream), r.streams[n] = some st →
    ∃ st', t.streams[n] = some st' ∧ StallKept st st'

theorem State.completeCensus_reconciled {s : State} {c : Census} (hm : s.membership.maps = true)
    (h : (s.completeCensus c).membership.maps = true) :
    Reconciled (s.reconcile c) (s.completeCensus c).pump
      ∧ IntentFollows s.number (fun i => s.slots[i].intent) s.streams (s.completeCensus c).pump := by
  obtain ⟨q, hq, hcomplete⟩ := State.completeCensus_of_maps hm h
  rw [hcomplete]
  have htrunk : SameTrunk q q.chooseBid.finishClosing.pump :=
    ((SameTrunk.chooseBid q).trans (SameTrunk.finishClosing _)).trans (SameTrunk.pump _)
  have hkept : StreamsKept q q.chooseBid.finishClosing.pump :=
    ((StreamsKept.chooseBid q).trans (StreamsKept.finishClosing _)).trans (StreamsKept.pump _)
  refine ⟨⟨fun i => ?_, htrunk.peers.trans hq.peers, htrunk.cycle.trans hq.cycle,
    htrunk.index.trans hq.index,
    htrunk.damageCount.trans (hq.damageCount (s.reconcile_damageCount c)), fun e he => ?_,
    fun n st hn => hkept.stall n st (by rw [hq.streams]; exact hn)⟩,
    ((s.reconcile_intent c).congr hq.number hq.slots hq.streams).chooseBid.finishClosing.pump⟩
  · rw [← hq.slots]
    exact htrunk.entries i
  · rw [hkept.events]
    exact hq.events e he

/-! ### The arrivals of census cells -/

/-- The frame after its next census cell (R18). -/
theorem Frame.addCensus_eq (f : Frame) (rx : CensusRx) (own : Option Bool) :
    f.addCensus rx own = { f with arrived := f.arrived + 1, heard := f.heard ++ [rx]
                                  ownReadback := own.or f.ownReadback } := by
  cases own <;> rfl

/-- A census cell that arrives is the next of the frame in progress (R18). -/
theorem State.censusArrives_eq {s : State} {f : Frame} (hr : s.membership.receives = true)
    (hf : s.frame = some f) (hc : f.census = true) (hh : f.header ≠ .due) (ha : f.arrived < 32)
    (bits : CensusBits) : s.censusArrives bits = s.takeCensus f (classifyCensus f.arrived bits) := by
  have hdue : s.censusDue = some f := by
    simp [State.censusDue, hf, hr, hc, hh, Config.censusCellCount, ha]
  simp [State.censusArrives, hdue]

/-- Census cells 0 to 30 are recorded and act on nothing else (R18). -/
theorem State.takeCensus_of_lt (s : State) {f : Frame} (ha : f.arrived < 31) (rx : CensusRx) :
    s.takeCensus f rx
      = { s with frame := some (f.addCensus rx (s.censusReadback f.arrived rx)) } := by
  have hne : (f.addCensus rx (s.censusReadback f.arrived rx)).arrived ≠ Config.censusCellCount := by
    simp only [Frame.addCensus, Config.censusCellCount]
    omega
  rw [State.takeCensus]
  exact if_neg hne

/-- Census cell 31 completes the census (R82). -/
theorem State.takeCensus_of_last (s : State) {f : Frame} (ha : f.arrived = 31) (rx : CensusRx) :
    s.takeCensus f rx
      = State.completeCensus ⟨f.heard ++ [rx], (s.censusReadback 31 rx).or f.ownReadback⟩
          { s with frame := some (f.addCensus rx (s.censusReadback f.arrived rx)) } := by
  have heq : (f.addCensus rx (s.censusReadback f.arrived rx)).arrived = Config.censusCellCount := by
    simp [Frame.addCensus, Config.censusCellCount, ha]
  rw [State.takeCensus]
  refine (if_pos heq).trans ?_
  rw [Frame.addCensus_eq, ha]

/-- What the second part of O36 says of a completion of the census `c` that takes `s` to `t`. -/
theorem Reconciled.reconciles {s t : State} {c : Census} (hr : Reconciled (s.reconcile c) t)
    (hi : IntentFollows s.number (fun i => s.slots[i].intent) s.streams t) :
    t.peers = reconcilePeers c s.number (s.membership == Membership.listening) s.peers
    ∧ (∀ i : Fin 24, t.slots[i].entry = (s.reconcileWith c).slot i s.slots[i].entry
        ∧ (t.slots[i].intent = true ↔ Sys2Proof.Entry.StaysIntended s.number t.slots[i].entry
          ∧ (s.slots[i].intent = true
            ∨ Sys2Proof.Entry.AskedFor s.number s.streams t.slots[i].entry
            ∨ Sys2Proof.Entry.AskedFor s.number t.streams t.slots[i].entry)))
    ∧ (∀ k cell, c.heard s.number k = some cell →
        (∀ j : Station, j.toNat < k.toNat → c.heard s.number j = none) →
        t.cycle = if k = s.number then s.cycle else cell.cycle)
    ∧ ((∀ k, c.heard s.number k = none) → t.cycle = s.cycle)
    ∧ (t.events.getLsbD 5 = true ↔ s.events.getLsbD 5 = true
        ∨ ∃ k : Fin 32, t.peers[k].state ≠ s.peers[k].state)
    ∧ (t.events.getLsbD 4 = true ↔ s.events.getLsbD 4 = true
        ∨ s.membership.drives = true
          ∧ ∃ i : Fin 24, t.slots[i].entry.face ≠ s.slots[i].entry.face)
    ∧ (t.events.getLsbD 6 = true ↔ s.events.getLsbD 6 = true
        ∨ s.membership ≠ .listening ∧ t.cycle ≠ s.cycle)
    ∧ t.damageCount = 0 ∧ t.index = s.index
    ∧ ∀ (n : Fin 16) (st : Stream), s.streams[n] = some st →
        ∃ st', t.streams[n] = some st'
          ∧ (st.isSend = true ∧ st.state.openSend = true ∧ st.defn.cls = .paced →
              st'.stallRun = true ∧ (st.stallRun = true → st'.event = true))
          ∧ (st.isSend = false ∨ st.state.openSend = false ∨ st.defn.cls = .lossy →
              st'.stallRun = st.stallRun) := by
  have hentry : ∀ i : Fin 24, t.slots[i].entry = (s.reconcileWith c).slot i s.slots[i].entry :=
    fun i => (hr.entries i).trans (s.reconcile_entry c i)
  have hcycle := hr.cycle.trans (s.reconcile_cycle c)
  have hbit : ∀ e : StationEvent, e ≠ .joined → _ := fun e he =>
    (hr.events e he).trans (s.reconcile_bit c e)
  rw [← hr.cycle, ← hr.peers] at hbit
  refine ⟨hr.peers.trans (s.reconcile_peers c), fun i => ⟨hentry i, (hi.intent i).trans ?_⟩,
    fun k cell hk hlow => ?_, fun hno => ?_, ?_, ?_, ?_, hr.damageCount,
    hr.index.trans (s.reconcile_index c), fun n st hn => ?_⟩
  · exact and_congr_right fun _ => or_congr_right
      ⟨.inr, fun h => h.elim (AskedFor.mono hi.carries) id⟩
  · rw [hcycle, Census.governing_of_lowest _ hk hlow, Option.getD_some]
  · rw [hcycle, Census.governing_of_silent _ hno, Option.getD_none]
  · have h := hbit .peerChange (by decide)
    rw [show (5 : Nat) = StationEvent.peerChange.bit from rfl, h]
    have hface := map_face_ne_iff (·.state) s.peers t.peers
    rw [peersChanged]
    simp [hface]
  · have h := hbit .censusRepair (by decide)
    rw [show (4 : Nat) = StationEvent.censusRepair.bit from rfl, h]
    have hface := map_face_ne_iff (·.entry.face) s.slots (mapEntries (s.reconcileWith c).slot s.slots)
    rw [mapRepaired]
    simp only [hentry]
    simp [hface]
  · have h := hbit .cycleAdjust (by decide)
    rw [show (6 : Nat) = StationEvent.cycleAdjust.bit from rfl, h]
    simp [and_comm]
  · obtain ⟨st₁, hn₁, hdefn, hrun, hopen⟩ := s.reconcile_stream c n st hn
    obtain ⟨st', hn', hkept⟩ := hr.stall n _ hn₁
    obtain ⟨hpaced, hother⟩ := st₁.noteStallRun_spec
    have hsend := Stream.isSend_congr hdefn
    refine ⟨st', hn', fun ⟨hs, ho, hc⟩ => ?_, fun h => ?_⟩
    · obtain ⟨hset, hevent⟩ := hpaced ⟨by rw [hsend, hs], by rw [hopen hs, ho], by rw [hdefn, hc]⟩
      exact ⟨hkept.stallRun.trans hset, fun h => hkept.event (hevent (by rw [hrun, h]))⟩
    · rw [hkept.stallRun, ← hrun]
      refine hother ?_
      rw [hsend, hdefn]
      cases hs : st.isSend with
      | false => exact .inl rfl
      | true => rw [hopen hs]; exact .inr (by simpa [hs] using h)

/-- Settles O36. -/
theorem censusCompletionReconciles : Obligations.CensusCompletionReconciles := by
  refine ⟨fun bits s f hr hf hc hh ha => ?_, fun bits s f c hm hf hc hh ha hrx hown => ?_⟩
  · have hlt : f.arrived < 32 := by omega
    refine ⟨_, rfl, ?_⟩
    rw [State.censusArrives_eq hr hf hc hh hlt, State.takeCensus_of_lt s ha, Frame.addCensus_eq]
    simp
  · have hr := Membership.receives_of_maps hm
    have hlt : f.arrived < 32 := by omega
    have hcensus : c = ⟨f.heard ++ [classifyCensus 31 bits],
        (s.censusReadback 31 (classifyCensus 31 bits)).or f.ownReadback⟩ := by
      cases c
      simp_all
    refine ⟨_, rfl, fun ht => ?_⟩
    rw [State.censusArrives_eq hr hf hc hh hlt, ha, State.takeCensus_of_last s ha, ← hcensus] at ht ⊢
    rw [State.pump_membership] at ht
    have hcompleted := fun hm => State.completeCensus_reconciled hm ht
    obtain ⟨hrec, hint⟩ := hcompleted hm
    have hreconciled := hrec.reconciles hint
    exact hreconciled

end Sys2Proof.Machine
end

section
/-! PROOFS. The trunk formats as bits: the places of their fields (R15, R17, R195) and how their arrivals
are classed (R15, R18). -/

namespace Sys2Proof.Machine

open Sys2Proof

/-! ### Fields in send order -/

/-- The bit sent `i`-th of a field is the bit sent `first + i`-th of the format (R195). -/
theorem fieldAt_getMsbD {n : Nat} (w : BitVec n) {first len i : Nat} (h : first + len ≤ n)
    (hi : i < len) : (fieldAt w first len).getMsbD i = w.getMsbD (first + i) := by
  have hplace : n - (first + len) + (len - 1 - i) = n - 1 - (first + i) := by omega
  have hlt : first + i < n := by omega
  have hle : len - 1 - i < len := by omega
  simp only [fieldAt, BitVec.getMsbD_eq_getLsbD, BitVec.getLsbD_extractLsb', hplace, hi, hle, hlt,
    decide_true, Bool.true_and]

/-- Two words are the same when they are sent the same. -/
theorem eq_of_sent_eq {n : Nat} {x y : BitVec n} (h : ∀ i < n, x.getMsbD i = y.getMsbD i) : x = y :=
  BitVec.eq_of_getMsbD_eq h

/-- A field of the part that is sent first. -/
theorem fieldAt_append_left {a b : Nat} (x : BitVec a) (y : BitVec b) (first len : Nat)
    (h : first + len ≤ a) : fieldAt (no_index (x ++ y)) first len = fieldAt x first len := by
  refine eq_of_sent_eq fun i hi => ?_
  have hlt : ¬ a ≤ first + i := by omega
  rw [fieldAt_getMsbD _ (by omega) hi, fieldAt_getMsbD _ h hi, BitVec.getMsbD_append, if_neg hlt]

/-- A field of the part that is sent last. -/
theorem fieldAt_append_right {a b : Nat} (x : BitVec a) (y : BitVec b) (first len : Nat)
    (ha : a ≤ first) (h : first - a + len ≤ b) :
    fieldAt (no_index (x ++ y)) first len = fieldAt y (first - a) len := by
  refine eq_of_sent_eq fun i hi => ?_
  have hge : a ≤ first + i := by omega
  have hplace : first + i - a = first - a + i := by omega
  rw [fieldAt_getMsbD _ (by omega) hi, fieldAt_getMsbD _ h hi, BitVec.getMsbD_append, if_pos hge,
    hplace]

/-- The whole of a format is a field of it. -/
theorem fieldAt_whole {n : Nat} (x : BitVec n) : fieldAt x 0 n = x := by
  refine eq_of_sent_eq fun i hi => ?_
  rw [fieldAt_getMsbD _ (by omega) hi, Nat.zero_add]

/-- A field of a field. -/
theorem fieldAt_fieldAt {n : Nat} (w : BitVec n) (first len first' len' : Nat)
    (h : first + len ≤ n) (h' : first' + len' ≤ len) :
    fieldAt (fieldAt w first len) first' len' = fieldAt w (first + first') len' := by
  refine eq_of_sent_eq fun i hi => ?_
  rw [fieldAt_getMsbD _ h' hi, fieldAt_getMsbD _ h (by omega), fieldAt_getMsbD _ (by omega) hi,
    Nat.add_assoc]

/-- A bit is a field of one bit. -/
theorem bitAt_eq_field {n : Nat} (w : BitVec n) (i : Nat) (h : i + 1 ≤ n) :
    bitAt w i = (fieldAt w i 1).getMsbD 0 := (fieldAt_getMsbD w h Nat.zero_lt_one).symm

/-- The bit sent `i`-th is bit `n - 1 - i`. -/
theorem bitAt_eq_getLsbD {n : Nat} (w : BitVec n) (i : Nat) (h : i < n) :
    bitAt w i = w.getLsbD (n - 1 - i) := by
  rw [bitAt, BitVec.getMsbD_eq_getLsbD, decide_eq_true h, Bool.true_and]

/-- A flag of a field indexed by line or slot (R195). -/
theorem flagsAt_getLsbD {n : Nat} (w : BitVec n) {first len i : Nat} (h : first + len ≤ n)
    (hi : i < len) : (flagsAt w first len).getLsbD i = w.getLsbD (n - 1 - (first + i)) := by
  have hlt : first + i < n := by omega
  rw [flagsAt, BitVec.getLsbD_reverse, fieldAt_getMsbD _ h hi, BitVec.getMsbD_eq_getLsbD,
    decide_eq_true hlt, Bool.true_and]

/-! ### The checks -/

/-- The bits in send order, from the highest place down. -/
theorem sendOrder_eq_getLsbD {n : Nat} (w : BitVec n) :
    sendOrder w = (List.range n).map fun i => w.getLsbD (n - 1 - i) := by
  refine List.map_congr_left fun i hi => ?_
  exact bitAt_eq_getLsbD w i (List.mem_range.1 hi)

/-- A cell passes when the bits sent last are the check of those before them (R14). -/
theorem cellPasses_iff (w : CellBits) :
    cellPasses w = true ↔ w.extractLsb' 0 8 = cellCheck (w.extractLsb' 8 56) := beq_iff_eq

/-- So does a census cell (R17). -/
theorem censusPasses_iff (w : CensusBits) :
    censusPasses w = true ↔ w.extractLsb' 0 16 = censusCheck (w.extractLsb' 16 210) := beq_iff_eq

/-! ### How census cells are classed -/

/-- A declaration names a slot of the trunk and a label (R18). -/
theorem Declaration.ok_iff (d : Declaration) : d.ok = true ↔ d.slot.toNat < 24 ∧ d.label ≠ 0 := by
  simp [Declaration.ok, Config.slotCount]

/-- The meaningful declarations are those in the first held-count positions (R17). -/
theorem CensusCell.all_meaningful (c : CensusCell) (h : c.heldCount.toNat ≤ 8) (p : Declaration → Prop) :
    (∀ d ∈ c.meaningful, p d) ↔ ∀ i : Fin 8, i.val < c.heldCount.toNat → p c.declarations[i] := by
  have hmem : ∀ d, d ∈ c.meaningful ↔ ∃ i : Fin 8, i.val < c.heldCount.toNat
      ∧ c.declarations[i] = d := by
    intro d
    rw [CensusCell.meaningful, List.mem_take_iff_getElem]
    constructor
    · rintro ⟨i, hi, rfl⟩
      rw [Vector.length_toList] at hi
      exact ⟨⟨i, by omega⟩, by simp only; omega, by simp⟩
    · rintro ⟨i, hi, rfl⟩
      exact ⟨i.val, by simp; omega, by simp⟩
  simp only [hmem]
  exact ⟨fun hall i hi => hall _ ⟨i, hi, rfl⟩, fun hall d ⟨i, hi, hd⟩ => hd ▸ hall i hi⟩

theorem classifyCensus_silent (k : Nat) (w : CensusBits) : classifyCensus k w = .silent ↔ w = 0 := by
  unfold classifyCensus
  dsimp only
  split
  · simp [*]
  · rename_i hw
    split <;> exact iff_of_false (by simp) hw

/-- A census cell is intact when its check passes, it echoes the station of its place, and its
declarations are in range (R18). -/
theorem classifyCensus_intact (k : Nat) (w : CensusBits) (c : CensusCell) :
    classifyCensus k w = .intact c ↔ w ≠ 0 ∧ c = parseCensusCell w ∧ censusPasses w = true
      ∧ c.echo.toNat = k ∧ c.heldCount.toNat ≤ 8
      ∧ ∀ i : Fin 8, i.val < c.heldCount.toNat →
          (c.declarations[i]).slot.toNat < 24 ∧ (c.declarations[i]).label ≠ 0 := by
  have hok : (parseCensusCell w).heldCount.toNat ≤ 8 →
      ((parseCensusCell w).meaningful.all Declaration.ok = true
        ↔ ∀ i : Fin 8, i.val < (parseCensusCell w).heldCount.toNat →
          ((parseCensusCell w).declarations[i]).slot.toNat < 24
            ∧ ((parseCensusCell w).declarations[i]).label ≠ 0) := fun h => by
    rw [List.all_eq_true, ← CensusCell.all_meaningful _ h fun d => d.slot.toNat < 24 ∧ d.label ≠ 0]
    simp only [Declaration.ok_iff]
  unfold classifyCensus
  dsimp only
  by_cases hw : w = 0
  · simp [hw]
  · rw [if_neg hw]
    constructor
    · intro h
      split at h
      · rename_i hc
        cases h
        simp only [Bool.and_eq_true, beq_iff_eq, decide_eq_true_eq, Config.declarationLimit] at hc
        obtain ⟨⟨⟨hpass, hecho⟩, hheld⟩, hall⟩ := hc
        exact ⟨hw, rfl, hpass, hecho, hheld, (hok hheld).1 hall⟩
      · cases h
    · rintro ⟨-, rfl, hpass, hecho, hheld, hall⟩
      rw [if_pos]
      simp only [Bool.and_eq_true, beq_iff_eq, decide_eq_true_eq, Config.declarationLimit]
      exact ⟨⟨⟨hpass, hecho⟩, hheld⟩, (hok hheld).2 hall⟩

/-! ### The fields of a header, a cell and a census cell -/

theorem parseHeader_places (w : HeaderBits) :
    (parseHeader w).veto = w.getLsbD 102
    ∧ (∀ i : Nat, i < 4 → (parseHeader w).cue.getLsbD i = w.getLsbD (101 - i))
    ∧ (∀ i : Nat, i < 24 → (parseHeader w).valid.getLsbD i = w.getLsbD (97 - i)
        ∧ (parseHeader w).stall.getLsbD i = w.getLsbD (73 - i)
        ∧ (parseHeader w).release.getLsbD i = w.getLsbD (49 - i)) := by
  have flag : ∀ first len i top : Nat, first + len ≤ 103 → i < len → 102 - first = top →
      (flagsAt w first len).getLsbD i = w.getLsbD (top - i) := by
    intro first len i top h hi htop
    rw [flagsAt_getLsbD w h hi]
    congr 1
    omega
  exact ⟨bitAt_eq_getLsbD w 0 (by decide), fun i hi => flag 1 4 i 101 (by decide) hi rfl,
    fun i hi => ⟨flag 5 24 i 97 (by decide) hi rfl, flag 29 24 i 73 (by decide) hi rfl,
      flag 53 24 i 49 (by decide) hi rfl⟩⟩

theorem parseBid_places (w : HeaderBits) : parseBid w = if w.getLsbD 25 then some
    { priority := w.extractLsb' 23 2, station := ~~~ w.extractLsb' 18 5, preempt := w.getLsbD 17,
      slot := w.extractLsb' 12 5, label := w.extractLsb' 0 12 } else none := by
  rw [parseBid, bitAt_eq_getLsbD w 77 (by decide), bitAt_eq_getLsbD w 85 (by decide)]
  rfl

theorem parseCell_places (w : CellBits) : parseCell w =
    { owner := w.extractLsb' 59 5, priority := w.extractLsb' 57 2, label := w.extractLsb' 45 12,
      sequence := w.extractLsb' 41 4, mark := w.getLsbD 40, word := w.extractLsb' 8 32 } := by
  rw [parseCell, bitAt_eq_getLsbD w 23 (by decide)]
  rfl

/-- A declaration of a census cell stands 19 bits below the one before it (R195). -/
theorem parseDeclaration_places (w : CensusBits) (i : Nat) : parseDeclaration w i =
    { slot := w.extractLsb' (163 - 19 * i) 5, label := w.extractLsb' (151 - 19 * i) 12,
      priority := w.extractLsb' (149 - 19 * i) 2 } := by
  have hslot : 226 - (58 + 19 * i + 5) = 163 - 19 * i := by omega
  have hlabel : 226 - (63 + 19 * i + 12) = 151 - 19 * i := by omega
  have hpriority : 226 - (75 + 19 * i + 2) = 149 - 19 * i := by omega
  rw [parseDeclaration, fieldAt, fieldAt, fieldAt, hslot, hlabel, hpriority]

/-- Settles O30: each field of an arrival stands at its place in send order, and how it is classed is
its check and its ranges. -/
theorem arrivalsAreClassedByTheirBits : Obligations.ArrivalsAreClassedByTheirBits := by
  refine ⟨fun w => ?_, fun w => ⟨parseCell_places w, cellPasses_iff w, rfl, rfl, rfl⟩, fun f i => ?_,
    fun w => ?_, fun x => ?_, fun x => ?_⟩
  · obtain ⟨hveto, hcue, hflags⟩ := parseHeader_places w
    exact ⟨hveto, hcue, hflags, parseBid_places w, rfl⟩
  · exact ⟨fun v h => by simp [Frame.validAt, h], fun h => by simp [Frame.validAt, h]⟩
  · refine ⟨rfl, rfl, bitAt_eq_getLsbD w 21 (by decide), rfl, rfl, fun i => ?_, censusPasses_iff w,
      fun k => ⟨classifyCensus_silent k w, classifyCensus_intact k w⟩⟩
    rw [← parseDeclaration_places]
    simp [parseCensusCell]
  · rw [cellCheck, sendOrder_eq_getLsbD]
    rfl
  · rw [censusCheck, sendOrder_eq_getLsbD]
    rfl

end Sys2Proof.Machine
end

section
/-! PROOFS. The trunk formats are read back as they are sent (R9 to R12, R14, R15, R17, R18, R195). -/

namespace Sys2Proof.Machine

open Sys2Proof

/-! ### Sent formats -/

@[simp] theorem sendOrder_length {n : Nat} (w : BitVec n) : (sendOrder w).length = n := by
  simp [sendOrder]

theorem sendOrder_getElem? {n : Nat} (w : BitVec n) {i : Nat} (h : i < n) :
    (sendOrder w)[i]? = some (w.getMsbD i) := by simp [sendOrder, h]

/-- A format of two parts is sent as the one and then the other. -/
theorem sendOrder_append {a b : Nat} (x : BitVec a) (y : BitVec b) :
    sendOrder (x ++ y) = sendOrder x ++ sendOrder y := by
  refine List.ext_getElem? fun i => ?_
  rcases Nat.lt_or_ge i a with h | h
  · rw [List.getElem?_append_left (by simpa using h), sendOrder_getElem? _ (by omega),
      sendOrder_getElem? _ h, BitVec.getMsbD_append, if_neg (by omega)]
  · rw [List.getElem?_append_right (by simpa using h), sendOrder_length]
    rcases Nat.lt_or_ge i (a + b) with h' | h'
    · rw [sendOrder_getElem? _ h', sendOrder_getElem? _ (by omega), BitVec.getMsbD_append, if_pos h]
    · rw [List.getElem?_eq_none (by simpa using h'), List.getElem?_eq_none (by simp; omega)]

/-- A flag field is read back from the order it is sent in (R195). -/
theorem flagsAt_of_field {n len : Nat} {w : BitVec n} {first : Nat} {x : BitVec len}
    (h : fieldAt w first len = x.reverse) : flagsAt w first len = x := by
  rw [flagsAt, h, BitVec.reverse_reverse_eq]

/-- A bit is read back from the field it is sent as. -/
theorem bitAt_of_field {n : Nat} {w : BitVec n} {i : Nat} {b : Bool} (hi : i + 1 ≤ n)
    (h : fieldAt w i 1 = BitVec.ofBool b) : bitAt w i = b := by
  rw [bitAt_eq_field w i hi, h]
  cases b <;> rfl

/-! ### Headers -/

/-- The fields of a header as it is sent (R195). -/
theorem encodeHeader_fields (h : Header) :
    fieldAt (encodeHeader h) 0 1 = BitVec.ofBool h.veto ∧ fieldAt (encodeHeader h) 1 4 = h.cue.reverse
    ∧ fieldAt (encodeHeader h) 5 24 = h.valid.reverse ∧ fieldAt (encodeHeader h) 29 24 = h.stall.reverse
    ∧ fieldAt (encodeHeader h) 53 24 = h.release.reverse
    ∧ fieldAt (encodeHeader h) 77 26 = encodeBid h.bid := by
  refine ⟨?_, ?_, ?_, ?_, ?_, ?_⟩ <;>
    simp (disch := decide) only [encodeHeader, fieldAt_append_left, fieldAt_append_right,
      Nat.reduceAdd, Nat.sub_self, fieldAt_whole]

/-- The fields of a bid as the winner drives it (R12). -/
theorem encodeBid_fields (b : Bid) :
    fieldAt (encodeBid (some b)) 0 1 = 1#1 ∧ fieldAt (encodeBid (some b)) 1 2 = b.priority
    ∧ fieldAt (encodeBid (some b)) 3 5 = ~~~ b.station
    ∧ fieldAt (encodeBid (some b)) 8 1 = BitVec.ofBool b.preempt
    ∧ fieldAt (encodeBid (some b)) 9 5 = b.slot ∧ fieldAt (encodeBid (some b)) 14 12 = b.label := by
  refine ⟨?_, ?_, ?_, ?_, ?_, ?_⟩ <;>
    simp (disch := decide) only [encodeBid, fieldAt_append_left, fieldAt_append_right,
      Nat.reduceAdd, Nat.sub_self, fieldAt_whole]

/-- The BID field is read back (R12). -/
theorem parseBid_of_field {w : HeaderBits} {o : Option Bid} (h : fieldAt w 77 26 = encodeBid o) :
    parseBid w = o := by
  have sub : ∀ first len, first + len ≤ 26 →
      fieldAt w (77 + first) len = fieldAt (encodeBid o) first len := fun first len hl => by
    rw [← h, fieldAt_fieldAt w 77 26 first len (by decide) hl]
  have present := sub 0 1 (by decide)
  unfold parseBid
  cases o with
  | none => rw [bitAt_of_field (b := false) (by decide) (present.trans (by decide))]; rfl
  | some b =>
    obtain ⟨hpresent, hpriority, hstation, hpreempt, hslot, hlabel⟩ := encodeBid_fields b
    rw [bitAt_of_field (b := true) (by decide) (present.trans hpresent),
      bitAt_of_field (by decide) ((sub 8 1 (by decide)).trans hpreempt),
      (sub 1 2 (by decide)).trans hpriority, (sub 3 5 (by decide)).trans hstation,
      (sub 9 5 (by decide)).trans hslot, (sub 14 12 (by decide)).trans hlabel, BitVec.not_not]
    rfl

/-- A header is read back from the bits it is sent as. -/
theorem parseHeader_encodeHeader (h : Header) : parseHeader (encodeHeader h) = h := by
  obtain ⟨hveto, hcue, hvalid, hstall, hrelease, hbid⟩ := encodeHeader_fields h
  rw [parseHeader, bitAt_of_field (by decide) hveto, flagsAt_of_field hcue, flagsAt_of_field hvalid,
    flagsAt_of_field hstall, flagsAt_of_field hrelease, parseBid_of_field hbid]

/-! ### The halves of a header -/

/-- A bit of header bits is the bit that came in its place. -/
theorem headerBits_getMsbD (bits : List Bool) {i : Nat} (h : i < 103) :
    (headerBits bits).getMsbD i = bits.getD i false := by
  have hplace : 102 - (103 - 1 - i) = i := by omega
  rw [headerBits, BitVec.getMsbD_eq_getLsbD, BitVec.getLsbD_ofFnLE, decide_eq_true h, Bool.true_and,
    dif_pos (by omega), hplace]

/-- The fields of a format are those of the header bits it comes as. -/
theorem fieldAt_headerBits {n : Nat} (w : BitVec n) (hn : n ≤ 103) {first len : Nat}
    (h : first + len ≤ n) : fieldAt (headerBits (sendOrder w)) first len = fieldAt w first len := by
  refine eq_of_sent_eq fun i hi => ?_
  rw [fieldAt_getMsbD _ (by omega) hi, fieldAt_getMsbD _ h hi, headerBits_getMsbD _ (by omega),
    List.getD_eq_getElem?_getD, sendOrder_getElem? _ (by omega), Option.getD_some]

/-- Halves in which a whole header is sent are received as its bits (R9, R11). -/
theorem receiveHeader_sendHeader (census : Bool) (w : BitVec (headerLength census)) :
    receiveHeader census (sendHeader w) = .intact (headerBits (sendOrder w)) := by
  have hlen : (sendHeader w).length = headerLength census := by simp [sendHeader]
  rw [receiveHeader, List.take_of_length_le hlen.le, sendHeader, mapM_bitOfHalves]
  exact if_pos hlen.ge

/-- The two fields of a census header as it is sent (R10). -/
theorem encodeCensusHeader_fields (h : Header) :
    fieldAt (encodeCensusHeader h) 0 1 = BitVec.ofBool h.veto
    ∧ fieldAt (encodeCensusHeader h) 1 4 = h.cue.reverse := by
  refine ⟨?_, ?_⟩ <;>
    simp (disch := decide) only [encodeCensusHeader, fieldAt_append_left, fieldAt_append_right,
      Nat.reduceAdd, Nat.sub_self, fieldAt_whole]

/-- A census header is read back as its VETO and CUE (R10). -/
theorem parseCensusHeader_sent (h : Header) :
    parseCensusHeader (headerBits (sendOrder (encodeCensusHeader h)))
      = { Header.blank with veto := h.veto, cue := h.cue } := by
  obtain ⟨hveto, hcue⟩ := encodeCensusHeader_fields h
  rw [parseCensusHeader,
    bitAt_of_field (by decide) ((fieldAt_headerBits _ (by decide) (by decide)).trans hveto),
    flagsAt_of_field ((fieldAt_headerBits _ (by decide) (by decide)).trans hcue)]

/-- A header is damaged when a bit of it is corrupt or did not come (R9, R11). -/
theorem receiveHeader_damaged (census : Bool) (halves : List Halves) :
    (∃ i, i < headerLength census ∧ (halves[i]?.all (·.2)) = true)
      ↔ ∃ arb, receiveHeader census halves = .damaged arb := by
  have hcorrupt : (∃ i, i < headerLength census ∧ (halves[i]?.all (·.2)) = true)
      ↔ halves.length < headerLength census
        ∨ (halves.take (headerLength census)).mapM bitOfHalves = none := by
    rw [mapM_bitOfHalves_eq_none]
    constructor
    · rintro ⟨i, hi, hall⟩
      rcases Nat.lt_or_ge i halves.length with h | h
      · rw [List.getElem?_eq_getElem h] at hall
        exact .inr ⟨halves[i], List.mem_take_iff_getElem.2 ⟨i, by omega, rfl⟩, by simpa using hall⟩
      · exact .inl (by omega)
    · rintro (h | ⟨x, hx, hcor⟩)
      · exact ⟨halves.length, h, by simp⟩
      · obtain ⟨i, hi, rfl⟩ := List.mem_take_iff_getElem.1 hx
        exact ⟨i, by omega, by rw [List.getElem?_eq_getElem (by omega)]; simpa using hcor⟩
  rw [hcorrupt]
  unfold receiveHeader
  split
  · rename_i bits hbits
    rw [hbits]
    split
    · rename_i hle
      exact iff_of_false (by simpa using hle) (by simp)
    · rename_i hlt
      exact iff_of_true (.inl (by omega)) ⟨_, rfl⟩
  · rename_i hnone
    exact iff_of_true (.inr hnone) ⟨_, rfl⟩

/-! ### The bits of a bid -/

/-- The winner of a header drives the whole BID field (R12). -/
theorem bidBitsDriven_of_won {read : List (Option Bool)} {b : Bid} (h : droveThrough read b = true) :
    bidBitsDriven read b = sendOrder (encodeBid (some b)) := by
  rw [bidBitsDriven, if_pos h, arbitrationPart, contentPart, encodeBid]
  simp only [sendOrder_append, List.append_assoc]

/-- A bidder that does not win has driven its arbitration part up to the bit it read back otherwise
(R12). -/
theorem bidBitsDriven_of_lost {read : List (Option Bool)} {b : Bid} (h : droveThrough read b = false)
    (hl : read.length ≤ 8) : ∃ k, k < 8 ∧ bidBitsDriven read b = (arbitrationPart b).take (k + 1)
      ∧ read.take k = ((arbitrationPart b).take k).map some
      ∧ read[k]? ≠ ((arbitrationPart b)[k]?).map some := by
  have hlen : (arbitrationPart b).length = 8 := by simp [arbitrationPart]
  obtain ⟨k, hk, hdriven, hread, hstop⟩ := driveUntilStopped_eq (arbitrationPart b) read
    (by rw [← List.length_pos_iff, hlen]; decide)
  rw [hlen] at hk hstop
  refine ⟨k, hk, by rw [bidBitsDriven, h]; exact hdriven, hread, fun hsame => ?_⟩
  rw [List.getElem?_eq_getElem (l := arbitrationPart b) (by omega), Option.map_some] at hsame
  by_cases hlast : k + 1 < 8
  · rw [List.getElem?_eq_getElem (l := arbitrationPart b) (by omega)] at hstop
    exact hstop hlast hsame
  · have hk7 : k = 7 := by omega
    subst hk7
    have hall : read = (arbitrationPart b).map some := by
      refine List.ext_getElem? fun i => ?_
      rcases Nat.lt_trichotomy i 7 with hi | rfl | hi
      · have := congrArg (·[i]?) hread
        simpa [List.getElem?_take, hi] using this
      · rw [hsame, List.getElem?_map, List.getElem?_eq_getElem (by omega)]
        rfl
      · rw [List.getElem?_eq_none (by omega), List.getElem?_eq_none (by simp [hlen]; omega)]
    rw [droveThrough, hall, beq_self_eq_true] at h
    cases h

/-! ### Cells -/

/-- The fields of a cell as it is sent (R195). -/
theorem encodeCell_fields (c : Cell) :
    fieldAt (encodeCell c) 0 5 = c.owner ∧ fieldAt (encodeCell c) 5 2 = c.priority
    ∧ fieldAt (encodeCell c) 7 12 = c.label ∧ fieldAt (encodeCell c) 19 4 = c.sequence
    ∧ fieldAt (encodeCell c) 23 1 = BitVec.ofBool c.mark ∧ fieldAt (encodeCell c) 24 32 = c.word
    ∧ fieldAt (encodeCell c) 0 56 = cellPayload c
    ∧ fieldAt (encodeCell c) 56 8 = cellCheck (cellPayload c) := by
  have payload : ∀ first len, first + len ≤ 56 →
      fieldAt (encodeCell c) first len = fieldAt (cellPayload c) first len :=
    fun first len h => fieldAt_append_left _ _ _ _ h
  have check : fieldAt (encodeCell c) 56 8 = fieldAt (cellCheck (cellPayload c)) 0 8 :=
    fieldAt_append_right _ _ _ _ (by decide) (by decide)
  refine ⟨(payload 0 5 (by decide)).trans ?_, (payload 5 2 (by decide)).trans ?_,
    (payload 7 12 (by decide)).trans ?_, (payload 19 4 (by decide)).trans ?_,
    (payload 23 1 (by decide)).trans ?_, (payload 24 32 (by decide)).trans ?_,
    (payload 0 56 (by decide)).trans (fieldAt_whole _), check.trans (fieldAt_whole _)⟩ <;>
    simp (disch := decide) only [cellPayload, fieldAt_append_left, fieldAt_append_right,
      Nat.reduceAdd, Nat.sub_self, fieldAt_whole]

/-- A cell is read back from the bits it is sent as, and its check passes (R14, R15). -/
theorem cell_roundTrip (c : Cell) : parseCell (encodeCell c) = c ∧ cellPasses (encodeCell c) = true
    ∧ classifyCell (some true) (encodeCell c) = .intact c := by
  obtain ⟨howner, hpriority, hlabel, hsequence, hmark, hword, hpayload, hcheck⟩ := encodeCell_fields c
  have hparse : parseCell (encodeCell c) = c := by
    rw [parseCell, howner, hpriority, hlabel, hsequence, bitAt_of_field (by decide) hmark, hword]
  have hpass : cellPasses (encodeCell c) = true := by rw [cellPasses, hcheck, hpayload, beq_self_eq_true]
  exact ⟨hparse, hpass, by rw [classifyCell, if_pos hpass, hparse]⟩

/-! ### Census cells -/

/-- The fields of a declaration as it is sent (R195). -/
theorem encodeDeclaration_fields (d : Declaration) :
    fieldAt (encodeDeclaration d) 0 5 = d.slot ∧ fieldAt (encodeDeclaration d) 5 12 = d.label
    ∧ fieldAt (encodeDeclaration d) 17 2 = d.priority := by
  refine ⟨?_, ?_, ?_⟩ <;>
    simp (disch := decide) only [encodeDeclaration, fieldAt_append_left, fieldAt_append_right,
      Nat.reduceAdd, Nat.sub_self, fieldAt_whole]

/-- The fields of a census cell before its declarations (R195). -/
theorem censusPayload_fields (c : CensusCell) :
    fieldAt (censusPayload c) 0 5 = c.echo ∧ fieldAt (censusPayload c) 5 16 = c.cycle
    ∧ fieldAt (censusPayload c) 21 1 = BitVec.ofBool c.present ∧ fieldAt (censusPayload c) 22 32 = c.word
    ∧ fieldAt (censusPayload c) 54 4 = c.heldCount := by
  refine ⟨?_, ?_, ?_, ?_, ?_⟩ <;>
    simp (disch := decide) only [censusPayload, fieldAt_append_left, fieldAt_append_right,
      Nat.reduceAdd, Nat.sub_self, fieldAt_whole]

/-- The eight declarations of a census cell stand one behind the other (R195). -/
theorem censusPayload_declaration (c : CensusCell) (i : Fin 8) :
    fieldAt (censusPayload c) (58 + 19 * i.val) 19 = encodeDeclaration c.declarations[i] := by
  fin_cases i <;>
    simp (disch := decide) only [censusPayload, fieldAt_append_left, fieldAt_append_right,
      Nat.reduceAdd, Nat.reduceMul, Nat.sub_self, fieldAt_whole] <;> rfl

theorem encodeCensusCell_payload (c : CensusCell) {first len : Nat} (h : first + len ≤ 210) :
    fieldAt (encodeCensusCell c) first len = fieldAt (censusPayload c) first len :=
  fieldAt_append_left _ _ _ _ h

/-- A declaration is read back from the census cell it is sent in. -/
theorem parseDeclaration_encodeCensusCell (c : CensusCell) (i : Fin 8) :
    parseDeclaration (encodeCensusCell c) i.val = c.declarations[i] := by
  have hi := i.isLt
  have sub : ∀ first len, first + len ≤ 19 →
      fieldAt (encodeCensusCell c) (58 + 19 * i.val + first) len
        = fieldAt (encodeDeclaration c.declarations[i]) first len := fun first len h => by
    rw [← censusPayload_declaration, fieldAt_fieldAt _ _ _ _ _ (by omega) h,
      encodeCensusCell_payload c (by omega)]
  obtain ⟨hslot, hlabel, hpriority⟩ := encodeDeclaration_fields c.declarations[i]
  have slot := (sub 0 5 (by decide)).trans hslot
  have label := (sub 5 12 (by decide)).trans hlabel
  have priority := (sub 17 2 (by decide)).trans hpriority
  rw [show 58 + 19 * i.val + 5 = 63 + 19 * i.val by omega] at label
  rw [show 58 + 19 * i.val + 17 = 75 + 19 * i.val by omega] at priority
  rw [parseDeclaration, show fieldAt (encodeCensusCell c) (58 + 19 * i.val) 5 = _ from slot, label,
    priority]

/-- A census cell is read back from the bits it is sent as (R17). -/
theorem parseCensusCell_encodeCensusCell (c : CensusCell) :
    parseCensusCell (encodeCensusCell c) = c := by
  obtain ⟨hecho, hcycle, hpresent, hword, hheld⟩ := censusPayload_fields c
  have hdeclarations : (Vector.ofFn fun i : Fin 8 => parseDeclaration (encodeCensusCell c) i.val)
      = c.declarations := by
    refine Vector.ext fun i hi => ?_
    rw [Vector.getElem_ofFn]
    exact parseDeclaration_encodeCensusCell c ⟨i, hi⟩
  rw [parseCensusCell, hdeclarations, (encodeCensusCell_payload c (by decide)).trans hecho,
    (encodeCensusCell_payload c (by decide)).trans hcycle,
    bitAt_of_field (by decide) ((encodeCensusCell_payload c (by decide)).trans hpresent),
    (encodeCensusCell_payload c (by decide)).trans hword,
    (encodeCensusCell_payload c (by decide)).trans hheld]

/-- The check of a census cell passes as it is sent (R17). -/
theorem censusPasses_encodeCensusCell (c : CensusCell) : censusPasses (encodeCensusCell c) = true := by
  have hcheck : fieldAt (encodeCensusCell c) 210 16 = fieldAt (censusCheck (censusPayload c)) 0 16 :=
    fieldAt_append_right _ _ _ _ (by decide) (by decide)
  rw [censusPasses, hcheck, encodeCensusCell_payload c (by decide), fieldAt_whole, fieldAt_whole,
    beq_self_eq_true]

/-- A census cell in order arrives intact (R18). -/
theorem classifyCensus_encodeCensusCell {c : CensusCell} (hheld : c.heldCount.toNat ≤ 8)
    (hok : ∀ d ∈ c.meaningful, d.slot.toNat < 24 ∧ d.label ≠ 0) (hne : encodeCensusCell c ≠ 0) :
    classifyCensus c.echo.toNat (encodeCensusCell c) = .intact c :=
  (classifyCensus_intact _ _ _).2 ⟨hne, (parseCensusCell_encodeCensusCell c).symm,
    censusPasses_encodeCensusCell c, rfl, hheld, (CensusCell.all_meaningful c hheld _).1 hok⟩

/-- Settles O56, format by format: each field of a format as it is sent is read back from its place, and
a check passes because it was made from the same payload. -/
theorem trunkFormatsRoundTrip : Obligations.TrunkFormatsRoundTrip := by
  refine ⟨parseHeader_encodeHeader, cell_roundTrip, by decide +kernel, fun h => ⟨?_, ?_⟩,
    receiveHeader_damaged, bitOfHalves_wiredOr,
    fun read b => ⟨bidBitsDriven_of_won, bidBitsDriven_of_lost⟩,
    fun c => ⟨parseCensusCell_encodeCensusCell c, censusPasses_encodeCensusCell c,
      classifyCensus_encodeCensusCell⟩, by decide +kernel, fun k => (classifyCensus_silent k 0).2 rfl⟩
  · have hbits : headerBits (sendOrder (encodeHeader h)) = encodeHeader h := by
      rw [← fieldAt_whole (headerBits _), fieldAt_headerBits _ (by decide) (by decide), fieldAt_whole]
    exact (receiveHeader_sendHeader false (encodeHeader h)).trans (congrArg HeaderRx.intact hbits)
  · exact ⟨_, receiveHeader_sendHeader true (encodeCensusHeader h), parseCensusHeader_sent h⟩

end Sys2Proof.Machine
end

section
/-! PROOFS. How the map moves: every command changes it by a sequence of moves, each one rule of the spec
(R27 to R45, R63, R82 to R89, R35), and an intact header moves it first by R37. -/

namespace Sys2Proof.Machine

open Sys2Proof

/-! ### The moves -/

/-- The state is one in which no entry may be pending: headers are not judged there, or the header of a
census frame has come (R10, R37, R63). -/
def State.Settled (s : State) : Prop :=
  s.membership.judges = false ∨ ∃ f, s.frame = some f ∧ f.census = true ∧ f.header ≠ .due

/-- A settled state is one whose pending entries are out of order. -/
theorem pendingInOrder_iff (s : State) : PendingInOrder s
    ↔ (s.Settled → ∀ i : Fin 24, Sys2Proof.Entry.isPending s.slots[i].entry = false) := by
  constructor
  · intro h hs i
    rw [← Bool.not_eq_true]
    intro hp
    obtain ⟨hjudges, hdue⟩ := h i hp
    rcases hs with hj | ⟨f, hf, hc, hh⟩
    · rw [hj] at hjudges
      cases hjudges
    · exact hh (hdue f hf hc)
  · intro h i hp
    refine ⟨?_, fun f hf hc => ?_⟩
    · rw [← Bool.not_eq_false]
      intro hj
      rw [h (.inl hj) i] at hp
      cases hp
    · by_contra hh
      rw [h (.inr ⟨f, hf, hc, hh⟩) i] at hp
      cases hp

/-- One move of the map, other than by an intact header: it stays, and the state is settled only where it
was; it is cleared (R35); every pending entry turns UNSURE (R63); a cell resolves an entry (R27); a readback
counts in one (R31); or a census completion, before which no entry may be pending, takes the third step of
reconciliation (R86 to R89). -/
inductive MapMove (s t : State) : Prop
  | beside (entries : ∀ i : Fin 24, t.slots[i].entry = s.slots[i].entry)
      (settled : t.Settled → s.Settled)
  | cleared (entries : ∀ i : Fin 24, t.slots[i].entry = .unknown)
  | unsettled (entries : ∀ i : Fin 24, t.slots[i].entry = s.slots[i].entry.unsettle)
  | resolved (i : Nat) (c : Cell) (same : t = s.resolveCell i (.intact c))
  | readBack (i : Nat) (ok : Bool) (same : t = s.applyReadback i (some ok))
  | reconciled (c : Census) (before : s.Settled)
      (entries : ∀ i : Fin 24, t.slots[i].entry = (s.reconcileWith c).slot i s.slots[i].entry)

/-- The move of an intact header: the map settles, judges and releases (R37), in a state that shares it. One
that leaves a settled state, as that of a census frame does, brought neither a bid nor a release (R10). -/
def HeaderMove (s t : State) : Prop :=
  ∃ (u : State) (h : Header), u.slots = s.slots
    ∧ (∀ i : Fin 24, t.slots[i].entry = (u.handleHeader h).slots[i].entry)
    ∧ (t.Settled → h.bid = none ∧ h.release = 0)

/-- Any number of moves other than by an intact header. -/
def MapRun : State → State → Prop := Relation.ReflTransGen MapMove

/-- What a command does to the map: moves, before which an intact header may have moved it. -/
def MapStep (s t : State) : Prop := MapRun s t ∨ ∃ u, HeaderMove s u ∧ MapRun u t

theorem MapMove.run {s t : State} (h : MapMove s t) : MapRun s t := Relation.ReflTransGen.single h

theorem MapRun.refl {s : State} : MapRun s s := Relation.ReflTransGen.refl

theorem MapRun.trans {s t u : State} (a : MapRun s t) (b : MapRun t u) : MapRun s u :=
  Relation.ReflTransGen.trans a b

/-- A predicate that every move keeps, a run of moves keeps. -/
theorem MapRun.keeps {inv : State → Prop} (move : ∀ s t, MapMove s t → inv s → inv t) {s t : State}
    (h : MapRun s t) (hs : inv s) : inv t := by
  induction h with
  | refl => exact hs
  | tail _ hm ih => exact move _ _ hm ih

/-! ### Operations beside the map -/

theorem State.Settled.of_same {s t : State} (membership : t.membership = s.membership)
    (frame : t.frame = s.frame) (h : t.Settled) : s.Settled := by
  rwa [State.Settled, membership, frame] at h

/-- The entries, the membership state and the frame in progress are all that the moves read. -/
theorem MapRun.of_same {s t : State} (entries : ∀ i : Fin 24, t.slots[i].entry = s.slots[i].entry)
    (membership : t.membership = s.membership) (frame : t.frame = s.frame) : MapRun s t :=
  MapMove.run (.beside entries (State.Settled.of_same membership frame))

theorem MapRun.of_trunk {s t : State} (h : SameTrunk s t) : MapRun s t :=
  .of_same h.entries h.membership h.frame

/-- An operation that leaves the map, the membership state and the frame in progress. -/
theorem MapRun.beside {s t : State}
    (same : (t.slots, t.membership, t.frame) = (s.slots, s.membership, s.frame) := by simp) :
    MapRun s t := by
  simp only [Prod.mk.injEq] at same
  obtain ⟨hslots, hmembership, hframe⟩ := same
  exact .of_same (fun i => by rw [hslots]) hmembership hframe

/-- Where headers are not judged, the station may go to any state with its map as it is. -/
theorem MapRun.of_unjudged {s t : State} (hj : s.membership.judges = false)
    (entries : ∀ i : Fin 24, t.slots[i].entry = s.slots[i].entry) : MapRun s t :=
  MapMove.run (.beside entries fun _ => .inl hj)

/-- A station that judges headers may go to another state in which it does. -/
theorem MapRun.of_judging {s t : State} (hj : t.membership.judges = true)
    (entries : ∀ i : Fin 24, t.slots[i].entry = s.slots[i].entry) (frame : t.frame = s.frame) :
    MapRun s t := by
  refine MapMove.run (.beside entries fun h => .inr ?_)
  rcases h with h | h
  · rw [hj] at h
    cases h
  · rwa [frame] at h

/-- The map is all UNKNOWN (R35). -/
theorem MapRun.of_cleared (s : State) {t : State} (h : t.slots = Vector.replicate 24 Slot.reset) :
    MapRun s t := MapMove.run (.cleared fun i => by simp [h, Slot.reset])

theorem MapRun.takeCommand (s : State) : MapRun s s.takeCommand := .of_trunk (.takeCommand s)

/-! ### The entries of the membership states -/

theorem MapRun.enterOffline (s : State) : MapRun s s.enterOffline := .of_cleared s rfl

theorem MapRun.enterRefused (s : State) (reason : RefusalReason) : MapRun s (s.enterRefused reason) :=
  MapRun.trans (.of_cleared s rfl) (MapRun.takeCommand _)

theorem MapRun.refuseProfile (s : State) (f : ProfileFault) (n : Nat) : MapRun s (s.refuseProfile f n) :=
  MapRun.trans (t := { s with profileFault := f, faultStream := BitVec.ofNat 4 n }) .beside
    (MapRun.enterRefused _ _)

theorem MapRun.checkLeft (s : State) : MapRun s s.checkLeft := by
  unfold State.checkLeft
  split
  · exact .of_cleared s rfl
  · exact .refl

/-- A loss condition leaves no map, whatever else has changed before it (R35, R71, R72). -/
theorem MapRun.lose (s u : State) : MapRun s u.lose := by
  unfold State.lose
  split
  · exact .of_cleared s rfl
  · exact .of_cleared s (State.closeEvery_unknown (s := u.dropClaims.clearMap) .lost rfl)

theorem MapRun.leaveMember (s : State) : MapRun s s.leaveMember := by
  have hleaving : MapRun s { s with membership := .leaving, chosenBid := none } :=
    .of_judging rfl (fun _ => rfl) rfl
  exact (hleaving.trans (.of_trunk (.closeEvery _ _))).trans (MapRun.checkLeft _)

theorem MapRun.writeControl (s : State) (startBit leaveBit resetBit : Bool) :
    MapRun s (s.writeControl startBit leaveBit resetBit) := by
  unfold State.writeControl State.requestStart State.requestLeave
  split
  · exact .of_cleared s rfl
  · split
    · split
      · exact .of_cleared s rfl
      · exact .of_cleared s rfl
      · exact .refl
    · split
      · split
        · exact MapRun.enterOffline s
        · exact MapRun.enterOffline s
        · exact MapRun.enterOffline s
        · exact MapRun.leaveMember s
        · exact .refl
      · exact .refl

/-- The profile fetch is not a state in which headers are judged (R21). -/
theorem MapRun.profileRead (s : State) (words : List Word) : MapRun s (s.profileRead words) := by
  have hfetch : ∀ u : State, u.membership = .loading → MapRun u u.checkFetch := fun u hu => by
    unfold State.checkFetch
    dsimp only
    split
    · exact .refl
    · split
      · exact MapRun.refuseProfile u _ _
      · split
        · exact .refl
        · split
          · exact .of_unjudged (by rw [hu]; rfl) fun _ => rfl
          · exact MapRun.refuseProfile u _ _
  unfold State.profileRead
  split
  · rename_i hs
    exact MapRun.trans .beside (hfetch { s with fetched := s.fetched ++ words } hs)
  · exact .refl

theorem MapRun.profileBusError (s : State) : MapRun s s.profileBusError := by
  unfold State.profileBusError
  split
  · exact MapRun.enterRefused _ _
  · exact .refl

/-! ### Headers -/

theorem MapRun.finishHeader (s : State) (f : Frame) : MapRun s (s.finishHeader f) := by
  refine MapRun.trans ?_ (MapRun.checkLeft _)
  split <;> exact .beside

@[simp] theorem State.oweVeto_slots (s : State) : s.oweVeto.slots = s.slots := by
  unfold State.oweVeto
  split <;> simp

/-- A damaged header turns the pending entries UNSURE, whatever else of the station has changed (R63). -/
theorem MapRun.missHeader (s u : State) (h : u.slots = s.slots) (arb : List Halves) (f : Frame) :
    MapRun s (u.missHeader arb f) := by
  refine MapRun.trans (MapMove.run (.unsettled fun i => ?_)) (MapRun.finishHeader _ f)
  rw [State.chooseUnheard, State.mapStreams_slots, (SameTrunk.commandAndCell _ f).entries i,
    State.oweVeto_slots, State.refreshIntent_entry, State.mapReport_slots, State.unsettleAll_entry]
  exact congrArg (fun v : Vector Slot 24 => v[i].entry.unsettle) h

theorem MapRun.damagedHeader (s : State) (arb : List Halves) (f : Frame) :
    MapRun s (s.damagedHeader arb f) := by
  unfold State.damagedHeader
  dsimp only
  split
  · split
    · exact (MapRun.lose s _).trans (MapRun.takeCommand _)
    · exact MapRun.missHeader s _ (by rfl) arb f
  · split
    · exact MapRun.missHeader s _ (by rfl) arb f
    · rename_i hj
      exact .of_unjudged (by simpa [State.setHeader] using hj)
        (SameTrunk.takeCommand (s.setHeader .damaged)).entries

/-- The header of a census frame carries no bid and no release (R10). -/
theorem headerFields_census {f : Frame} (hf : f.census = true) (bits : HeaderBits) :
    (headerFields f bits).bid = none ∧ (headerFields f bits).release = 0 := by
  rw [headerFields, if_pos hf]
  exact ⟨rfl, rfl⟩

theorem HeaderMove.judgeHeader {s : State} {f : Frame} (hf : s.frame = some f) (x : HeaderStatus)
    (bits : HeaderBits) (hj : s.membership.judges = true) :
    ∃ u, HeaderMove s u ∧ MapRun u ((s.setHeader x).judgeHeader bits f) := by
  refine ⟨((s.setHeader x).countWin (arbitrationRead bits)).mapHeader (headerFields f bits),
    ⟨(s.setHeader x).countWin (arbitrationRead bits), headerFields f bits, rfl, fun i => ?_, fun h => ?_⟩,
    ?_⟩
  · rw [State.mapHeader, State.refreshIntent_entry, State.mapReport_slots]
  · rcases h with h | ⟨g, hg, hc, -⟩
    · rw [State.mapHeader_membership] at h
      exact absurd (hj.symm.trans h) (by simp)
    · refine headerFields_census ?_ bits
      have hg' : some { f with header := x } = some g := by
        rw [← hg, State.mapHeader, State.refreshIntent_frame, State.mapReport_frame]
        simp [State.handleHeader, State.countWin, State.setHeader, hf]
      cases hg'
      exact hc
  · refine MapRun.trans (.of_trunk ?_) (MapRun.finishHeader _ f)
    exact ((SameTrunk.commandAndCell _ f).trans (.heedCues _ _ _)).trans (.chooseAll _ _ _ f) |>.trans
      (.chooseAtHeader _ f)

theorem MapRun.damagedArrival (s : State) (arb : List Halves) : MapRun s (s.takeHeader (.damaged arb)) := by
  unfold State.takeHeader
  split
  · exact .refl
  · exact MapRun.damagedHeader s arb _

/-- What a header does to the map (R37, R62). -/
theorem MapStep.takeHeader (s : State) (rx : HeaderRx) : MapStep s (s.takeHeader rx) := by
  cases rx with
  | damaged arb => exact .inl (MapRun.damagedArrival s arb)
  | intact bits =>
    unfold State.takeHeader
    split
    · exact .inl .refl
    · rename_i f hdue
      have hf : s.frame = some f := (Option.filter_eq_some_iff.1 hdue).1
      dsimp only
      split
      · exact .inl (MapRun.damagedHeader s [] f)
      · unfold State.intactHeader
        dsimp only
        split
        · rename_i hj
          exact .inr (HeaderMove.judgeHeader hf _ bits hj)
        · rename_i hj
          exact .inl (.of_unjudged (by simpa [State.setHeader] using hj)
            (SameTrunk.takeCommand (s.setHeader _)).entries)

/-! ### Cells -/

theorem MapRun.resolveCell (s : State) (i : Nat) (rx : CellRx) : MapRun s (s.resolveCell i rx) := by
  cases rx with
  | intact c => exact MapMove.run (.resolved i c rfl)
  | _ => exact .refl

theorem MapRun.applyReadback (s : State) (i : Nat) (ok : Option Bool) :
    MapRun s (s.applyReadback i ok) := by
  cases ok with
  | some ok => exact MapMove.run (.readBack i ok rfl)
  | none => exact .refl

theorem MapRun.cellActs (s : State) (i : Nat) (rx : CellRx) : MapRun s (s.cellActs i rx) := by
  have hcell : MapRun s (((s.mapStreams fun _ st => st.hearCell i rx s.slots s.stamp).resolveCell i rx
      ).applyReadback i (if s.membership.drives then s.readbackOf i rx else none)) :=
    ((MapRun.of_trunk (.mapStreams s _)).trans (MapRun.resolveCell _ i rx)).trans
      (MapRun.applyReadback _ i _)
  exact (hcell.trans (.of_trunk (((SameTrunk.mapReport _ _ _).trans (.refreshIntent _)).trans
    (.finishClosing _)))).trans (MapRun.checkLeft _)

/-- Arrivals count on in a frame that is a census frame, or has brought its header, as before. -/
theorem MapRun.countCell (s : State) : MapRun s s.countCell := by
  refine MapMove.run (.beside (fun _ => rfl) fun h => h.imp id ?_)
  rintro ⟨g, hg, hc, hh⟩
  obtain ⟨f, hf, rfl⟩ := Option.map_eq_some_iff.1 hg
  exact ⟨f, hf, hc, hh⟩

theorem MapRun.takeCell (s : State) (i : Nat) (rx : CellRx) : MapRun s (s.takeCell i rx) := by
  unfold State.takeCell
  split
  · exact (MapRun.countCell s).trans (MapRun.cellActs _ i rx)
  · exact MapRun.countCell s

theorem MapRun.cellArrives (s : State) (bits : CellBits) : MapRun s (s.cellArrives bits) := by
  unfold State.cellArrives
  split
  · exact .refl
  · exact MapRun.takeCell s _ _

/-! ### Census cells -/

theorem MapRun.endMember (s : State) (own : Option Bool) : MapRun s (s.endMember own) := by
  unfold State.endMember
  split
  · exact .beside
  · dsimp only
    split
    · exact MapRun.lose s _
    · exact .beside
  · exact .refl

theorem MapRun.censusTransition (s : State) (c : Census) : MapRun s (s.censusTransition c) := by
  unfold State.censusTransition State.endListening State.endAnnouncing
  split
  · rename_i hm
    split
    · exact MapRun.enterRefused s _
    · exact .of_unjudged (by rw [hm]; rfl) fun _ => rfl
  · split
    · split
      · exact .refl
      · exact .of_judging rfl (fun _ => rfl) rfl
    · dsimp only
      split
      · exact MapRun.trans .beside (MapRun.enterRefused _ _)
      · exact .beside
    · exact .refl
  · exact MapRun.endMember s c.own
  · exact MapRun.endMember s c.own
  · exact .refl

/-- A census completion in a state in which no entry may be pending reconciles the map (R82). -/
theorem MapRun.completeCensus {s : State} (hs : s.Settled) (c : Census) :
    MapRun s (s.completeCensus c) := by
  unfold State.completeCensus
  split
  · have hreconcile : MapRun s (s.reconcile c) := MapMove.run (.reconciled c hs (s.reconcile_entry c))
    exact ((hreconcile.trans (MapRun.censusTransition _ c)).trans
      (.of_trunk ((SameTrunk.chooseBid _).trans (.finishClosing _)))).trans (MapRun.checkLeft _)
  · exact .refl

/-- A census cell that comes after the header of its frame (R18). -/
theorem MapRun.takeCensus {s : State} {f : Frame} (hf : s.frame = some f) (hc : f.census = true)
    (hh : f.header ≠ .due) (rx : CensusRx) : MapRun s (s.takeCensus f rx) := by
  have hrecord : MapRun s { s with frame := some (f.addCensus rx (s.censusReadback f.arrived rx)) } :=
    MapMove.run (.beside (fun _ => rfl) fun _ => .inr ⟨f, hf, hc, hh⟩)
  have hsettled : State.Settled { s with
      frame := some (f.addCensus rx (s.censusReadback f.arrived rx)) } := .inr ⟨_, rfl, hc, hh⟩
  unfold State.takeCensus
  dsimp only
  split
  · exact hrecord.trans (MapRun.completeCensus hsettled _)
  · exact hrecord

theorem MapRun.censusArrives (s : State) (bits : CensusBits) : MapRun s (s.censusArrives bits) := by
  unfold State.censusArrives
  split
  · exact .refl
  · rename_i f hdue
    obtain ⟨hf, hcond⟩ := Option.filter_eq_some_iff.1 hdue
    simp only [Bool.and_eq_true, bne_iff_ne] at hcond
    obtain ⟨⟨⟨-, hc⟩, hh⟩, -⟩ := hcond
    exact MapRun.takeCensus hf hc hh _

/-! ### Frame starts -/

/-- The header of the frame in progress, if there is a frame, has come. -/
def HeaderCame (s : State) : Prop := ∀ f, s.frame = some f → f.header ≠ .due

theorem HeaderCame.of_kept {s t : State} (hk : FrameKept s t) (h : HeaderCame s) : HeaderCame t := by
  rcases hk with hk | hk
  · rwa [HeaderCame, hk]
  · intro f hf
    rw [hk] at hf
    cases hf

/-- What a frame start cuts off comes after the header. -/
theorem HeaderCame.cutOne {s : State} (h : HeaderCame s) : HeaderCame s.cutOne := by
  unfold State.cutOne
  split
  · exact h
  · rename_i f hf
    split
    · refine .of_kept (State.takeCensus_frame s f _) fun g hg => ?_
      cases hg
      exact h f hf
    · refine .of_kept (State.takeCell_frame s _ _) fun g hg => ?_
      obtain ⟨f', hf', rfl⟩ := Option.map_eq_some_iff.1 hg
      exact h f' hf'

theorem MapRun.cutOne {s : State} (h : HeaderCame s) : MapRun s s.cutOne := by
  unfold State.cutOne
  split
  · exact .refl
  · rename_i f hf
    split
    · rename_i hc
      exact MapRun.takeCensus hf hc (h f hf) _
    · exact MapRun.takeCell s _ _

theorem MapRun.cutCells {s : State} (h : HeaderCame s) (n : Nat) : MapRun s (s.cutCells n) := by
  induction n generalizing s with
  | zero => exact .refl
  | succ n ih => exact (MapRun.cutOne h).trans (ih h.cutOne)

/-- After the header that a frame start cuts, the header has come (R9). -/
theorem HeaderCame.damagedArrival {s : State} (hr : s.membership.receives = true) (arb : List Halves) :
    HeaderCame (s.takeHeader (.damaged arb)) := by
  intro g hg
  unfold State.takeHeader at hg
  split at hg
  · rename_i hdue
    intro hh
    simp [State.headerDue, hg, hr, hh] at hdue
  · refine HeaderCame.of_kept (State.damagedHeader_frame s arb _) (fun f hf => ?_) g hg
    obtain ⟨f', -, rfl⟩ := Option.map_eq_some_iff.1 hf
    simp

theorem MapRun.cutShort {s : State} (hr : s.membership.receives = true) (arb : List Halves) :
    MapRun s (s.cutShort arb) := by
  unfold State.cutShort
  split
  · exact .refl
  · exact (MapRun.damagedArrival s arb).trans (MapRun.cutCells (HeaderCame.damagedArrival hr arb) _)

/-- The frame that opens has its header to come (R2 to R8). -/
theorem MapRun.startFrame (s : State) (mark : Bool) : MapRun s (s.startFrame mark) := by
  refine MapMove.run (.beside (fun _ => rfl) ?_)
  rintro (h | ⟨g, hg, -, hh⟩)
  · exact .inl h
  · cases hg
    exact absurd rfl hh

theorem MapRun.endLost (s : State) (mark : Bool) : MapRun s (s.endLost mark) := by
  unfold State.endLost
  split
  · rename_i hl
    simp only [Bool.and_eq_true, beq_iff_eq] at hl
    exact .of_unjudged (by rw [hl.2]; rfl) fun _ => rfl
  · exact .refl

theorem MapRun.openFrame (s : State) (mark : Bool) : MapRun s (s.openFrame mark) := by
  have hopen : MapRun s ((s.startFrame mark).endLost mark).applyCues :=
    ((MapRun.startFrame s mark).trans (MapRun.endLost _ mark)).trans (.of_trunk (.mapStreams _ _))
  unfold State.openFrame
  dsimp only
  split
  · refine (hopen.trans ?_).trans (MapRun.checkLeft _)
    split
    · exact .beside (by simp [State.driveFrame])
    · exact .beside rfl
  · exact hopen

theorem MapRun.frameStarts (s : State) (mark : Bool) (arb : List Halves) :
    MapRun s (s.frameStarts mark arb) := by
  unfold State.frameStarts
  split
  · rename_i hr
    dsimp only
    split
    · exact (MapRun.cutShort hr arb).trans (MapRun.openFrame _ _)
    · exact MapRun.cutShort hr arb
  · exact .refl

/-! ### Timers, pins, registers and the bus -/

theorem MapRun.quietWaitEnds (s : State) : MapRun s s.quietWaitEnds := by
  unfold State.quietWaitEnds
  split <;> exact .beside

theorem MapRun.frameTimerEnds (s : State) : MapRun s s.frameTimerEnds := by
  unfold State.frameTimerEnds
  split <;> exact .beside

theorem MapRun.cueEdge (s : State) (pin : BitVec 2) : MapRun s (s.cueEdge pin) := by
  unfold State.cueEdge
  split
  · split <;> exact .beside
  · exact .refl

theorem MapRun.writeCommand (s : State) (code stream : BitVec 4) :
    MapRun s (s.writeCommand code stream) := by
  unfold State.writeCommand
  split
  · dsimp only
    split
    · exact MapRun.trans .beside (MapRun.takeCommand _)
    · exact .beside
  · exact .beside

theorem MapRun.writeStationControl (s : State) (v : Word) : MapRun s (s.writeStationControl v) := by
  have hcontrol := MapRun.writeControl s (v.getLsbD 0) (v.getLsbD 1) (v.getLsbD 2)
  unfold State.writeStationControl
  dsimp only
  split
  · exact hcontrol.trans (.of_trunk (.pump _))
  · exact hcontrol

theorem MapRun.writeProfileAddress (s : State) (v : Word) : MapRun s (s.writeProfileAddress v) := by
  unfold State.writeProfileAddress
  split <;> exact .beside

theorem MapRun.hostWriteAt (s : State) (offset bytes : Nat) (v : Word) :
    MapRun s (s.hostWriteAt offset bytes v) := by
  unfold State.hostWriteAt State.writeRegister
  split
  · exact .refl
  · repeat' split
    · exact MapRun.writeStationControl s v
    · exact MapRun.writeProfileAddress s v
    · exact MapRun.writeCommand s _ _
    · exact .beside rfl
    · exact .beside rfl
    · exact .beside rfl
    · exact .of_trunk (.mapStreams s _)
    · exact .beside rfl
    · exact .refl

theorem MapRun.endRead (s : State) (send : Bool) (f : BusKind → Option (Stream → Stream)) :
    MapRun s (s.endRead send f) := by
  unfold State.endRead
  split
  · exact .refl
  · split
    · split
      · exact .refl
      · split <;> exact .beside
    · exact .refl

theorem MapRun.endWrite (s : State) (send : Bool)
    (f : BusKind → Option (Stream → Stream × List (Word × Word))) : MapRun s (s.endWrite send f) := by
  unfold State.endWrite
  split
  · exact .refl
  · split
    · split
      · exact .refl
      · exact .beside
    · exact .refl

theorem MapRun.busError (s : State) (send : Bool) : MapRun s (s.busError send) := by
  unfold State.busError
  split
  · exact .refl
  · split
    · dsimp only
      split
      · exact .beside
      · exact MapRun.trans .beside
          (.of_trunk ((SameTrunk.closeOne _ _ _).trans (.onStream _ _ _)))
    · exact .refl

/-! ### Every command -/

/-- What any command does to the map. -/
theorem MapStep.exec {s t : State} {c : Instr} (ht : exec c s = .next t) : MapStep s t := by
  have pumped : ∀ u : State, MapRun s u → MapRun s u.pump := fun u h => h.trans (.of_trunk (.pump u))
  have guarded : ∀ (p : Prop) [Decidable p] (u : State), MapRun s u →
      MapRun s (if p then u.pump else s) := fun p _ u h => by
    split
    · exact pumped u h
    · exact .refl
  have header : ∀ u : State, MapStep s u → MapStep s u.pump := fun u h =>
    h.imp (pumped u) fun ⟨v, hv, hu⟩ => ⟨v, hv, hu.trans (.of_trunk (.pump u))⟩
  cases c with
  | powerOn | rstn => cases ht; exact .inl (.of_cleared s rfl)
  | rstnRise =>
    cases ht
    split
    · exact .inl (.of_cleared s rfl)
    · exact .inl .refl
  | start | leave | reset | openCmd | closeCmd | standingCmd | profileAddressWrite | eventsWrite
  | streamEventsWrite | eventEnableWrite | streamEventEnableWrite | registerWrite
  | commandCodeUnknown => cases ht; exact .inl (MapRun.hostWriteAt s _ _ _)
  | entryCapture | cueoutPulseEnd => cases ht; exact .inl (.beside rfl)
  | cueEdge => cases ht; exact .inl (MapRun.cueEdge s _)
  | quietWaitExpiry => cases ht; exact .inl (MapRun.quietWaitEnds s)
  | frameTimerExpiry => cases ht; exact .inl (MapRun.frameTimerEnds s)
  | frameStart => cases ht; exact .inl (pumped _ (MapRun.frameStarts s _ _))
  | bootstrap => cases ht; exact .inl (guarded _ _ (MapRun.frameStarts s _ _))
  | headerArrival | damagedHeader => cases ht; exact header _ (MapStep.takeHeader s _)
  | winRecordExpiry =>
    cases ht
    split
    · exact header _ (MapStep.takeHeader s _)
    · exact .inl .refl
  | damageLimit => cases ht; exact .inl (guarded _ _ (MapRun.damagedArrival s _))
  | cellArrival => cases ht; exact .inl (pumped _ (MapRun.cellArrives s _))
  | readbackCollision => cases ht; exact .inl (guarded _ _ (MapRun.cellArrives s _))
  | censusCellArrival => cases ht; exact .inl (pumped _ (MapRun.censusArrives s _))
  | joinAttemptsLimit | censusReadbackLimit =>
    cases ht; exact .inl (guarded _ _ (MapRun.censusArrives s _))
  | profileReadDone => cases ht; exact .inl (MapRun.profileRead s _)
  | profileFault => cases ht; exact .inl (MapRun.profileBusError s)
  | sendDescriptorRead | sendBufferRead | listenDescriptorRead =>
    cases ht; exact .inl (pumped _ (MapRun.endRead s _ _))
  | sendStatusWrite | sendHandBack | listenWordWrite | listenStatusWrite | listenHandBack =>
    cases ht; exact .inl (pumped _ (MapRun.endWrite s _ _))
  | sendBusError | listenBusError => cases ht; exact .inl (pumped _ (MapRun.busError s _))

end Sys2Proof.Machine
end

section
/-! PROOFS. What each move of the map keeps: the order of its entries (R19, R20, R31, R41), where entries are
pending (R10, R37, R63), the labels (R25), and the holdings (R24). -/

namespace Sys2Proof.Machine

open Sys2Proof

/-! ### The third step of reconciliation, at one entry -/

/-- What the third step of reconciliation can do to an entry that is not pending: the best declarer takes the
slot (R86), or no declaration names it (R87 to R89). -/
theorem Reconcile.slot_cases (r : Reconcile) (i : Fin 24) (e : Entry) :
    (∃ d ∈ r.left, d.decl.slot.toNat = i.val ∧ r.slot i e = e.declare d) ∨ r.slot i e = r.undeclared e := by
  unfold Reconcile.slot
  split
  · rename_i d hd
    have hmem := bestBy_mem _ _ _ hd
    simp only [declaredFor, List.mem_filter, beq_iff_eq] at hmem
    exact .inl ⟨d, hmem.1, hmem.2, rfl⟩
  · exact .inr rfl

/-- A declared slot is HELD by its declarer under the label it declares (R86). -/
theorem Entry.declare_held (d : Declared) (e : Entry) :
    ∃ damage, e.declare d = .held ⟨d.station, d.decl.label, d.decl.priority⟩ damage := by
  cases e <;> exact ⟨_, rfl⟩

theorem Entry.declare_inOrder (d : Declared) (e : Entry) (h : Entry.InOrder e) :
    Entry.InOrder (e.declare d) := by
  cases e with
  | held old damage =>
    simp only [Entry.declare, Entry.InOrder] at *
    split <;> omega
  | _ => simp [Entry.declare, Entry.InOrder]

/-- The candidates that stay are at most three, no station twice, and one of them at least keeps the slot
UNSURE (R88). -/
theorem Reconcile.undeclared_inOrder (r : Reconcile) (e : Entry) (h : Entry.InOrder e) :
    Entry.InOrder (r.undeclared e) := by
  unfold Reconcile.undeclared
  split
  · split
    · trivial
    · exact h
  · rename_i cs
    obtain ⟨-, hthree, hnodup⟩ := h
    have hsub : (r.staying cs).Sublist cs := List.filter_sublist
    dsimp only
    split
    · trivial
    · rename_i hall
      refine ⟨List.length_pos_iff.2 fun hnil => ?_, hsub.length_le.trans hthree,
        hnodup.sublist (hsub.map _)⟩
      simp [hnil] at hall
  · split <;> trivial
  · exact h

theorem Reconcile.slot_inOrder (r : Reconcile) (i : Fin 24) (e : Entry) (h : Entry.InOrder e) :
    Entry.InOrder (r.slot i e) := by
  rcases r.slot_cases i e with ⟨d, -, -, hd⟩ | hu
  · rw [hd]
    exact Entry.declare_inOrder d e h
  · rw [hu]
    exact r.undeclared_inOrder e h

/-- Of a slot that no declaration names, only a HELD entry that its holder keeps carries a label (R87). -/
theorem Reconcile.undeclared_cases (r : Reconcile) (e : Entry) (hp : Sys2Proof.Entry.isPending e = false) :
    (∃ h damage, e = .held h damage ∧ r.loses h = false ∧ r.undeclared e = e)
      ∨ Sys2Proof.Entry.carried (r.undeclared e) = [] ∧ Sys2Proof.Entry.isPending (r.undeclared e) = false
        ∧ ∀ k, (r.undeclared e).countsFor k = false := by
  unfold Reconcile.undeclared
  split
  · rename_i h damage
    split
    · exact .inr ⟨rfl, rfl, fun _ => rfl⟩
    · rename_i hl
      exact .inl ⟨h, damage, rfl, by simpa using hl, rfl⟩
  · dsimp only
    split <;> exact .inr ⟨rfl, rfl, fun _ => rfl⟩
  · split <;> exact .inr ⟨rfl, rfl, fun _ => rfl⟩
  · rename_i hheld hunsure hunknown
    cases e with
    | held h damage => exact absurd rfl (hheld h damage)
    | unsure cs => exact absurd rfl (hunsure cs)
    | unknown => exact absurd rfl hunknown
    | free => exact .inr ⟨rfl, rfl, fun _ => rfl⟩
    | claimPending c prior => cases hp
    | releasePending h => cases hp

theorem Reconcile.slot_not_pending (r : Reconcile) (i : Fin 24) (e : Entry)
    (hp : Sys2Proof.Entry.isPending e = false) : Sys2Proof.Entry.isPending (r.slot i e) = false := by
  rcases r.slot_cases i e with ⟨d, -, -, hd⟩ | hu
  · obtain ⟨damage, hheld⟩ := e.declare_held d
    rw [hd, hheld]
    rfl
  · rw [hu]
    rcases r.undeclared_cases e hp with ⟨h, damage, rfl, -, hsame⟩ | ⟨-, hnot, -⟩
    · rw [hsame]
      rfl
    · exact hnot

/-! ### The order of the entries (R19, R20, R31, R41) -/

/-- Every entry of the map is in order; sealed, so that the entries of a changed map are not computed. -/
structure Ordered (s : State) : Prop where
  entries : MapInOrder s

theorem Ordered.congr {s t : State} (h : ∀ i : Fin 24, t.slots[i].entry = s.slots[i].entry)
    (hs : Ordered s) : Ordered t := ⟨fun i => by rw [h]; exact hs.entries i⟩

theorem State.handleHeader_entry_eq (s : State) (h : Header) (i : Fin 24) :
    (s.handleHeader h).slots[i].entry =
      let e := ((s.settleAll h.veto).judgeBid h.bid).slots[i].entry
      if h.release.getLsbD i.val then ((s.settleAll h.veto).judgeBid h.bid).release e else e :=
  State.applyReleases_entry _ _ i

theorem State.judgeBid_none (s : State) : s.judgeBid none = s := rfl

/-- A bid leaves an entry as it is, or is judged at it (R40). -/
theorem State.judgeBid_cases (s : State) (bid : Option Bid) (i : Fin 24) :
    (s.judgeBid bid).slots[i].entry = s.slots[i].entry
      ∨ ∃ b, bid = some b ∧ i.val = b.slot.toNat
        ∧ (s.judgeBid bid).slots[i].entry = s.judge b s.slots[i].entry := by
  cases bid with
  | none => exact .inl rfl
  | some b =>
    by_cases hl : b.label = 0
    · exact .inl (by rw [State.judgeBid, if_pos hl])
    · rw [State.judgeBid_entry b s i hl]
      split
      · rename_i hi
        exact .inr ⟨b, rfl, hi, rfl⟩
      · exact .inl rfl

theorem State.settleAll_ordered {s : State} (hs : Ordered s) (veto : Bool) :
    Ordered (s.settleAll veto) := by
  refine ⟨fun i => ?_⟩
  rw [State.settleAll_entry]
  exact Entry.settle_inOrder _ _ (hs.entries i)

theorem State.judgeBid_ordered {s : State} (hs : Ordered s) (bid : Option Bid) :
    Ordered (s.judgeBid bid) := by
  refine ⟨fun i => ?_⟩
  rcases State.judgeBid_cases s bid i with hsame | ⟨b, -, -, hb⟩
  · rw [hsame]
    exact hs.entries i
  · rw [hb]
    exact State.judge_inOrder _ b _ (hs.entries i)

theorem State.handleHeader_ordered {s : State} (hs : Ordered s) (h : Header) :
    Ordered (s.handleHeader h) := by
  have hjudge := State.judgeBid_ordered (State.settleAll_ordered hs h.veto) h.bid
  refine ⟨fun i => ?_⟩
  rw [State.handleHeader_entry_eq]
  dsimp only
  split
  · exact State.release_inOrder _ _ (hjudge.entries i)
  · exact hjudge.entries i

theorem MapMove.ordered (s t : State) (h : MapMove s t) (hs : Ordered s) : Ordered t := by
  refine ⟨fun i => ?_⟩
  cases h with
  | beside entries => rw [entries]; exact hs.entries i
  | cleared entries => rw [entries]; trivial
  | unsettled entries => rw [entries]; exact Entry.unsettle_inOrder _ (hs.entries i)
  | resolved k c same =>
    rw [same, State.resolveCell_entry]
    split
    · exact State.resolve_inOrder _ _ _ (hs.entries i)
    · exact hs.entries i
  | readBack k ok same =>
    rw [same, State.applyReadback_entry]
    split
    · exact Entry.readback_inOrder _ _ _ (hs.entries i)
    · exact hs.entries i
  | reconciled c before entries => rw [entries]; exact Reconcile.slot_inOrder _ _ _ (hs.entries i)

theorem HeaderMove.ordered {s t : State} (h : HeaderMove s t) (hs : Ordered s) : Ordered t := by
  obtain ⟨u, x, hu, ht, -⟩ := h
  have hus : Ordered u := hs.congr fun i => by rw [hu]
  exact (State.handleHeader_ordered hus x).congr ht

/-! ### Where entries are pending (R10, R37, R63) -/

theorem State.resolve_not_pending (s : State) (c : Cell) (e : Entry)
    (hp : Sys2Proof.Entry.isPending e = false) : Sys2Proof.Entry.isPending (s.resolve c e) = false := by
  unfold State.resolve
  split
  · split <;> rfl
  · split <;> rfl
  · exact hp

theorem Entry.readback_not_pending (k : Station) (ok : Bool) (e : Entry)
    (hp : Sys2Proof.Entry.isPending e = false) : Sys2Proof.Entry.isPending (e.readback k ok) = false := by
  unfold Entry.readback
  split
  · repeat' split
    all_goals rfl
  · exact hp

@[simp] theorem State.applyReadback_membership (s : State) (i : Nat) (ok : Option Bool) :
    (s.applyReadback i ok).membership = s.membership := by
  unfold State.applyReadback
  split <;> rfl

theorem MapMove.pendingInOrder (s t : State) (h : MapMove s t) (hs : PendingInOrder s) :
    PendingInOrder t := by
  rw [pendingInOrder_iff] at *
  intro ht i
  cases h with
  | beside entries settled => rw [entries]; exact hs (settled ht) i
  | cleared entries => rw [entries]; rfl
  | unsettled entries => rw [entries]; exact Entry.isPending_unsettle _
  | resolved k c same =>
    subst same
    have hi := hs (.of_same (State.resolveCell_membership s k _) (State.resolveCell_frame s k _) ht) i
    rw [State.resolveCell_entry]
    split
    · exact State.resolve_not_pending _ _ _ hi
    · exact hi
  | readBack k ok same =>
    subst same
    have hi := hs (.of_same (s := s) (t := s.applyReadback k (some ok)) (State.applyReadback_membership s k _)
      (State.applyReadback_frame s k _) ht) i
    rw [State.applyReadback_entry]
    split
    · exact Entry.readback_not_pending _ _ _ hi
    · exact hi
  | reconciled c before entries =>
    rw [entries]
    exact Reconcile.slot_not_pending _ _ _ (hs before i)

/-- A header without a bid and a release leaves no entry pending (R37). -/
theorem HeaderMove.pendingInOrder {s t : State} (h : HeaderMove s t) : PendingInOrder t := by
  obtain ⟨u, x, -, ht, hsettled⟩ := h
  rw [pendingInOrder_iff]
  intro hs i
  obtain ⟨hbid, hrelease⟩ := hsettled hs
  rw [ht, State.handleHeader_entry_eq, hbid, hrelease]
  simp only [BitVec.ofNat_eq_ofNat, BitVec.getLsbD_zero, Bool.false_eq_true, if_false]
  rw [State.judgeBid_none, State.settleAll_entry]
  exact Entry.isPending_settle _ _

/-! ### The labels (R25) -/

/-- The claimants after a change of the map are among those before it. -/
theorem labelsInOrder_of_subset {s t : State} (hs : LabelsInOrder s)
    (h : ∀ i : Fin 24, Sys2Proof.Entry.carried t.slots[i].entry ⊆ Sys2Proof.Entry.carried s.slots[i].entry) :
    LabelsInOrder t :=
  fun i j x hx y hy => hs i j x (h i hx) y (h j hy)

/-- A new claimant may come when all that carry its label are of its station (R25). -/
theorem labelsInOrder_of_new {s t : State} (hs : LabelsInOrder s) (x : Claimant)
    (h : ∀ i : Fin 24, ∀ y ∈ Sys2Proof.Entry.carried t.slots[i].entry,
      y = x ∨ y ∈ Sys2Proof.Entry.carried s.slots[i].entry)
    (hx : ∀ i : Fin 24, ∀ y ∈ Sys2Proof.Entry.carried s.slots[i].entry,
      y.label = x.label → y.station = x.station) :
    LabelsInOrder t := by
  intro i j a ha b hb hab
  rcases h i a ha with rfl | ha
  · rcases h j b hb with rfl | hb
    · rfl
    · exact (hx j b hb hab.symm).symm
  · rcases h j b hb with rfl | hb
    · exact hx i a ha hab
    · exact hs i j a ha b hb hab

/-- An entry at which a bid is judged takes its bidder alone, and only where no other station uses the
label (R41). -/
theorem State.carried_judge (s : State) (b : Bid) (e : Entry) :
    Sys2Proof.Entry.carried (s.judge b e) ⊆ Sys2Proof.Entry.carried e
      ∨ usedByOther s.slots b.label b.station = false
        ∧ Sys2Proof.Entry.carried (s.judge b e) ⊆ b.claimant :: Sys2Proof.Entry.carried e := by
  have valid : ∀ e, s.bidValid b e = true → usedByOther s.slots b.label b.station = false := fun e h => by
    simp only [State.bidValid, Bool.and_eq_true, Bool.not_eq_true'] at h
    exact h.1.2
  unfold State.judge
  split
  · exact .inl (List.nil_subset _)
  · split
    · rename_i hv
      exact .inr ⟨valid _ hv, by simp [Sys2Proof.Entry.carried]⟩
    · exact .inl (List.Subset.refl _)
  · split
    · rename_i hv
      exact .inr ⟨valid _ hv, by simp [Sys2Proof.Entry.carried]⟩
    · exact .inl (List.Subset.refl _)
  · exact .inl (List.Subset.refl _)

/-- Who carries a label in the map uses it there (R25). -/
theorem mem_labelUsers_of_carried {slots : Vector Slot 24} {i : Fin 24} {y : Claimant}
    (h : y ∈ Sys2Proof.Entry.carried slots[i].entry) : y.station ∈ labelUsers slots y.label := by
  have hu : ∀ cs, slots[i].entry ≠ .unsure cs := fun cs he => by
    rw [he] at h
    cases h
  rw [labelUsers, List.mem_flatMap]
  exact ⟨slots[i], by simp, (Entry.mem_users _ _ _ hu).2 ⟨y, h, rfl, rfl⟩⟩

theorem State.judgeBid_labels {s : State} (hs : LabelsInOrder s) (bid : Option Bid) :
    LabelsInOrder (s.judgeBid bid) := by
  cases bid with
  | none => exact hs
  | some b =>
    by_cases hused : usedByOther s.slots b.label b.station = false
    · refine labelsInOrder_of_new hs b.claimant (fun i y hy => ?_) (fun i y hy hl => ?_)
      · rcases State.judgeBid_cases s (some b) i with hsame | ⟨_, hb, -, hj⟩
        · exact .inr (hsame ▸ hy)
        · cases hb
          rw [hj] at hy
          rcases State.carried_judge s b s.slots[i].entry with hsub | ⟨-, hsub⟩
          · exact .inr (hsub hy)
          · exact List.mem_cons.1 (hsub hy)
      · rw [usedByOther, List.any_eq_false] at hused
        have := hused _ (hl ▸ mem_labelUsers_of_carried hy)
        simpa [Bid.claimant] using this
    · refine labelsInOrder_of_subset hs fun i => ?_
      rcases State.judgeBid_cases s (some b) i with hsame | ⟨_, hb, -, hj⟩
      · rw [hsame]
        exact List.Subset.refl _
      · cases hb
        rw [hj]
        rcases State.carried_judge s b s.slots[i].entry with hsub | ⟨hno, -⟩
        · exact hsub
        · exact absurd hno hused

theorem State.handleHeader_labels {s : State} (hs : LabelsInOrder s) (h : Header) :
    LabelsInOrder (s.handleHeader h) := by
  have hsettle : LabelsInOrder (s.settleAll h.veto) := labelsInOrder_of_subset hs fun i => by
    rw [State.settleAll_entry]
    exact Entry.carried_settle _ _
  refine labelsInOrder_of_subset (State.judgeBid_labels hsettle h.bid) fun i => ?_
  rw [State.handleHeader_entry_eq]
  dsimp only
  split
  · rw [State.carried_release]
    exact List.Subset.refl _
  · exact List.Subset.refl _

/-- A cell that is not withheld has a label that no entry carries under another holder (R30). -/
theorem State.carried_of_not_withheld {s : State} {c : Cell} (h : s.withholds c = false) (i : Fin 24)
    (y : Claimant) (hy : y ∈ Sys2Proof.Entry.carried s.slots[i].entry) (hl : y.label = c.label) :
    y.station = c.owner := by
  simp only [State.withholds, Bool.or_eq_false_iff, carriedByOther, List.any_eq_false] at h
  obtain ⟨⟨-, hcarried⟩, -⟩ := h
  have hu : ∀ cs, s.slots[i].entry ≠ .unsure cs := fun cs he => by
    rw [he] at hy
    cases hy
  have hi := hcarried s.slots[i] (by simp)
  split at hi
  · rename_i cs he
    exact absurd he (hu cs)
  · simp only [Bool.not_eq_true, List.any_eq_false] at hi
    have := hi y.station ((Entry.mem_users _ _ _ hu).2 ⟨y, hy, hl, rfl⟩)
    simpa using this

/-- A cell brings its owner alone, where it is not withheld (R27, R28, R30). -/
theorem State.resolve_cases (s : State) (c : Cell) (e : Entry) :
    s.resolve c e = e ∨ s.withholds c = false ∧ s.resolve c e = .held ⟨c.owner, c.label, c.priority⟩ 0 := by
  unfold State.resolve
  split
  · split
    · exact .inl rfl
    · rename_i hw
      exact .inr ⟨by simpa using hw, rfl⟩
  · split
    · rename_i hw
      simp only [Bool.and_eq_true, Bool.not_eq_true'] at hw
      exact .inr ⟨hw.2, rfl⟩
    · exact .inl rfl
  · exact .inl rfl

theorem State.resolveCell_labels {s : State} (hs : LabelsInOrder s) (k : Nat) (c : Cell) :
    LabelsInOrder (s.resolveCell k (.intact c)) := by
  by_cases hw : s.withholds c = false
  · refine labelsInOrder_of_new hs ⟨c.owner, c.label, c.priority⟩ (fun i y hy => ?_)
      fun i y hy hl => State.carried_of_not_withheld hw i y hy hl
    rw [State.resolveCell_entry] at hy
    split at hy
    · rcases State.resolve_cases s c s.slots[i].entry with hsame | ⟨-, hheld⟩
      · exact .inr (hsame ▸ hy)
      · rw [hheld] at hy
        exact .inl (List.mem_singleton.1 hy)
    · exact .inr hy
  · refine labelsInOrder_of_subset hs fun i => ?_
    rw [State.resolveCell_entry]
    split
    · rcases State.resolve_cases s c s.slots[i].entry with hsame | ⟨hno, -⟩
      · rw [hsame]
        exact List.Subset.refl _
      · exact absurd hno hw
    · exact List.Subset.refl _

/-- The remaining declarations of one label are of one station (R85). -/
theorem remaining_station {ds : List Declared} {d d' : Declared} (h : d ∈ remaining ds)
    (h' : d' ∈ remaining ds) (hl : d.decl.label = d'.decl.label) : d.station = d'.station := by
  simp only [remaining, List.mem_filter, beq_iff_eq] at h h'
  have := h.2.symm.trans ((congrArg _ hl).trans h'.2)
  exact Option.some.inj this

/-- Who carries a label after the third step of reconciliation: a remaining declarer, or a holder from
before against whom no declaration stands (R86, R87). -/
theorem Reconcile.carried_slot {r : Reconcile} {i : Fin 24} {e : Entry}
    (hp : Sys2Proof.Entry.isPending e = false) {x : Claimant}
    (hx : x ∈ Sys2Proof.Entry.carried (r.slot i e)) :
    (∃ d ∈ r.left, d.station = x.station ∧ d.decl.label = x.label)
      ∨ x ∈ Sys2Proof.Entry.carried e ∧ declaredByOther r.left x.label x.station = false := by
  rcases r.slot_cases i e with ⟨d, hd, -, hslot⟩ | hslot
  · obtain ⟨damage, hheld⟩ := e.declare_held d
    rw [hslot, hheld] at hx
    cases List.mem_singleton.1 hx
    exact .inl ⟨d, hd, rfl, rfl⟩
  · rw [hslot] at hx
    rcases r.undeclared_cases e hp with ⟨h, damage, rfl, hl, hsame⟩ | ⟨hnil, -, -⟩
    · rw [hsame] at hx
      cases List.mem_singleton.1 hx
      simp only [Reconcile.loses, Bool.or_eq_false_iff] at hl
      exact .inr ⟨hx, hl.2⟩
    · rw [hnil] at hx
      cases hx

theorem declaredByOther_station {ds : List Declared} {l : Label} {k : Station} {d : Declared}
    (h : declaredByOther ds l k = false) (hd : d ∈ ds) (hl : d.decl.label = l) : d.station = k := by
  rw [declaredByOther, List.any_eq_false] at h
  simpa [hl] using h d hd

/-- Reconciliation keeps each label under one station where no entry is pending (R85 to R87). -/
theorem State.reconciled_labels {s t : State} {c : Census}
    (entries : ∀ i : Fin 24, t.slots[i].entry = (s.reconcileWith c).slot i s.slots[i].entry)
    (hp : ∀ i : Fin 24, Sys2Proof.Entry.isPending s.slots[i].entry = false) (hs : LabelsInOrder s) :
    LabelsInOrder t := by
  intro i j x hx y hy hl
  rw [entries] at hx hy
  rcases Reconcile.carried_slot (hp i) hx with ⟨d, hd, hds, hdl⟩ | ⟨hx, hxo⟩
  · rcases Reconcile.carried_slot (hp j) hy with ⟨d', hd', hds', hdl'⟩ | ⟨hy, hyo⟩
    · rw [← hds, ← hds']
      exact remaining_station hd hd' (by rw [hdl, hdl', hl])
    · rw [← hds]
      exact declaredByOther_station hyo hd (hdl.trans hl)
  · rcases Reconcile.carried_slot (hp j) hy with ⟨d', hd', hds', hdl'⟩ | ⟨hy, hyo⟩
    · rw [← hds']
      exact (declaredByOther_station hxo hd' (hdl'.trans hl.symm)).symm
    · exact hs i j x hx y hy hl

theorem MapMove.labelsInOrder (s t : State) (h : MapMove s t)
    (hs : LabelsInOrder s ∧ PendingInOrder s) : LabelsInOrder t ∧ PendingInOrder t := by
  obtain ⟨hlabels, hpending⟩ := hs
  refine ⟨?_, h.pendingInOrder s t hpending⟩
  cases h with
  | beside entries => exact labelsInOrder_of_subset hlabels fun i => by rw [entries]; exact List.Subset.refl _
  | cleared entries => exact labelsInOrder_of_subset hlabels fun i => by rw [entries]; exact List.nil_subset _
  | unsettled entries => exact labelsInOrder_of_subset hlabels fun i => by rw [entries]; exact Entry.carried_unsettle _
  | resolved k c same => rw [same]; exact State.resolveCell_labels hlabels k c
  | readBack k ok same =>
    refine labelsInOrder_of_subset hlabels fun i => ?_
    rw [same, State.applyReadback_entry]
    split
    · exact Entry.carried_readback _ _ _
    · exact List.Subset.refl _
  | reconciled c before entries =>
    exact State.reconciled_labels entries ((pendingInOrder_iff s).1 hpending before) hlabels

theorem HeaderMove.labelsInOrder {s t : State} (h : HeaderMove s t) (hs : LabelsInOrder s) :
    LabelsInOrder t := by
  obtain ⟨u, x, hu, ht, -⟩ := h
  have hlabels : LabelsInOrder u := labelsInOrder_of_subset hs fun i => by rw [hu]; exact List.Subset.refl _
  exact labelsInOrder_of_subset (State.handleHeader_labels hlabels x) fun i => by rw [ht]; exact List.Subset.refl _

/-! ### The holdings (R24) -/

theorem indicesWhere_length_le {n : Nat} {p q : Fin n → Bool} (h : ∀ i, p i = true → q i = true) :
    (indicesWhere p).length ≤ (indicesWhere q).length :=
  (List.monotone_filter_right _ h).length_le

/-- One more index may meet the condition. -/
theorem indicesWhere_length_le_succ {n : Nat} {p q : Fin n → Bool} (j : Nat)
    (h : ∀ i : Fin n, p i = true → q i = true ∨ i.val = j) :
    (indicesWhere p).length ≤ (indicesWhere q).length + 1 := by
  have hnodup : ((indicesWhere p).map Fin.val).Nodup :=
    ((List.nodup_finRange n).filter _).map Fin.val_injective
  have hsub : (indicesWhere p).map Fin.val ⊆ j :: (indicesWhere q).map Fin.val := by
    intro m hm
    obtain ⟨i, hi, rfl⟩ := List.mem_map.1 hm
    rcases h i ((mem_indicesWhere _ _).1 hi) with hq | hj
    · exact List.mem_cons_of_mem _ (List.mem_map.2 ⟨i, (mem_indicesWhere _ _).2 hq, rfl⟩)
    · exact hj ▸ List.mem_cons_self
  simpa using (List.subperm_of_subset hnodup hsub).length_le

/-- No station comes to hold or claim a slot that it did not (R24). -/
theorem holdingsInOrder_of_counts {s t : State} (hs : HoldingsInOrder s)
    (h : ∀ (k : Station) (i : Fin 24), t.slots[i].entry.countsFor k = true →
      s.slots[i].entry.countsFor k = true) : HoldingsInOrder t :=
  fun k => (indicesWhere_length_le (h k)).trans (hs k)

/-- One slot may come to a station that holds or claims fewer than eight (R24). -/
theorem holdingsInOrder_of_new {s t : State} (hs : HoldingsInOrder s) (owner : Station) (j : Nat)
    (limit : holdingCount s.slots owner < 8)
    (h : ∀ (k : Station) (i : Fin 24), t.slots[i].entry.countsFor k = true →
      s.slots[i].entry.countsFor k = true ∨ k = owner ∧ i.val = j) : HoldingsInOrder t := by
  intro k
  by_cases hk : k = owner
  · subst hk
    have := indicesWhere_length_le_succ j fun i hi => (h k i hi).imp_right And.right
    unfold holdingCount at limit ⊢
    omega
  · refine (indicesWhere_length_le fun i hi => ?_).trans (hs k)
    exact (h k i hi).resolve_right fun hn => hk hn.1

/-- An entry that has settled is HELD by its bidder, as a commit has it, or by the holder a revert gives it
back to (R38, R39). -/
theorem Entry.countsFor_settle {veto : Bool} {k : Station} {e : Entry}
    (h : (e.settle veto).countsFor k = true) :
    (if veto then Sys2Proof.Entry.revertsTo k e else e.countsFor k) = true := by
  rcases e with _ | _ | _ | ⟨c, _ | _⟩ | _ | _ <;> cases veto <;> exact h

/-- An entry that loses its settling header is HELD by none (R63). -/
theorem Entry.countsFor_unsettle {k : Station} {e : Entry} (h : e.unsettle.countsFor k = true) :
    e.countsFor k = true := by
  cases e with
  | claimPending c prior => cases prior <;> cases h
  | releasePending x => cases h
  | _ => exact h

theorem State.settleAll_holdings {s : State} (hs : HoldingsInOrder s) (hr : RevertsInOrder s)
    (veto : Bool) : HoldingsInOrder (s.settleAll veto) := by
  intro k
  have hcount : ∀ i : Fin 24, ((s.settleAll veto).slots[i].entry.countsFor k) = true →
      (if veto then Sys2Proof.Entry.revertsTo k s.slots[i].entry else s.slots[i].entry.countsFor k)
        = true := fun i hi => by
    rw [State.settleAll_entry] at hi
    exact Entry.countsFor_settle hi
  cases veto with
  | true => exact (indicesWhere_length_le hcount).trans (hr k)
  | false => exact (indicesWhere_length_le hcount).trans (hs k)

/-- A bid adds its bidder alone to those who hold or claim an entry, and only below the limit (R24, R41). -/
theorem State.judge_countsFor (s : State) (b : Bid) (e : Entry) (k : Station)
    (h : (s.judge b e).countsFor k = true) : e.countsFor k = true
      ∨ k = b.station ∧ holdingCount s.slots b.station < 8 := by
  have valid : ∀ e, s.bidValid b e = true → holdingCount s.slots b.station < 8 := fun e hv => by
    simp only [State.bidValid, Bool.and_eq_true, decide_eq_true_eq] at hv
    exact hv.2
  have bidder : ∀ k, (b.claimant.station == k) = true → k = b.station := fun k h => (beq_iff_eq.1 h).symm
  unfold State.judge at h
  split at h
  · cases h
  · split at h
    · rename_i hv
      exact .inr ⟨bidder k h, valid _ hv⟩
    · exact .inl h
  · split at h
    · rename_i hv
      exact .inr ⟨bidder k h, valid _ hv⟩
    · exact .inl h
  · exact .inl h

theorem State.judgeBid_holdings {s : State} (hs : HoldingsInOrder s) (bid : Option Bid) :
    HoldingsInOrder (s.judgeBid bid) := by
  cases bid with
  | none => exact hs
  | some b =>
    have hcount : ∀ (k : Station) (i : Fin 24), (s.judgeBid (some b)).slots[i].entry.countsFor k = true →
        s.slots[i].entry.countsFor k = true
          ∨ (k = b.station ∧ holdingCount s.slots b.station < 8) ∧ i.val = b.slot.toNat := fun k i hi => by
      rcases State.judgeBid_cases s (some b) i with hsame | ⟨_, hb, hslot, hj⟩
      · exact .inl (hsame ▸ hi)
      · cases hb
        rw [hj] at hi
        exact (State.judge_countsFor s b _ k hi).imp_right fun h => ⟨h, hslot⟩
    by_cases hlimit : holdingCount s.slots b.station < 8
    · exact holdingsInOrder_of_new hs b.station b.slot.toNat hlimit fun k i hi =>
        (hcount k i hi).imp_right fun h => ⟨h.1.1, h.2⟩
    · exact holdingsInOrder_of_counts hs fun k i hi => (hcount k i hi).resolve_right fun h => hlimit h.1.2

theorem State.release_countsFor (s : State) (e : Entry) (k : Station)
    (h : (s.release e).countsFor k = true) : e.countsFor k = true := by
  unfold State.release at h
  split at h
  · split at h
    · cases h
    · exact h
  · exact h

theorem HeaderMove.holdingsInOrder {s t : State} (h : HeaderMove s t) (hs : HoldingsInOrder s)
    (hr : RevertsInOrder s) : HoldingsInOrder t := by
  obtain ⟨u, x, hu, ht, -⟩ := h
  have hsettle : HoldingsInOrder (u.settleAll x.veto) := by
    refine State.settleAll_holdings ?_ ?_ x.veto
    · rwa [HoldingsInOrder, hu]
    · rwa [RevertsInOrder, hu]
  refine holdingsInOrder_of_counts (State.judgeBid_holdings hsettle x.bid) fun k i hi => ?_
  rw [ht, State.handleHeader_entry_eq] at hi
  dsimp only at hi
  split at hi
  · exact State.release_countsFor _ _ k hi
  · exact hi

theorem State.resolveCell_holdings {s : State} (hs : HoldingsInOrder s) (j : Nat) (c : Cell) :
    HoldingsInOrder (s.resolveCell j (.intact c)) := by
  have hcount : ∀ (k : Station) (i : Fin 24),
      (s.resolveCell j (.intact c)).slots[i].entry.countsFor k = true →
      s.slots[i].entry.countsFor k = true ∨ (k = c.owner ∧ s.withholds c = false) ∧ i.val = j := by
    intro k i hi
    rw [State.resolveCell_entry] at hi
    split at hi
    · rename_i hj
      rcases State.resolve_cases s c s.slots[i].entry with hsame | ⟨hw, hheld⟩
      · exact .inl (hsame ▸ hi)
      · rw [hheld] at hi
        exact .inr ⟨⟨(beq_iff_eq.1 hi).symm, hw⟩, hj⟩
    · exact .inl hi
  by_cases hw : s.withholds c = false
  · have hlimit : holdingCount s.slots c.owner < 8 := by
      simp only [State.withholds, Bool.or_eq_false_iff, decide_eq_false_iff_not, not_le] at hw
      exact hw.2
    exact holdingsInOrder_of_new hs c.owner j hlimit fun k i hi => (hcount k i hi).imp_right fun h => ⟨h.1.1, h.2⟩
  · exact holdingsInOrder_of_counts hs fun k i hi => (hcount k i hi).resolve_right fun h => hw h.1.2

theorem Entry.readback_countsFor (self : Station) (ok : Bool) (e : Entry) (k : Station)
    (h : (e.readback self ok).countsFor k = true) : e.countsFor k = true := by
  unfold Entry.readback at h
  split at h
  · split at h
    · split at h
      · exact h
      · split at h
        · cases h
        · exact h
    · exact h
  · exact h

/-- A remaining declaration is one of a heard station's cell (R82, R85). -/
theorem State.mem_reconcileWith_left {s : State} {c : Census} {d : Declared}
    (h : d ∈ (s.reconcileWith c).left) :
    ∃ cell, c.heard s.number d.station = some cell ∧ d.decl ∈ cell.meaningful := by
  have hd : d ∈ c.declared s.number := List.mem_of_mem_filter h
  rw [Census.declared, List.mem_flatMap] at hd
  obtain ⟨k, -, hk⟩ := hd
  split at hk
  · rename_i cell hcell
    obtain ⟨x, hx, rfl⟩ := List.mem_map.1 hk
    exact ⟨cell, hcell, hx⟩
  · cases hk

/-- A cell declares at most eight slots (R17). -/
theorem CensusCell.meaningful_length (c : CensusCell) : c.meaningful.length ≤ 8 := by
  simp [CensusCell.meaningful]

/-- After the third step of reconciliation a station that was heard holds only slots that it declares
(R86, R87). -/
theorem Reconcile.slot_of_heard {r : Reconcile} {i : Fin 24} {e : Entry} {k : Station}
    (hp : Sys2Proof.Entry.isPending e = false) (hk : r.isHeard k = true)
    (h : (r.slot i e).countsFor k = true) :
    ∃ d ∈ r.left, d.decl.slot.toNat = i.val ∧ d.station = k := by
  rcases r.slot_cases i e with ⟨d, hd, hi, hslot⟩ | hslot
  · obtain ⟨damage, hheld⟩ := e.declare_held d
    rw [hslot, hheld] at h
    exact ⟨d, hd, hi, by simpa [Entry.countsFor] using h⟩
  · rw [hslot] at h
    rcases r.undeclared_cases e hp with ⟨x, damage, rfl, hl, hsame⟩ | ⟨-, -, hnone⟩
    · rw [hsame] at h
      have hx : x.station = k := by simpa [Entry.countsFor] using h
      simp only [Reconcile.loses, hx, hk, Bool.true_or, Bool.true_eq_false] at hl
    · rw [hnone] at h
      cases h

/-- A station that was not heard gets no slot by it (R86, R87). -/
theorem Reconcile.slot_of_unheard {r : Reconcile} {i : Fin 24} {e : Entry} {k : Station}
    (hp : Sys2Proof.Entry.isPending e = false) (hk : ∀ d ∈ r.left, d.station ≠ k)
    (h : (r.slot i e).countsFor k = true) : e.countsFor k = true := by
  rcases r.slot_cases i e with ⟨d, hd, -, hslot⟩ | hslot
  · obtain ⟨damage, hheld⟩ := e.declare_held d
    rw [hslot, hheld] at h
    exact absurd (by simpa [Entry.countsFor] using h) (hk d hd)
  · rw [hslot] at h
    rcases r.undeclared_cases e hp with ⟨x, damage, rfl, -, hsame⟩ | ⟨-, -, hnone⟩
    · rwa [hsame] at h
    · rw [hnone] at h
      cases h

theorem State.reconciled_holdings {s t : State} {c : Census}
    (entries : ∀ i : Fin 24, t.slots[i].entry = (s.reconcileWith c).slot i s.slots[i].entry)
    (hp : ∀ i : Fin 24, Sys2Proof.Entry.isPending s.slots[i].entry = false) (hs : HoldingsInOrder s) :
    HoldingsInOrder t := by
  intro k
  cases hcell : c.heard s.number k with
  | none =>
    refine (indicesWhere_length_le fun i hi => ?_).trans (hs k)
    rw [entries] at hi
    refine Reconcile.slot_of_unheard (hp i) (fun d hd hk => ?_) hi
    obtain ⟨cell, hheard, -⟩ := State.mem_reconcileWith_left hd
    rw [hk, hcell] at hheard
    cases hheard
  | some cell =>
    have hnodup : ((indicesWhere fun i => t.slots[i].entry.countsFor k).map Fin.val).Nodup :=
      ((List.nodup_finRange 24).filter _).map Fin.val_injective
    have hsub : (indicesWhere fun i => t.slots[i].entry.countsFor k).map Fin.val
        ⊆ cell.meaningful.map (·.slot.toNat) := by
      intro m hm
      obtain ⟨i, hi, rfl⟩ := List.mem_map.1 hm
      rw [mem_indicesWhere, entries] at hi
      have hheard : (s.reconcileWith c).isHeard k = true := by
        rw [Reconcile.isHeard]
        exact Option.isSome_iff_exists.2 ⟨cell, hcell⟩
      obtain ⟨d, hd, hslot, rfl⟩ := Reconcile.slot_of_heard (hp i) hheard hi
      obtain ⟨cell', hcell', hmem⟩ := State.mem_reconcileWith_left hd
      rw [hcell] at hcell'
      cases hcell'
      exact List.mem_map.2 ⟨d.decl, hmem, hslot⟩
    have hle := (List.subperm_of_subset hnodup hsub).length_le
    rw [List.length_map, List.length_map] at hle
    exact hle.trans cell.meaningful_length

theorem MapMove.holdingsInOrder (s t : State) (h : MapMove s t)
    (hs : PendingInOrder s ∧ HoldingsInOrder s) : PendingInOrder t ∧ HoldingsInOrder t := by
  obtain ⟨hpending, hholdings⟩ := hs
  refine ⟨h.pendingInOrder s t hpending, ?_⟩
  cases h with
  | beside entries => exact holdingsInOrder_of_counts hholdings fun k i hi => by rwa [entries] at hi
  | cleared entries => exact holdingsInOrder_of_counts hholdings fun k i hi => by rw [entries] at hi; cases hi
  | unsettled entries =>
    refine holdingsInOrder_of_counts hholdings fun k i hi => ?_
    rw [entries] at hi
    exact Entry.countsFor_unsettle hi
  | resolved j c same => rw [same]; exact State.resolveCell_holdings hholdings j c
  | readBack j ok same =>
    refine holdingsInOrder_of_counts hholdings fun k i hi => ?_
    rw [same, State.applyReadback_entry] at hi
    split at hi
    · exact Entry.readback_countsFor _ _ _ k hi
    · exact hi
  | reconciled c before entries =>
    exact State.reconciled_holdings entries ((pendingInOrder_iff s).1 hpending before) hholdings

/-! ### Every step -/

theorem MapStep.mapInOrder {s t : State} (h : MapStep s t) (hs : MapInOrder s) : MapInOrder t := by
  rcases h with h | ⟨u, hu, h⟩
  · exact (h.keeps MapMove.ordered ⟨hs⟩).entries
  · exact (h.keeps MapMove.ordered (hu.ordered ⟨hs⟩)).entries

theorem MapStep.labelsInOrder {s t : State} (h : MapStep s t) (hs : LabelsInOrder s ∧ PendingInOrder s) :
    LabelsInOrder t ∧ PendingInOrder t := by
  rcases h with h | ⟨u, hu, h⟩
  · exact h.keeps MapMove.labelsInOrder hs
  · exact h.keeps MapMove.labelsInOrder ⟨hu.labelsInOrder hs.1, hu.pendingInOrder⟩

theorem MapStep.holdingsInOrder {s t : State} (h : MapStep s t) (hp : PendingInOrder s)
    (hs : HoldingsInOrder s) (hr : RevertsInOrder s) : HoldingsInOrder t := by
  rcases h with h | ⟨u, hu, h⟩
  · exact (h.keeps MapMove.holdingsInOrder ⟨hp, hs⟩).2
  · exact (h.keeps MapMove.holdingsInOrder ⟨hu.pendingInOrder, hu.holdingsInOrder hs hr⟩).2

/-- Settles O58: a step is a sequence of moves of the map, and each move keeps the three laws. -/
theorem everyStepKeepsTheMapInOrder : Obligations.EveryStepKeepsTheMapInOrder := by
  refine ⟨keeps_of_exec _ (fun _ _ h => h) fun c s t hs ht => (MapStep.exec ht).mapInOrder hs,
    keeps_of_exec _ (fun _ _ h => h) fun c s t hs ht => (MapStep.exec ht).labelsInOrder hs,
    fun s t hp hs hr ht => ?_⟩
  unfold step at ht
  split at ht
  · cases ht
    exact hs
  · rename_i c rest _
    have hpop : PendingInOrder { s with pending := rest } := hp
    exact (MapStep.exec ht).holdingsInOrder hpop hs hr

end Sys2Proof.Machine
end

section
/-! PROOFS. What a bid does to the entry of its target slot (R20, R40 to R43), and which cells do not resolve an
entry (R30). -/

namespace Sys2Proof.Machine

open Sys2Proof

/-- A bidder joins fewer than three candidates that it is not among (R20). -/
theorem offerCandidate_eq (c : Claimant) (cs : List Claimant) :
    offerCandidate c cs = if (∃ x ∈ cs, x.station = c.station) ∨ 3 ≤ cs.length then cs else cs ++ [c] := by
  simp [offerCandidate, Config.candidateLimit]

/-- A bid without a label names no entry (R40). -/
theorem State.judgeBid_of_no_label (s : State) {b : Bid} (h : b.label = 0) : s.judgeBid (some b) = s :=
  if_pos h

/-- Settles O22, by the state of the target's entry. -/
theorem bidActsOnItsTarget : Obligations.BidActsOnItsTarget := by
  intro b s i
  refine ⟨fun h => ?_, fun hl hi => ?_⟩
  · by_cases hl : b.label = 0
    · rw [State.judgeBid_of_no_label s hl]
    · rw [State.judgeBid_entry b s i hl, if_neg fun hi => h.elim hl fun hne => hne hi.symm]
  · rw [State.judgeBid_entry b s i hl, if_pos hi.symm]
    cases s.slots[i].entry with
    | unsure cs =>
      rw [State.judge, offerCandidate_eq]
      exact apply_ite Entry.unsure _ _ _
    | _ => rfl

/-- A label is carried under another holder where an entry that is not UNSURE has it in use by another
station (R30). -/
theorem carriedByOther_iff (slots : Vector Slot 24) (l : Label) (k : Station) :
    carriedByOther slots l k = true ↔ ∃ i : Fin 24, (∀ cs, slots[i].entry ≠ .unsure cs)
      ∧ ∃ x ∈ slots[i].entry.users l, x ≠ k := by
  have entry : ∀ e : Entry, (match e with
      | .unsure _ => false
      | e => (e.users l).any (· != k)) = true
      ↔ (∀ cs, e ≠ .unsure cs) ∧ ∃ x ∈ e.users l, x ≠ k := fun e => by
    cases e <;> simp
  simp only [carriedByOther, List.any_eq_true, Vector.mem_toList_iff, Vector.mem_iff_getElem]
  constructor
  · rintro ⟨sl, ⟨i, hi, rfl⟩, h⟩
    exact ⟨⟨i, hi⟩, (entry _).1 h⟩
  · rintro ⟨i, h⟩
    exact ⟨_, ⟨i.val, i.isLt, rfl⟩, (entry _).2 h⟩

/-- Settles O32: the three cases are the three conditions of `State.withholds`. -/
theorem cellIsWithheldInThreeCases : Obligations.CellIsWithheldInThreeCases := by
  intro s c
  refine ⟨?_, fun hw e => ?_⟩
  · rw [State.withholds, Bool.or_eq_true, Bool.or_eq_true, beq_iff_eq, carriedByOther_iff,
      decide_eq_true_eq, or_assoc]
  · exact (State.resolve_cases s c e).resolve_right fun ⟨hno, _⟩ => by simp [hw] at hno

end Sys2Proof.Machine
end

section
/-! PROOFS. What a cell arrival does to the map and to the streams that read it (R27 to R34, R46, R49, R101,
R122). -/

namespace Sys2Proof.Machine

open Sys2Proof

/-! ### What the rules read and write of a stream (R122, R134) -/

/-- What the standing rule and the listen state rule read and write of a stream: its definition, its state,
whether it awaits a cue, and whether it has been full. -/
def Stream.placing (st : Stream) : StreamDef × StreamState × Bool × Bool :=
  (st.defn, st.state, st.awaiting, st.everFull)

/-- A stream stands as it did: placed as it was, with its close reason and no event cleared (R133, R191). -/
structure Stands (st st' : Stream) : Prop where
  placing : st'.placing = st.placing
  closeReason : st'.closeReason = st.closeReason
  event : st.event = true → st'.event = true

theorem Stands.refl (st : Stream) : Stands st st := ⟨rfl, rfl, id⟩

theorem Stands.trans {a b c : Stream} (h : Stands a b) (h' : Stands b c) : Stands a c :=
  ⟨h'.placing.trans h.placing, h'.closeReason.trans h.closeReason, fun e => h'.event (h.event e)⟩

theorem Stream.placing_eq_iff {st st' : Stream} : st'.placing = st.placing ↔ st'.defn = st.defn
    ∧ st'.state = st.state ∧ st'.awaiting = st.awaiting ∧ st'.everFull = st.everFull := by
  simp [Stream.placing]

theorem Stream.isOpen_of_placing {st st' : Stream} (h : st'.placing = st.placing) :
    st'.isOpen = st.isOpen := by
  obtain ⟨hdefn, hstate, -, -⟩ := Stream.placing_eq_iff.1 h
  rw [Stream.isOpen, Stream.isSend_congr hdefn, hstate]
  rfl

theorem Stream.openLabel_of_placing {st st' : Stream} (h : st'.placing = st.placing) :
    st'.openLabel = st.openLabel := by
  obtain ⟨hdefn, hstate, -, -⟩ := Stream.placing_eq_iff.1 h
  exact Stream.openLabel_congr hdefn (by rw [hstate])

/-! ### Cells at a listener -/

theorem Stands.checkListenStarved (st : Stream) : Stands st st.checkListenStarved := by
  unfold Stream.checkListenStarved
  split
  · exact ⟨rfl, rfl, id⟩
  · split <;> exact ⟨rfl, rfl, id⟩

theorem Stands.handBackCurrent (r : RxDone) (st : Stream) : Stands st (st.handBackCurrent r) := by
  refine Stands.trans ?_ (Stands.checkListenStarved _)
  exact ⟨rfl, rfl, id⟩

theorem Stands.placeOrDrop (c : Cell) (now : Stamp) (gap : Bool) (st : Stream) :
    Stands st (st.placeOrDrop c now gap) := by
  have drop : Stands st st.dropWord :=
    ⟨rfl, rfl, fun h => by simp [Stream.dropWord, Stream.signal, h]⟩
  unfold Stream.placeOrDrop
  split
  · split
    · exact drop
    · unfold Stream.placeWord
      dsimp only
      split
      · refine Stands.trans ?_ (Stands.handBackCurrent _ _)
        exact ⟨rfl, rfl, id⟩
      · exact ⟨rfl, rfl, id⟩
  · exact drop

theorem Stands.acceptWord (c : Cell) (now : Stamp) (st : Stream) : Stands st (st.acceptWord c now) := by
  have block : ∀ x : Stream, Stands x (x.endBlock c.mark) := fun x => by
    unfold Stream.endBlock
    split
    · split
      · exact Stands.handBackCurrent _ _
      · exact .refl x
    · exact .refl x
  have expect : Stands st { st with expectation := some (c.sequence + 1) } := ⟨rfl, rfl, id⟩
  unfold Stream.acceptWord
  dsimp only
  split
  · exact expect
  · split
    · exact expect.trans (block _)
    · exact (expect.trans (block _)).trans (Stands.placeOrDrop _ _ _ _)

/-- A cell moves no stream: it is the map that moves it (R34, R159). -/
theorem Stands.hearCell (i : Nat) (rx : CellRx) (slots : Vector Slot 24) (now : Stamp) (st : Stream) :
    Stands st (st.hearCell i rx slots now) := by
  unfold Stream.hearCell
  split
  · exact .refl st
  · split
    · exact Stands.acceptWord _ _ st
    · exact .refl st
  · split
    · unfold Stream.markDamage
      split <;> exact ⟨rfl, rfl, id⟩
    · exact .refl st

theorem Stands.issue (st : Stream) : Stands st st.issue := by
  rw [Stream.issue_eq]
  exact ⟨rfl, rfl, id⟩

/-! ### The views of the map, and the rules -/

/-- The views of the map are read from its entries (R22, R23, R26). -/
theorem ownHoldings_congr {v w : Vector Slot 24} (h : ∀ i : Fin 24, w[i].entry = v[i].entry) (k : Station)
    (l : Label) : ownHoldings w k l = ownHoldings v k l := by
  simp only [ownHoldings, h]

theorem carriers_congr {v w : Vector Slot 24} (h : ∀ i : Fin 24, w[i].entry = v[i].entry) (l : Label) :
    carriers w l = carriers v l := by
  simp only [carriers, h]

theorem candidacyUnder_congr {v w : Vector Slot 24} (h : ∀ i : Fin 24, w[i].entry = v[i].entry)
    (k : Station) (l : Label) : candidacyUnder w k l = candidacyUnder v k l := by
  simp only [candidacyUnder, ownCandidacy, h]

/-- This station is a candidate of a slot that is UNSURE with it alone (R26, R32). -/
theorem candidacyUnder_ne_nil {slots : Vector Slot 24} {k : Station} {i : Fin 24} {h : Claimant}
    (hi : slots[i].entry = .unsure [h]) (hk : h.station = k) : candidacyUnder slots k h.label ≠ [] := by
  refine List.ne_nil_of_mem (a := (i, h)) ?_
  rw [candidacyUnder, List.mem_filter, ownCandidacy, List.mem_filterMap]
  exact ⟨⟨i, List.mem_finRange i, by rw [hi]; simp [Entry.candidateOf, hk]⟩, by simp⟩

/-- The standing rule suspends an open send stream with a candidacy under its label (R122). -/
theorem Stream.standing_suspended {k : Station} {slots : Vector Slot 24} {st : Stream}
    (hs : st.isSend = true) (ho : st.state.openSend = true)
    (hc : candidacyUnder slots k st.defn.label ≠ []) : (st.standing k slots).state = .suspended := by
  simp [Stream.standing, hs, ho, hc]

/-! ### The part this station has in the map (R101) -/

theorem State.hasPart_eq_false_iff (s : State) :
    s.hasPart = false ↔ ∀ i : Fin 24, s.slots[i].entry.hasPart s.number = false := by
  simp only [State.hasPart, List.any_eq_false, Vector.mem_toList_iff, Vector.mem_iff_getElem,
    Bool.not_eq_true]
  constructor
  · exact fun h i => h _ ⟨i.val, i.isLt, rfl⟩
  · rintro h _ ⟨i, hi, rfl⟩
    exact h ⟨i, hi⟩

/-- What R101 leaves of a LEAVING station with no part in the map: OFFLINE, with LEFT raised. -/
theorem State.checkLeft_of_left {s : State} (h : s.membership = .leaving ∧ s.hasPart = false) :
    s.checkLeft.membership = .offline ∧ s.checkLeft.events.getLsbD 3 = true := by
  rw [State.checkLeft, if_pos h]
  refine ⟨rfl, ?_⟩
  rw [show (3 : Nat) = StationEvent.left.bit from rfl, State.raise_bit]
  simp

theorem State.checkLeft_of_stays {s : State} (h : ¬ (s.membership = .leaving ∧ s.hasPart = false)) :
    s.checkLeft = s := if_neg h

/-! ### A cell arrival -/

/-- The map as a cell in slot `i` leaves it: resolved, then read back (R27, R31). -/
def State.cellMap (i : Nat) (rx : CellRx) (s : State) : State :=
  ((s.mapStreams fun _ st => st.hearCell i rx s.slots s.stamp).resolveCell i rx).applyReadback i
    (if s.membership.drives then s.readbackOf i rx else none)

/-- The state a cell leaves before the check of R101. -/
def State.cellDone (i : Nat) (rx : CellRx) (s : State) : State :=
  (((s.cellMap i rx).mapReport (fun _ => false) s.slots).refreshIntent).finishClosing

theorem State.cellActs_eq (s : State) (i : Nat) (rx : CellRx) :
    s.cellActs i rx = (s.cellDone i rx).checkLeft := rfl

/-- What a cell changes besides the entries of the map and the streams: nothing. -/
def State.besideCells (s : State) : Membership × Station × Option Frame × BitVec 9 × Vector Peer 32 :=
  (s.membership, s.number, s.frame, s.events, s.peers)

theorem State.resolveCell_besideCells (s : State) (i : Nat) (rx : CellRx) :
    (s.resolveCell i rx).besideCells = s.besideCells ∧ (s.resolveCell i rx).streams = s.streams := by
  unfold State.resolveCell State.besideCells
  split <;> exact ⟨rfl, rfl⟩

theorem State.applyReadback_besideCells (s : State) (i : Nat) (ok : Option Bool) :
    (s.applyReadback i ok).besideCells = s.besideCells ∧ (s.applyReadback i ok).streams = s.streams := by
  unfold State.applyReadback State.besideCells
  split <;> exact ⟨rfl, rfl⟩

theorem State.cellMap_besideCells (s : State) (i : Nat) (rx : CellRx) :
    (s.cellMap i rx).besideCells = s.besideCells := by
  rw [State.cellMap, (State.applyReadback_besideCells _ _ _).1, (State.resolveCell_besideCells _ _ _).1]
  simp [State.besideCells]

theorem State.cellMap_stream (s : State) (i : Nat) (rx : CellRx) (n : Fin 16) :
    (s.cellMap i rx).streams[n] = (s.streams[n]).map fun st => st.hearCell i rx s.slots s.stamp := by
  rw [State.cellMap, (State.applyReadback_besideCells _ _ _).2, (State.resolveCell_besideCells _ _ _).2]
  exact State.mapStreams_get _ _ _ _

theorem State.cellDone_besideCells (s : State) (i : Nat) (rx : CellRx) :
    (s.cellDone i rx).besideCells = s.besideCells := by
  rw [← State.cellMap_besideCells s i rx]
  simp [State.cellDone, State.besideCells]

theorem State.cellDone_entry (s : State) (i : Nat) (rx : CellRx) (j : Fin 24) :
    (s.cellDone i rx).slots[j].entry = (s.cellMap i rx).slots[j].entry := by
  rw [State.cellDone, State.finishClosing_slots, State.refreshIntent_entry, State.mapReport_slots]

/-- A stream after a cell: it hears it, the map's report places it, and it may end its CLOSING. -/
theorem State.cellDone_stream (s : State) (i : Nat) (rx : CellRx) (n : Fin 16) (st : Stream)
    (h : s.streams[n] = some st) : ∃ part, (s.cellDone i rx).streams[n]
      = some (((st.hearCell i rx s.slots s.stamp).report s.number s.slots
        (s.cellMap i rx).slots).finishClosing part) := by
  have hnumber : (s.cellMap i rx).number = s.number :=
    congrArg (fun x => x.2.1) (State.cellMap_besideCells s i rx)
  have hreport := State.mapReport_open (s.cellMap i rx) (fun _ => false) s.slots n rfl
  rw [State.cellMap_stream, h, hnumber] at hreport
  simp only [Fin.getElem_fin, Option.map_some] at hreport
  rw [State.cellDone, State.finishClosing, Fin.getElem_fin, State.mapStreams_get,
    State.refreshIntent_streams, hreport]
  exact ⟨_, rfl⟩

/-- A cell changes no label that open send streams carry (R34). -/
theorem State.cellMap_carries (s : State) (i : Nat) (rx : CellRx) (closes : Fin 16 → Bool)
    (old : Vector Slot 24) :
    CarriesLess s.streams ((s.cellMap i rx).mapReport closes old).streams
      ∧ CarriesLess ((s.cellMap i rx).mapReport closes old).streams s.streams := by
  let heard := s.mapStreams fun _ st => st.hearCell i rx s.slots s.stamp
  have hear : ∀ st : Stream, (st.hearCell i rx s.slots s.stamp).openLabel = st.openLabel := fun st =>
    Stream.openLabel_of_placing (Stands.hearCell i rx s.slots s.stamp st).placing
  have hstreams : (s.cellMap i rx).streams = heard.streams := by
    rw [State.cellMap, (State.applyReadback_besideCells _ _ _).2, (State.resolveCell_besideCells _ _ _).2]
  have report : ∀ (n : Fin 16) (st : Stream), (if closes n then st
      else st.report (s.cellMap i rx).number old (s.cellMap i rx).slots).openLabel = st.openLabel := by
    intro n st
    split
    · rfl
    · exact Stream.report_openLabel _ _ _ st
  have hout := CarriesLess.mapStreams s (fun _ st => st.hearCell i rx s.slots s.stamp)
    fun _ st => .inr (hear st)
  have hback := CarriesLess.mapStreams_symm s (fun _ st => st.hearCell i rx s.slots s.stamp)
    fun _ st => hear st
  rw [show (s.mapStreams fun _ st => st.hearCell i rx s.slots s.stamp).streams = (s.cellMap i rx).streams
    from hstreams.symm] at hout hback
  exact ⟨hout.trans (CarriesLess.mapStreams _ _ fun n st => .inr (report n st)),
    (CarriesLess.mapStreams_symm _ _ report).trans hback⟩

/-- The release intent after a cell (R46, R49). -/
theorem State.cellDone_intent (s : State) (i : Nat) (rx : CellRx) (j : Fin 24) :
    (s.cellDone i rx).slots[j].intent = true
      ↔ Sys2Proof.Entry.StaysIntended s.number (s.cellMap i rx).slots[j].entry
        ∧ (s.slots[j].intent = true
          ∨ Sys2Proof.Entry.AskedFor s.number s.streams (s.cellMap i rx).slots[j].entry) := by
  have hnumber : (s.cellMap i rx).number = s.number :=
    congrArg (fun x => x.2.1) (State.cellMap_besideCells s i rx)
  have hintent : (s.cellMap i rx).slots[j].intent = s.slots[j].intent := by
    unfold State.cellMap State.applyReadback State.resolveCell
    repeat' split
    all_goals simp
  obtain ⟨hless, hmore⟩ := State.cellMap_carries s i rx (fun _ => false) s.slots
  rw [State.cellDone, State.finishClosing_slots, State.refreshIntent_intent, State.mapReport_slots,
    State.mapReport_number, hnumber, hintent, and_comm]
  exact and_congr_right fun _ => or_congr_right ⟨AskedFor.mono hmore, AskedFor.mono hless⟩

/-! ### The entry of the slot -/

/-- What a cell arrival makes of the entry of its slot: an intact cell may resolve it (R27). -/
def State.offerCell (s : State) (rx : CellRx) (e : Entry) : Entry :=
  match rx with
  | .intact c => s.resolve c e
  | _ => e

/-- A cell arrival acts on the entry of its slot and on no other (R27). -/
theorem State.resolveCell_offers (s : State) (i : Nat) (rx : CellRx) (j : Fin 24) :
    (s.resolveCell i rx).slots[j].entry
      = if j.val = i then s.offerCell rx s.slots[j].entry else s.slots[j].entry := by
  cases rx with
  | intact c => exact State.resolveCell_entry i c s j
  | _ => exact (ite_self _).symm

/-- No cell and no readback acts on the entry of another slot (R27, R31). -/
theorem State.cellMap_other (s : State) (i : Nat) (rx : CellRx) {j : Fin 24} (h : j.val ≠ i) :
    (s.cellMap i rx).slots[j].entry = s.slots[j].entry := by
  have hread : ∀ (u : State) (ok : Option Bool), (u.applyReadback i ok).slots[j].entry = u.slots[j].entry :=
    fun u ok => by
      cases ok with
      | some ok => rw [State.applyReadback_entry, if_neg h]
      | none => rfl
  rw [State.cellMap, hread, State.resolveCell_offers, if_neg h]
  exact congrArg (fun v : Vector Slot 24 => v[j].entry) (State.mapStreams_slots s _)

/-- The readback of a slot: intact when the arrival is the cell driven there (R16). -/
theorem State.readbackOf_slot (s : State) (j : Fin 24) (rx : CellRx) :
    s.readbackOf j.val rx = s.drive.cells[j].map fun c => rx == .intact c := by simp [State.readbackOf]

/-- Where this station drove no cell in the slot, the entry is only offered to the cell (R27, R31). -/
theorem State.cellMap_undriven (s : State) (rx : CellRx) {j : Fin 24}
    (hc : (if s.membership.drives = true then s.drive.cells[j] else none) = none) :
    (s.cellMap j.val rx).slots[j].entry = s.offerCell rx s.slots[j].entry := by
  have hown : (if s.membership.drives then s.readbackOf j.val rx else none) = none := by
    cases hd : s.membership.drives with
    | false => rfl
    | true =>
      rw [hd, if_pos rfl] at hc
      rw [if_pos rfl, State.readbackOf_slot, hc]
      rfl
  rw [State.cellMap, hown]
  exact (State.resolveCell_offers _ _ rx j).trans (if_pos rfl)

/-- The readback of a cell that this station drove counts in what the arrival made of the entry
(R16, R31). -/
theorem State.cellMap_driven (s : State) (rx : CellRx) {j : Fin 24} {c : Cell}
    (hd : s.membership.drives = true) (hc : s.drive.cells[j] = some c) :
    (s.cellMap j.val rx).slots[j].entry
      = (s.offerCell rx s.slots[j].entry).readback s.number (rx == .intact c) := by
  have hown : (if s.membership.drives then s.readbackOf j.val rx else none) = some (rx == .intact c) := by
    rw [if_pos hd, State.readbackOf_slot, hc]
    rfl
  have hnumber : ((s.mapStreams fun _ st => st.hearCell j.val rx s.slots s.stamp).resolveCell j.val
      rx).number = s.number :=
    congrArg (fun x => x.2.1) (State.resolveCell_besideCells _ j.val rx).1
  rw [State.cellMap, hown, State.applyReadback_entry, if_pos rfl, State.resolveCell_offers, if_pos rfl,
    hnumber]
  rfl

end Sys2Proof.Machine
end

section
/-! PROOFS. The entry of a cell's slot, the collision of readbacks, and the arrival of a cell (R16, R27 to R32,
R101, R122). -/

namespace Sys2Proof.Machine

open Sys2Proof

/-! ### The entry of the slot -/

/-- A readback counts only in an entry HELD by this station (R31). -/
theorem Entry.readback_of_other {k : Station} {h : Claimant} (hk : h.station ≠ k) (damage : Nat) (ok : Bool) :
    (Entry.held h damage).readback k ok = .held h damage := if_neg hk

theorem Entry.readback_of_unheld {e : Entry} (he : ∀ h damage, e ≠ .held h damage) (k : Station)
    (ok : Bool) : e.readback k ok = e := by
  cases e with
  | held h damage => exact absurd rfl (he h damage)
  | _ => rfl

/-- A readback in an entry HELD by this station (R31, R32). -/
theorem Entry.readback_of_own {k : Station} {h : Claimant} (hk : h.station = k) (damage : Nat) (ok : Bool) :
    (Entry.held h damage).readback k ok
      = if ok then .held h 0 else if damage = 0 then .held h 1 else .unsure [h] := by
  rw [Entry.readback, if_pos hk]
  cases ok with
  | true => rfl
  | false =>
    cases damage with
    | zero => rfl
    | succ d =>
      have hlimit : Config.collisionLimit ≤ d + 1 + 1 := by simp [Config.collisionLimit]
      simp [hlimit]

/-- No readback counts in what a cell makes of an entry that is not HELD: a cell of this station's own is
withheld (R30, R31). -/
theorem State.readback_offerCell (s : State) (rx : CellRx) {e : Entry}
    (he : ∀ h damage, e ≠ .held h damage) (ok : Bool) :
    (s.offerCell rx e).readback s.number ok = s.offerCell rx e := by
  cases rx with
  | intact c =>
    rcases State.resolve_cases s c e with hsame | ⟨hw, hheld⟩
    · rw [State.offerCell, hsame]
      exact Entry.readback_of_unheld he _ _
    · rw [State.offerCell, hheld]
      refine Entry.readback_of_other (fun hk => ?_) _ _
      rw [State.withholds, beq_iff_eq.2 hk] at hw
      cases hw
  | _ => exact Entry.readback_of_unheld he _ _

theorem State.cellMap_of_unheld (s : State) (rx : CellRx) (j : Fin 24)
    (he : ∀ h damage, s.slots[j].entry ≠ .held h damage) :
    (s.cellMap j.val rx).slots[j].entry = s.offerCell rx s.slots[j].entry := by
  cases hc : (if s.membership.drives = true then s.drive.cells[j] else none) with
  | none => exact State.cellMap_undriven s rx hc
  | some c =>
    obtain ⟨hd, hcell⟩ := (Option.ite_none_right_eq_some).1 hc
    rw [State.cellMap_driven s rx hd hcell, State.readback_offerCell s rx he]

/-- A HELD entry is resolved by no cell (R27). -/
theorem State.offerCell_held (s : State) (rx : CellRx) (h : Claimant) (damage : Nat) :
    s.offerCell rx (.held h damage) = .held h damage := by cases rx <;> rfl

/-- A HELD entry stays where this station does not hold it or drove no cell there (R31). -/
theorem State.cellMap_unread (s : State) (rx : CellRx) {j : Fin 24} {h : Claimant} {damage : Nat}
    (he : s.slots[j].entry = .held h damage)
    (hc : (if s.membership.drives = true ∧ h.station = s.number then s.drive.cells[j] else none) = none) :
    (s.cellMap j.val rx).slots[j].entry = .held h damage := by
  cases hown : (if s.membership.drives = true then s.drive.cells[j] else none) with
  | none => rw [State.cellMap_undriven s rx hown, he, State.offerCell_held]
  | some c =>
    obtain ⟨hd, hcell⟩ := (Option.ite_none_right_eq_some).1 hown
    have hk : h.station ≠ s.number := fun hk => by
      rw [if_pos ⟨hd, hk⟩, hcell] at hc
      cases hc
    rw [State.cellMap_driven s rx hd hcell, he, State.offerCell_held, Entry.readback_of_other hk]

/-- A readback counts in an entry HELD by this station (R16, R31, R32). -/
theorem State.cellMap_read (s : State) (rx : CellRx) {j : Fin 24} {h : Claimant} {damage : Nat} {c : Cell}
    (he : s.slots[j].entry = .held h damage) (hd : s.membership.drives = true) (hk : h.station = s.number)
    (hc : s.drive.cells[j] = some c) : (s.cellMap j.val rx).slots[j].entry
      = if rx = .intact c then .held h 0 else if damage = 0 then .held h 1 else .unsure [h] := by
  rw [State.cellMap_driven s rx hd hc, he, State.offerCell_held, Entry.readback_of_own hk]
  simp only [beq_iff_eq]

/-! ### The arrival -/

/-- A cell that arrives is the next of the frame in progress (R15). -/
theorem State.cellArrives_eq {s : State} {f : Frame} (hr : s.membership.receives = true)
    (hf : s.frame = some f) (hc : f.census = false) (hh : f.header ≠ .due) (ha : f.arrived < 24)
    (bits : CellBits) :
    s.cellArrives bits = s.takeCell f.arrived (classifyCell (f.validAt f.arrived) bits) := by
  have hdue : s.cellDue = some f := by simp [State.cellDue, hf, hr, hc, hh, Config.slotCount, ha]
  simp [State.cellArrives, hdue]

theorem State.takeCell_of_maps {s : State} (hm : s.membership.maps = true) (i : Nat) (rx : CellRx) :
    s.takeCell i rx = (s.countCell.cellDone i rx).checkLeft := if_pos hm

/-- Whether a LEAVING station is done is read from the map that the cell leaves (R101). -/
theorem State.cellDone_left_iff (s : State) (i : Nat) (rx : CellRx) :
    (s.cellDone i rx).membership = .leaving ∧ (s.cellDone i rx).hasPart = false
      ↔ s.membership = .leaving
        ∧ ∀ j : Fin 24, (s.cellMap i rx).slots[j].entry.hasPart s.number = false := by
  have hbeside := State.cellDone_besideCells s i rx
  simp only [State.besideCells, Prod.mk.injEq] at hbeside
  obtain ⟨hmembership, hnumber, -⟩ := hbeside
  rw [hmembership, State.hasPart_eq_false_iff, hnumber]
  simp only [State.cellDone_entry]

/-- What a cell leaves of a station that is not done: the frame with one more cell, and nothing else beside
the map and the streams. -/
theorem State.cellDone_countCell {s : State} {f : Frame} (hf : s.frame = some f) (i : Nat) (rx : CellRx) :
    (s.countCell.cellDone i rx).frame = some { f with arrived := f.arrived + 1 }
      ∧ (s.countCell.cellDone i rx).membership = s.membership
      ∧ (s.countCell.cellDone i rx).events = s.events
      ∧ (s.countCell.cellDone i rx).peers = s.peers := by
  have hbeside := State.cellDone_besideCells s.countCell i rx
  simp only [State.besideCells, Prod.mk.injEq] at hbeside
  obtain ⟨hmembership, -, hframe, hevents, hpeers⟩ := hbeside
  exact ⟨by rw [hframe, State.countCell, hf]; rfl, hmembership, hevents, hpeers⟩

/-- What the first part of O31 says of the entry of the cell's slot. -/
theorem State.countCell_cellMap_own (s : State) (rx : CellRx) (i : Fin 24) :
    (s.countCell.cellMap i.val rx).slots[i].entry =
      match s.slots[i].entry, rx with
      | .unknown, .intact c =>
        if s.withholds c then .unknown else .held ⟨c.owner, c.label, c.priority⟩ 0
      | .unsure cs, .intact c =>
        if (∃ x ∈ cs, x.station = c.owner) ∧ s.withholds c = false then
          .held ⟨c.owner, c.label, c.priority⟩ 0
        else .unsure cs
      | .held h d, rx =>
        match (if s.membership.drives = true ∧ h.station = s.number then s.drive.cells[i] else none) with
        | none => .held h d
        | some c => if rx = .intact c then .held h 0 else if d = 0 then .held h 1 else .unsure [h]
      | e, _ => e := by
  have hunheld : (∀ h damage, s.slots[i].entry ≠ .held h damage) →
      (s.countCell.cellMap i.val rx).slots[i].entry = s.offerCell rx s.slots[i].entry :=
    State.cellMap_of_unheld s.countCell rx i
  cases he : s.slots[i].entry with
  | held h damage =>
    dsimp only
    split
    · rename_i hc
      exact State.cellMap_unread s.countCell rx he hc
    · rename_i c hc
      obtain ⟨⟨hd, hk⟩, hcell⟩ := (Option.ite_none_right_eq_some).1 hc
      exact State.cellMap_read s.countCell rx he hd hk hcell
  | unsure cs =>
    rw [hunheld (by rw [he]; simp), he]
    cases rx with
    | intact c => simp [State.offerCell, State.resolve]
    | _ => rfl
  | _ =>
    rw [hunheld (by rw [he]; simp), he]
    cases rx <;> rfl

/-! ### A collision of readbacks -/

/-- A stream whose slot has become UNSURE with this station alone is SUSPENDED by the map's report
(R32, R34, R122). -/
theorem Stream.report_suspended {k : Station} {old new : Vector Slot 24} {st : Stream} {i : Fin 24}
    {h : Claimant} {damage : Nat} (hold : old[i].entry = .held h damage) (hnew : new[i].entry = .unsure [h])
    (hk : h.station = k) (hl : st.defn.label = h.label) (hs : st.isSend = true)
    (ho : st.state.openSend = true) : (st.report k old new).state = .suspended := by
  have hchanged : ownHoldings old k st.defn.label ≠ ownHoldings new k st.defn.label := fun hsame => by
    have hmem : i ∈ ownHoldings new k st.defn.label := by
      rw [← hsame, mem_ownHoldings]
      exact ⟨h, damage, hold, hk, hl.symm⟩
    obtain ⟨_, _, hheld, -, -⟩ := (mem_ownHoldings _ _ _ _).1 hmem
    rw [hnew] at hheld
    cases hheld
  rw [Stream.report, if_pos hs, if_neg fun hsame => hchanged hsame.1]
  exact Stream.standing_suspended hs ho (hl ▸ candidacyUnder_ne_nil hnew hk)

/-- A stream that is open after the CLOSING ones have closed was not one of them (R132). -/
theorem Stream.finishClosing_of_open {st : Stream} {part : Bool}
    (h : (st.finishClosing part).state.openSend = true) : st.finishClosing part = st := by
  unfold Stream.finishClosing at *
  split
  · rename_i hc
    rw [if_pos hc] at h
    cases h
  · rfl

/-- After a collision the open send streams of the holder's label are SUSPENDED (R32, R122). -/
theorem State.cellDone_suspends {s : State} {i : Fin 24} {rx : CellRx} {h : Claimant} {damage : Nat}
    (hold : s.slots[i].entry = .held h damage)
    (hnew : (s.cellMap i.val rx).slots[i].entry = .unsure [h]) (hk : h.station = s.number) {n : Fin 16}
    {st : Stream} (hn : (s.cellDone i.val rx).pump.streams[n] = some st) (hs : st.isSend = true)
    (hl : st.defn.label = h.label) (ho : st.state.openSend = true) : st.state = .suspended := by
  rw [State.pump_get] at hn
  obtain ⟨done, hdone, rfl⟩ := Option.map_eq_some_iff.1 hn
  obtain ⟨hdefn, hstate, -, -⟩ := Stream.placing_eq_iff.1 (Stands.issue done).placing
  rw [Stream.isSend_congr hdefn] at hs
  rw [hdefn] at hl
  rw [hstate] at ho ⊢
  cases hst : s.streams[n] with
  | none =>
    have := State.cellMap_stream s i.val rx n
    rw [State.cellDone, State.finishClosing, Fin.getElem_fin, State.mapStreams_get,
      State.refreshIntent_streams] at hdone
    have hreport := State.mapReport_open (s.cellMap i.val rx) (fun _ => false) s.slots n rfl
    simp only [Fin.getElem_fin] at hreport this hst
    rw [hreport, this, hst] at hdone
    cases hdone
  | some st₀ =>
    obtain ⟨part, hpart⟩ := State.cellDone_stream s i.val rx n st₀ hst
    rw [hdone] at hpart
    cases hpart
    have hsame := Stream.finishClosing_of_open ho
    rw [hsame] at hs hl ho ⊢
    obtain ⟨hdefn', -, -, hopen⟩ := Stream.report_stall s.number s.slots (s.cellMap i.val rx).slots
      (st₀.hearCell i.val rx s.slots s.stamp)
    rw [Stream.isSend_congr hdefn'] at hs
    rw [hdefn'] at hl
    rw [hopen hs] at ho
    exact Stream.report_suspended hold hnew hk hl hs ho

/-- The damaged readback of a cell that was driven in a slot HELD with one already is a collision (R32). -/
theorem State.collisionIn_of {s : State} {f : Frame} {i : Fin 24} {c : Cell} {h : Claimant} {damage : Nat}
    {bits : CellBits} (hd : s.membership.drives = true) (hf : s.frame = some f) (hc : f.census = false)
    (hh : f.header ≠ .due) (hi : f.arrived = i.val) (hcell : s.drive.cells[i] = some c)
    (he : s.slots[i].entry = .held h damage) (hk : h.station = s.number) (hone : 1 ≤ damage)
    (hbad : classifyCell (f.validAt i.val) bits ≠ .intact c) : s.collisionIn bits = true := by
  have hr := Membership.receives_of_maps (Membership.maps_of_drives hd)
  have hdue : s.cellDue = some f := by simp [State.cellDue, hf, hr, hc, hh, Config.slotCount, hi]
  have hread : s.readbackOf i.val (classifyCell (f.validAt i.val) bits) = some false := by
    rw [State.readbackOf_slot, hcell]
    simp [hbad]
  have hcollides : s.slots[i].entry.collides s.number = true := by
    rw [he]
    simp [Entry.collides, hk, Config.collisionLimit, hone]
  simp only [Fin.getElem_fin] at hcollides
  simp [State.collisionIn, hdue, hd, hi, hread, hcollides]

/-- Settles O31: the map as the cell leaves it (`State.cellMap`) witnesses its first part. -/
theorem cellActsOnItsSlot : Obligations.CellActsOnItsSlot := by
  refine ⟨fun bits s f hf hc hh ha => ⟨fun hm => ?_, fun hl => ?_⟩,
    fun bits s f i c h damage hd hf hc hh hi hcell he hk hone hbad => ?_⟩
  · have hr := Membership.receives_of_maps hm
    refine ⟨(s.countCell.cellMap f.arrived (classifyCell (f.validAt f.arrived) bits)).slots, _, rfl,
      fun i hi => State.cellMap_other s.countCell _ _ hi, fun i hi => ?_, ?_⟩
    · rw [← hi]
      exact State.countCell_cellMap_own s _ i
    · rw [State.cellArrives_eq hr hf hc hh ha, State.takeCell_of_maps hm]
      have hleft := State.cellDone_left_iff s.countCell f.arrived (classifyCell (f.validAt f.arrived) bits)
      split
      · rename_i hgone
        rw [State.pump_membership, State.pump_events]
        exact State.checkLeft_of_left (hleft.2 hgone)
      · rename_i hstays
        rw [State.checkLeft_of_stays fun hgone => hstays (hleft.1 hgone)]
        simp only [State.pump_slots, State.pump_frame, State.pump_membership, State.pump_events,
          State.pump_peers]
        exact ⟨fun i => ⟨State.cellDone_entry _ _ _ i, State.cellDone_intent _ _ _ i⟩,
          State.cellDone_countCell hf _ _⟩
  · have hr : s.membership.receives = true := by rw [hl]; rfl
    have hm : ¬ s.membership.maps = true := by rw [hl]; decide
    refine ⟨_, rfl, ?_⟩
    rw [State.cellArrives_eq hr hf hc hh ha, State.takeCell, if_neg hm, State.pump_slots,
      State.pump_frame, State.pump_membership]
    exact ⟨rfl, by rw [State.countCell, hf]; rfl, hl⟩
  · have hm := Membership.maps_of_drives hd
    have hr := Membership.receives_of_maps hm
    have hnew : (s.countCell.cellMap i.val (classifyCell (f.validAt i.val) bits)).slots[i].entry
        = .unsure [h] := by
      have hzero : damage ≠ 0 := by omega
      rw [State.countCell_cellMap_own, he]
      simp only [hd, hk, hcell, hbad, hzero, and_self, if_true, if_false]
    refine ⟨_, congrArg Host.Outcome.next
      (if_pos (State.collisionIn_of hd hf hc hh hi hcell he hk hone hbad)), ?_⟩
    rw [State.cellArrives_eq hr hf hc hh (hi ▸ i.isLt), State.takeCell_of_maps hm, hi]
    have hstays := fun hgone => (State.cellDone_left_iff s.countCell i.val
      (classifyCell (f.validAt i.val) bits)).1 hgone
    rw [State.checkLeft_of_stays fun hgone => ?_]
    · obtain ⟨hframe, -⟩ := State.cellDone_countCell hf i.val (classifyCell (f.validAt i.val) bits)
      refine ⟨?_, ?_, fun n st hn hs hl ho =>
        State.cellDone_suspends (s := s.countCell) he hnew hk hn hs hl ho, fun j hj => ?_⟩
      · rw [State.pump_slots, State.cellDone_entry, hnew]
      · rw [State.pump_frame, hframe, hi]
      · rw [State.pump_slots, State.cellDone_entry, State.cellMap_other _ _ _ fun hv => hj (Fin.ext hv)]
        rfl
    · have hpart := (hstays hgone).2 i
      rw [hnew] at hpart
      simp [Entry.hasPart, Entry.keepsIntent, State.countCell, hk] at hpart

end Sys2Proof.Machine
end

section
/-! PROOFS. Where headers, cells and census completion leave the streams that are open (R34, R111, R122, R133,
R134). -/

namespace Sys2Proof.Machine

open Sys2Proof

/-! ### The standing rule and the listen state rule (R122, R134) -/

/-- The standing rule places an open send stream that holds at most its width (R122). -/
theorem Stream.standing_places {k : Station} {slots : Vector Slot 24} {st : Stream}
    (hs : st.isSend = true) (ho : st.state.openSend = true)
    (hw : (ownHoldings slots k st.defn.label).length ≤ st.defn.width) :
    (st.standing k slots).state =
        (if candidacyUnder slots k st.defn.label ≠ [] then .suspended
         else if (ownHoldings slots k st.defn.label).length = st.defn.width then
           (if st.awaiting then .armed else .running)
         else if st.everFull then .repairing else .claiming)
      ∧ ((st.standing k slots).state = .armed ∨ (st.standing k slots).state = .running →
          (st.standing k slots).everFull = true) := by
  rw [Stream.standing, hs, ho]
  by_cases hc : candidacyUnder slots k st.defn.label = []
  · by_cases hl : (ownHoldings slots k st.defn.label).length < st.defn.width
    · have hne : (ownHoldings slots k st.defn.label).length ≠ st.defn.width := by omega
      cases st.everFull <;> simp [hc, hl, hne]
    · have heq : (ownHoldings slots k st.defn.label).length = st.defn.width := by omega
      simp [hc, heq]
  · simp [hc]

/-- The listen state rule places an open listen stream (R134). -/
theorem Stream.listenRule_places {slots : Vector Slot 24} {st : Stream} (hs : st.isSend = false)
    (ho : st.state.openListen = true) : (st.listenRule slots).state =
      (if st.awaiting then .armed else if carriers slots st.defn.label = [] then .seeking else .tuned) := by
  simp [Stream.listenRule, hs, ho]

/-- The rules keep an open stream open (R122, R134). -/
theorem Stream.report_isOpen {k : Station} {old new : Vector Slot 24} {st : Stream}
    (h : st.isOpen = true) : (st.report k old new).isOpen = true := by
  obtain ⟨hdefn, -, -, hopen⟩ := Stream.report_stall k old new st
  rw [Stream.isOpen, Stream.isSend_congr hdefn]
  cases hs : st.isSend with
  | true =>
    rw [Stream.isOpen, hs] at h
    rw [if_pos rfl, hopen hs]
    exact h
  | false =>
    simp only [Stream.isOpen, hs, Bool.false_eq_true, if_false] at h
    simp only [Stream.report, hs, Bool.false_eq_true, if_false]
    split
    · exact h
    · rw [Stream.listenRule_places hs h]
      repeat' split
      all_goals rfl

/-- What `FollowsMap` reads: the placing of the stream before and after, and the entries of the map. -/
theorem followsMap_congr {k : Station} {old new new' : Vector Slot 24} {a a' b b' : Stream}
    (ha : a'.placing = a.placing) (hb : b'.placing = b.placing)
    (hentries : ∀ i : Fin 24, new'[i].entry = new[i].entry) (h : FollowsMap k old new a b) :
    FollowsMap k old new' a' b' := by
  obtain ⟨hdefn, hstate, hawaiting, hfull⟩ := Stream.placing_eq_iff.1 ha
  obtain ⟨-, hstate', -, hfull'⟩ := Stream.placing_eq_iff.1 hb
  simp only [FollowsMap, ownHoldings_congr hentries, candidacyUnder_congr hentries,
    carriers_congr hentries, Stream.isSend_congr hdefn, hdefn, hstate, hawaiting, hfull, hstate', hfull']
  exact h

/-! ### What leaves a stream standing as it did -/

theorem Stands.noteStall (k : Station) (old new : Vector Slot 24) (stall : BitVec 24) (st : Stream) :
    Stands st (st.noteStall k old new stall) := by
  unfold Stream.noteStall
  split <;> exact ⟨rfl, rfl, id⟩

theorem Stands.chooseWords (k : Station) (slots : Vector Slot 24) (hold : Bool) (st : Stream) :
    Stands st (st.chooseWords k slots hold) := ⟨rfl, rfl, id⟩

theorem Stands.chooseNone (st : Stream) : Stands st st.chooseNone := ⟨rfl, rfl, id⟩

theorem Stands.pollRingEnd (st : Stream) : Stands st st.pollRingEnd := by
  unfold Stream.pollRingEnd
  split <;> exact ⟨rfl, rfl, id⟩

theorem Stands.noteStallRun (st : Stream) : Stands st st.noteStallRun := by
  unfold Stream.noteStallRun
  split
  · exact ⟨rfl, rfl, fun h => by simp [Stream.signal, h]⟩
  · exact .refl st

theorem Stands.missCue (st : Stream) : Stands st st.missCue := by
  unfold Stream.missCue
  split
  · exact ⟨rfl, rfl, fun _ => rfl⟩
  · exact .refl st

theorem Stands.consumeLatch (st : Stream) : Stands st st.consumeLatch := by
  unfold Stream.consumeLatch
  split
  · split
    · unfold Stream.releaseHead
      split <;> exact ⟨rfl, rfl, id⟩
    · exact ⟨rfl, rfl, id⟩
  · exact .refl st

/-- A stream with no cue of the header for it consumes a latch at most (R173, R178). -/
theorem Stands.heedCue {bits : BitVec 4} {st : Stream}
    (h : ∀ b, st.defn.cue = some b → bits.getLsbD b.line.toNat = false) (skip : Bool) (k : Station)
    (slots : Vector Slot 24) : Stands st (st.heedCue bits skip k slots) := by
  have hstands := Stands.consumeLatch st
  have hcued : st.consumeLatch.cued bits = false := by
    rw [Stream.cued, (Stream.placing_eq_iff.1 hstands.placing).1]
    cases hcue : st.defn.cue with
    | none => rfl
    | some b => exact h b hcue
  unfold Stream.heedCue
  dsimp only
  rw [hcued]
  simpa using hstands

/-! ### A stream that a label clash may close (R111, R133) -/

/-- A stream is placed as `r` is, or a label clash has closed it, with its event (R111, R133). -/
def PlacedOrClashed (r x : Stream) : Prop :=
  x.placing = r.placing ∨ x.isOpen = false ∧ x.closeReason = .labelClash ∧ x.event = true

theorem PlacedOrClashed.stands {r x y : Stream} (h : PlacedOrClashed r x) (hs : Stands x y) :
    PlacedOrClashed r y := by
  rcases h with hplaced | ⟨hclosed, hreason, hevent⟩
  · exact .inl (hs.placing.trans hplaced)
  · exact .inr ⟨(Stream.isOpen_of_placing hs.placing).trans hclosed, hs.closeReason.trans hreason,
      hs.event hevent⟩

/-- An open stream is not CLOSING (R132). -/
theorem Stream.finishClosing_of_isOpen {st : Stream} (h : st.isOpen = true) (part : Bool) :
    st.finishClosing part = st := by
  unfold Stream.finishClosing
  split
  · rename_i hc
    simp only [Bool.and_eq_true, beq_iff_eq] at hc
    obtain ⟨⟨hs, hclosing⟩, -⟩ := hc
    rw [Stream.isOpen, if_pos hs, hclosing] at h
    cases h
  · rfl

theorem PlacedOrClashed.finishClosing {r x : Stream} (hr : r.isOpen = true) (h : PlacedOrClashed r x)
    (part : Bool) : PlacedOrClashed r (x.finishClosing part) := by
  rcases h with hplaced | ⟨hclosed, hreason, hevent⟩
  · rw [Stream.finishClosing_of_isOpen ((Stream.isOpen_of_placing hplaced).trans hr)]
    exact .inl hplaced
  · unfold Stream.finishClosing
    split
    · refine .inr ⟨?_, hreason, by simp [Stream.signal]⟩
      simp [Stream.isOpen, StreamState.openSend, StreamState.openListen]
    · exact .inr ⟨hclosed, hreason, hevent⟩

/-- A label clash closes an open stream with its event, and does nothing to another (R111, R133). -/
theorem Stream.close_labelClash (part : Bool) (st : Stream) :
    st.isOpen = false ∧ st.close .labelClash part = st
      ∨ (st.close .labelClash part).isOpen = false
        ∧ (st.close .labelClash part).closeReason = .labelClash
        ∧ (st.close .labelClash part).event = true := by
  unfold Stream.close
  split
  · rename_i hs
    split
    · right
      refine ⟨?_, rfl, by simp [Stream.closeSend, CloseReason.signals]⟩
      rw [Stream.isOpen, if_pos (show (st.closeSend .labelClash part).isSend = true from hs)]
      cases part <;> rfl
    · rename_i ho
      left
      exact ⟨by simp [Stream.isOpen, hs, ho], by split <;> rfl⟩
  · rename_i hs
    split
    · right
      refine ⟨?_, rfl, by simp [Stream.closeListen, CloseReason.signals]⟩
      rw [Stream.isOpen, if_neg (show ¬ (st.closeListen .labelClash).isSend = true from hs)]
      rfl
    · rename_i ho
      left
      exact ⟨by simp [Stream.isOpen, hs, ho], rfl⟩

theorem PlacedOrClashed.close {r x : Stream} (h : PlacedOrClashed r x) (part : Bool) :
    PlacedOrClashed r (x.close .labelClash part) := by
  rcases Stream.close_labelClash part x with ⟨-, hsame⟩ | hclashed
  · rwa [hsame]
  · exact .inr hclashed

/-! ### One stream of a state -/

/-- Stream `n` is defined, and such. -/
def StreamAt (n : Fin 16) (P : Stream → Prop) (s : State) : Prop := ∃ x, s.streams[n] = some x ∧ P x

section
variable {n : Fin 16} {P Q : Stream → Prop} {s t : State} {r : Stream}

theorem StreamAt.congr (h : StreamAt n P s) (streams : t.streams = s.streams := by simp) :
    StreamAt n P t := by rwa [StreamAt, streams]

theorem StreamAt.imp (h : StreamAt n P s) (himp : ∀ x, P x → Q x) : StreamAt n Q s := by
  obtain ⟨x, hx, hp⟩ := h
  exact ⟨x, hx, himp x hp⟩

theorem StreamAt.mapStreams (h : StreamAt n P s) {f : Fin 16 → Stream → Stream}
    (hf : ∀ x, P x → Q (f n x)) : StreamAt n Q (s.mapStreams f) := by
  obtain ⟨x, hx, hp⟩ := h
  refine ⟨f n x, ?_, hf x hp⟩
  simp only [Fin.getElem_fin] at hx ⊢
  rw [State.mapStreams_get, hx]
  rfl

theorem StreamAt.pump (h : StreamAt n (PlacedOrClashed r) s) : StreamAt n (PlacedOrClashed r) s.pump := by
  obtain ⟨x, hx, hp⟩ := h
  exact ⟨x.issue, by rw [State.pump_get, hx]; rfl, hp.stands (Stands.issue x)⟩

/-- The arbiter closes a stream for a label clash alone (R107, R111). -/
theorem StreamAt.chooseBid (h : StreamAt n (PlacedOrClashed r) s) :
    StreamAt n (PlacedOrClashed r) s.chooseBid := by
  refine State.chooseBid_keeps (StreamAt n (PlacedOrClashed r)) (fun u m hu => ?_)
    (fun u b hu => hu.congr rfl) s h
  obtain ⟨x, hx, hp⟩ := hu
  rw [StreamAt, State.closeOne_stream]
  split
  · rename_i hm
    rw [← hm, hx]
    exact ⟨_, rfl, hp.close _⟩
  · exact ⟨x, hx, hp⟩

theorem StreamAt.chooseAtHeader (h : StreamAt n (PlacedOrClashed r) s) (f : Frame) :
    StreamAt n (PlacedOrClashed r) (s.chooseAtHeader f) := by
  unfold State.chooseAtHeader
  split
  · exact h.chooseBid
  · exact h.congr rfl

theorem StreamAt.finishClosing (hr : r.isOpen = true) (h : StreamAt n (PlacedOrClashed r) s) :
    StreamAt n (PlacedOrClashed r) s.finishClosing :=
  h.mapStreams fun _ hx => hx.finishClosing hr _

end

/-- A station that is not OFFLINE after the check of R101 has passed it. -/
theorem State.checkLeft_of_membership {s : State} (h : s.checkLeft.membership ≠ .offline) :
    s.checkLeft = s := by
  unfold State.checkLeft at *
  split
  · rename_i hl
    rw [if_pos hl] at h
    exact absurd rfl h
  · rfl

theorem StreamAt.finishHeader {n : Fin 16} {r : Stream} {s : State} (hr : r.isOpen = true)
    (h : StreamAt n (PlacedOrClashed r) s) {f : Frame} (hm : (s.finishHeader f).membership ≠ .offline) :
    StreamAt n (PlacedOrClashed r) (s.finishHeader f) := by
  have hclosed : StreamAt n (PlacedOrClashed r) ({ s with bidDriven := none } : State).finishClosing :=
    StreamAt.finishClosing hr (h.congr rfl)
  unfold State.finishHeader at *
  rw [State.checkLeft_of_membership hm]
  split
  · exact hclosed
  · exact hclosed.mapStreams fun _ hx => hx.stands (Stands.pollRingEnd _)

/-- The choice of words moves no stream (R124). -/
theorem StreamAt.chooseAll {n : Fin 16} {r : Stream} {s : State} (h : StreamAt n (PlacedOrClashed r) s)
    (old : Vector Slot 24) (stall : BitVec 24) (f : Frame) :
    StreamAt n (PlacedOrClashed r) (s.chooseAll old stall f) := by
  refine StreamAt.mapStreams h fun x hx => ?_
  have hnote : Stands x (if f.census then x else x.noteStall s.number old s.slots stall) := by
    split
    · exact .refl x
    · exact Stands.noteStall _ _ _ _ x
  dsimp only
  split
  · exact hx.stands (hnote.trans (Stands.chooseWords _ _ _ _))
  · exact hx.stands (hnote.trans (Stands.chooseNone _))

theorem StreamAt.chooseUnheard {n : Fin 16} {r : Stream} {s : State}
    (h : StreamAt n (PlacedOrClashed r) s) (f : Frame) :
    StreamAt n (PlacedOrClashed r) (s.chooseUnheard f) := by
  refine StreamAt.mapStreams h fun x hx => ?_
  split
  · exact hx.stands (Stands.chooseWords _ _ _ _)
  · exact hx.stands (Stands.chooseNone _)

/-! ### The command of a header (R122, R187 to R189) -/

/-- What a command does to the streams does not depend on the census cell that is driven. -/
theorem State.performCommand_driveCensus (s : State) (c : Command) :
    (s.driveCensus.performCommand c).streams = (s.performCommand c).streams := by
  obtain ⟨code, stream⟩ := c
  cases code with
  | openStream =>
    have hsame : s.driveCensus.streams[stream.toFin] = s.streams[stream.toFin] := rfl
    unfold State.performCommand
    dsimp only
    rw [hsame]
    cases s.streams[stream.toFin] <;> rfl
  | closeStream => rfl
  | setStanding => rfl

theorem State.takeCommand_driveCensus (s : State) :
    s.driveCensus.takeCommand.streams = s.takeCommand.streams
      ∧ s.driveCensus.takeCommand.lastResult = s.takeCommand.lastResult := by
  unfold State.takeCommand
  rw [show s.driveCensus.command = s.command from rfl]
  cases s.command with
  | none => exact ⟨rfl, rfl⟩
  | some c =>
    refine ⟨?_, rfl⟩
    dsimp only
    unfold State.takeThis
    rw [show s.driveCensus.judgeCommand c = s.judgeCommand c from rfl]
    dsimp only
    split
    · exact State.performCommand_driveCensus s c
    · rfl

/-- The order of the command and the census cell does not show in the streams and the result (log 7). -/
theorem State.commandAndCell_takes (s : State) (f : Frame) :
    (s.commandAndCell f).streams = s.takeCommand.streams
      ∧ (s.commandAndCell f).lastResult = s.takeCommand.lastResult := by
  unfold State.commandAndCell
  split
  · exact ⟨rfl, rfl⟩
  · split
    · dsimp only
      split
      · exact ⟨rfl, rfl⟩
      · exact State.takeCommand_driveCensus s
    · exact ⟨rfl, rfl⟩

theorem State.commandAndCell_lastResult {s : State} {c : Command} (hc : s.command = some c) (f : Frame) :
    (s.commandAndCell f).lastResult = s.judgeCommand c := by
  rw [(s.commandAndCell_takes f).2, State.takeCommand, hc]
  rfl

/-- A command acts on its own stream alone, and on that only where it is answered DONE (R188, R189). -/
theorem State.takeCommand_stream {s : State} {n : Fin 16}
    (h : ∀ c, s.command = some c → c.code ≠ .setStanding → c.stream.toFin = n → s.judgeCommand c ≠ .done) :
    s.takeCommand.streams[n] = s.streams[n] := by
  have perform : ∀ c : Command, (c.code ≠ .setStanding → n ≠ c.stream.toFin) →
      (s.performCommand c).streams[n] = s.streams[n] := by
    rintro ⟨code, stream⟩ hother
    cases code with
    | openStream =>
      unfold State.performCommand
      dsimp only
      split
      · exact State.onStream_get_other s _ n _ (hother (by simp))
      · rfl
    | closeStream => exact (State.closeOne_stream s .host _ n).trans (if_neg (hother (by simp)))
    | setStanding => rfl
  unfold State.takeCommand
  split
  · rfl
  · rename_i c hc
    unfold State.takeThis
    dsimp only
    split
    · rename_i hdone
      exact perform c fun hcode hn => h c hc hcode hn.symm hdone
    · rfl

/-- A CLOSE is answered DONE in MEMBER, for a stream that is not CLOSED (R189). -/
theorem State.judgeClose_done_iff (s : State) (n : Fin 16) : s.judgeClose n = .done
    ↔ s.membership = .member ∧ ∃ st, s.streams[n] = some st ∧ st.state ≠ .closed := by
  unfold State.judgeClose
  cases s.streams[n] <;> by_cases hm : s.membership = .member <;> simp [hm]

/-- A pending CLOSE that will close a stream (R122, R189). -/
theorem State.closesPending_iff (s : State) (n : Fin 16) : s.closesPending n = true
    ↔ ∃ c, s.command = some c ∧ c.code = .closeStream ∧ c.stream.toFin = n ∧ s.judgeClose n = .done := by
  unfold State.closesPending State.commandedStream
  cases s.command with
  | none => simp
  | some c =>
    obtain ⟨code, stream⟩ := c
    cases code <;> simp [State.judgeCommand]
    constructor
    · rintro ⟨h, rfl⟩
      exact ⟨rfl, h⟩
    · rintro ⟨rfl, h⟩
      exact ⟨h, rfl⟩

theorem Stream.state_ne_closed {st : Stream} (h : st.isOpen = true) : st.state ≠ .closed := by
  intro hc
  simp [Stream.isOpen, hc, StreamState.openSend, StreamState.openListen] at h

/-- A stream that is open and not commanded is not closed by a pending CLOSE, neither for the map's report of
a state `v` before the command nor by the command itself. -/
theorem State.command_spares {s v y t : State} {f : Frame} {n : Fin 16} (hn : ¬ Commanded s t n)
    (hv : v.command = s.command) (hy : y.command = s.command) (hm : v.membership = y.membership)
    (hlast : t.lastResult = (y.commandAndCell f).lastResult)
    (hopen : StreamAt n (fun x => x.isOpen = true) y) :
    v.closesPending n = false ∧ (y.commandAndCell f).streams[n] = y.streams[n] := by
  have hrefused : ∀ c, y.command = some c → c.code ≠ .setStanding → c.stream.toFin = n →
      y.judgeCommand c ≠ .done := fun c hc hcode hstream hdone =>
    hn ⟨⟨c, hy ▸ hc, hcode, hstream⟩, by rw [hlast, State.commandAndCell_lastResult hc, hdone]⟩
  refine ⟨?_, ?_⟩
  · rw [← Bool.not_eq_true, State.closesPending_iff]
    rintro ⟨c, hc, hcode, hstream, hdone⟩
    obtain ⟨x, hx, hxo⟩ := hopen
    refine hrefused c (by rw [hy, ← hv, hc]) (by rw [hcode]; decide) hstream ?_
    rw [State.judgeCommand, hcode, hstream]
    refine (State.judgeClose_done_iff y n).2 ⟨?_, x, hx, Stream.state_ne_closed hxo⟩
    rw [← hm]
    exact ((State.judgeClose_done_iff v n).1 hdone).1
  · rw [(y.commandAndCell_takes f).1]
    exact State.takeCommand_stream hrefused

end Sys2Proof.Machine
end

section
/-! PROOFS. Streams follow the map, arrival by arrival (R34, R111, R122, R133, R134). -/

namespace Sys2Proof.Machine

open Sys2Proof

/-! ### Headers -/

@[simp] theorem State.heedCues_lastResult (s : State) (bits : BitVec 4) (n : Option (Fin 16)) :
    (s.heedCues bits n).lastResult = s.lastResult := by
  unfold State.heedCues
  split <;> simp

@[simp] theorem State.closeOne_lastResult (s : State) (reason : CloseReason) (n : Fin 16) :
    (s.closeOne reason n).lastResult = s.lastResult := by simp [State.closeOne]

@[simp] theorem State.chooseBid_lastResult (s : State) : s.chooseBid.lastResult = s.lastResult :=
  State.chooseBid_keeps (fun t => t.lastResult = s.lastResult)
    (fun t n h => (State.closeOne_lastResult t _ n).trans h) (fun _ _ h => h) s rfl

@[simp] theorem State.chooseAtHeader_lastResult (s : State) (f : Frame) :
    (s.chooseAtHeader f).lastResult = s.lastResult := by
  unfold State.chooseAtHeader
  split
  · exact s.chooseBid_lastResult
  · rfl

theorem State.finishHeader_lastResult {s : State} {f : Frame}
    (hm : (s.finishHeader f).membership ≠ .offline) : (s.finishHeader f).lastResult = s.lastResult := by
  unfold State.finishHeader at *
  rw [State.checkLeft_of_membership hm]
  split <;> simp

theorem State.finishHeader_slots {s : State} {f : Frame}
    (hm : (s.finishHeader f).membership ≠ .offline) : (s.finishHeader f).slots = s.slots := by
  unfold State.finishHeader at *
  rw [State.checkLeft_of_membership hm]
  split <;> simp

/-- What the map's part of a header makes of an open stream: the report places it, unless a pending CLOSE
will close it (R34, R122). -/
theorem StreamAt.mapReport {n : Fin 16} {st : Stream} {k : Station} (u : State) (closes : Fin 16 → Bool)
    (old : Vector Slot 24) (hu : u.streams[n] = some st) (hk : u.number = k) :
    StreamAt n (fun x => x = if closes n then st else st.report k old u.slots)
      (u.mapReport closes old).refreshIntent := by
  subst hk
  rw [StreamAt, State.refreshIntent_streams]
  cases hc : closes n with
  | true => exact ⟨st, by rw [State.mapReport_closed u closes old n hc, hu], rfl⟩
  | false => exact ⟨_, by rw [State.mapReport_open u closes old n hc, hu]; rfl, rfl⟩

/-- The streams of a state to which a header has brought its cues stand as they stood, but for those it
cues (R173, R178). -/
theorem StreamAt.heedCues {n : Fin 16} {r : Stream} {s : State} {bits : BitVec 4}
    (h : StreamAt n (fun x => x.placing = r.placing) s)
    (hcue : ∀ b, s.membership.drives = true → r.defn.cue = some b → bits.getLsbD b.line.toNat = false)
    (skip : Option (Fin 16)) : StreamAt n (fun x => x.placing = r.placing) (s.heedCues bits skip) := by
  unfold State.heedCues
  split
  · rename_i hd
    refine StreamAt.congr (StreamAt.mapStreams (h.congr rfl) fun x hx => ?_) (State.cleanQueue_streams _)
    refine (Stands.heedCue (fun b hb => hcue b hd ?_) _ _ _).placing.trans hx
    rw [← (Stream.placing_eq_iff.1 hx).1, hb]
  · exact h

theorem StreamAt.oweVeto {n : Fin 16} {r : Stream} {s : State}
    (h : StreamAt n (fun x => x.placing = r.placing) s) :
    StreamAt n (fun x => x.placing = r.placing) s.oweVeto := by
  unfold State.oweVeto
  split
  · exact StreamAt.mapStreams (h.congr rfl) fun x hx => (Stands.missCue x).placing.trans hx
  · exact h

/-- A stream that no command of the header is for stands after the command as the report of a state `v`, which
a pending CLOSE did not keep from it, has placed it (R122, R188, R189). -/
theorem StreamAt.commandAndCell {s v y t : State} {f : Frame} {n : Fin 16} {st r : Stream}
    (hy : StreamAt n (fun x => x.placing = (if v.closesPending n then st else r).placing) y)
    (ho : st.isOpen = true) (hr : r.isOpen = true) (hn : ¬ Commanded s t n)
    (command : v.command = s.command ∧ y.command = s.command) (membership : y.membership = v.membership)
    (hlast : t.lastResult = (y.commandAndCell f).lastResult) :
    StreamAt n (fun x => x.placing = r.placing) (y.commandAndCell f) := by
  have hopen : StreamAt n (fun x => x.isOpen = true) y := hy.imp fun x hx => by
    rw [Stream.isOpen_of_placing hx]
    split
    · exact ho
    · exact hr
  obtain ⟨hspared, hsame⟩ := State.command_spares hn command.1 command.2 membership.symm hlast hopen
  rw [StreamAt, hsame]
  exact hy.imp fun x hx => by rw [hx, hspared]; rfl

/-- An arrival places an open stream: the map's report places it, or a label clash closes it, and the map that
was reported has the entries that the arrival leaves. -/
def Places (s t : State) (n : Fin 16) (st : Stream) : Prop :=
  ∃ new : Vector Slot 24, (∀ i : Fin 24, t.slots[i].entry = new[i].entry)
    ∧ StreamAt n (PlacedOrClashed (st.report s.number s.slots new)) t

/-- An intact header places an open stream that it neither commands nor cues. -/
theorem State.judgeHeader_places {s : State} {bits : HeaderBits} {f : Frame} {n : Fin 16} {st : Stream}
    (hst : s.streams[n] = some st) (ho : st.isOpen = true)
    (hm : (s.judgeHeader bits f).membership ≠ .offline) (hn : ¬ Commanded s (s.judgeHeader bits f) n)
    (hcue : ∀ b, s.membership.drives = true → st.defn.cue = some b →
      (headerFields f bits).cue.getLsbD b.line.toNat = false) :
    Places s (s.judgeHeader bits f) n st := by
  let w := s.countWin (arbitrationRead bits)
  let u := w.handleHeader (headerFields f bits)
  obtain ⟨x, hx⟩ : ∃ x, x = w.mapHeader (headerFields f bits) := ⟨_, rfl⟩
  obtain ⟨new, hnew⟩ : ∃ new, new = u.slots := ⟨_, rfl⟩
  have hreported : StreamAt n (fun y => y.placing = (if w.closesPending n then st
      else st.report s.number s.slots new).placing) x := by
    rw [hx, hnew]
    have hstream : u.streams[n] = some st := by
      rw [show u.streams = s.streams by simp [u, w, State.handleHeader, State.countWin], hst]
    have hnumber : u.number = s.number := by simp [u, w, State.handleHeader, State.countWin]
    exact (StreamAt.mapReport u w.closesPending s.slots hstream hnumber).imp fun y hy =>
      congrArg Stream.placing hy
  have hentries : ∀ i : Fin 24, x.slots[i].entry = new[i].entry := fun i => by
    rw [hx, hnew, State.mapHeader, State.refreshIntent_entry, State.mapReport_slots]
  have hcommand : x.command = s.command := by
    rw [hx]
    simp [w, State.mapHeader, State.handleHeader, State.countWin]
  have hmembership : x.membership = s.membership := by rw [hx, State.mapHeader_membership]; rfl
  have ht : s.judgeHeader bits f = ((((x.commandAndCell f).heedCues (headerFields f bits).cue
      x.commandedStream).chooseAll s.slots (headerFields f bits).stall f).chooseAtHeader f).finishHeader f := by
    rw [hx]
    rfl
  rw [ht] at hm hn ⊢
  have hopen := Stream.report_isOpen (k := s.number) (old := s.slots) (new := new) ho
  have htaken := hreported.commandAndCell (f := f) ho hopen hn ⟨rfl, hcommand⟩ hmembership (by
    rw [State.finishHeader_lastResult hm]
    simp [State.chooseAll])
  have hcued := htaken.heedCues (bits := (headerFields f bits).cue) (fun b hd hb => hcue b
    (by rwa [State.commandAndCell_membership, hmembership] at hd)
    (by rwa [(Stream.report_stall s.number s.slots new st).1] at hb)) x.commandedStream
  refine ⟨new, fun i => ?_, (((hcued.imp fun _ => Or.inl).chooseAll _ _ f).chooseAtHeader f).finishHeader
    hopen hm⟩
  rw [State.finishHeader_slots hm, ← hentries]
  exact (((SameTrunk.commandAndCell x f).trans (.heedCues _ _ _)).trans (.chooseAll _ _ _ f) |>.trans
    (.chooseAtHeader _ f)).entries i

/-- A damaged header places an open stream that it does not command. -/
theorem State.missHeader_places {s : State} {arb : List Halves} {f : Frame} {n : Fin 16} {st : Stream}
    (hst : s.streams[n] = some st) (ho : st.isOpen = true)
    (hm : (s.missHeader arb f).membership ≠ .offline) (hn : ¬ Commanded s (s.missHeader arb f) n) :
    Places s (s.missHeader arb f) n st := by
  let w : State := { s.countWin (arb.map bitOfHalves) with chosenBid := none }
  obtain ⟨x, hx⟩ : ∃ x, x = (w.unsettleAll.mapReport w.closesPending s.slots).refreshIntent := ⟨_, rfl⟩
  obtain ⟨new, hnew⟩ : ∃ new, new = w.unsettleAll.slots := ⟨_, rfl⟩
  have hreported : StreamAt n (fun y => y.placing = (if w.closesPending n then st
      else st.report s.number s.slots new).placing) x := by
    rw [hx, hnew]
    exact (StreamAt.mapReport w.unsettleAll w.closesPending s.slots hst rfl).imp fun y hy =>
      congrArg Stream.placing hy
  have hentries : ∀ i : Fin 24, x.slots[i].entry = new[i].entry := fun i => by
    rw [hx, hnew, State.refreshIntent_entry, State.mapReport_slots]
  have hcommand : x.oweVeto.command = s.command := by
    refine (congrArg (fun y => y.2.2.2.2.2) (State.oweVeto_cellSide x)).trans ?_
    rw [hx]
    simp [State.cellSide, w, State.countWin]
  have hmembership : x.oweVeto.membership = s.membership := by
    rw [State.oweVeto_membership, hx]
    simp [w, State.countWin]
  have ht : s.missHeader arb f = ((x.oweVeto.commandAndCell f).chooseUnheard f).finishHeader f := by
    rw [hx]
    rfl
  rw [ht] at hm hn ⊢
  have hopen := Stream.report_isOpen (k := s.number) (old := s.slots) (new := new) ho
  have htaken := hreported.oweVeto.commandAndCell (f := f) ho hopen hn ⟨rfl, hcommand⟩ hmembership (by
    rw [State.finishHeader_lastResult hm]
    simp [State.chooseUnheard])
  refine ⟨new, fun i => ?_, ((htaken.imp fun _ => Or.inl).chooseUnheard f).finishHeader hopen hm⟩
  rw [State.finishHeader_slots hm, ← hentries,
    ((SameTrunk.commandAndCell _ f).trans (.chooseUnheard _ f)).entries i, State.oweVeto_slots]

/-- A header, intact or damaged, places an open stream that it neither commands nor cues. -/
theorem State.takeHeader_places {header : HeaderRx} {s : State} {f : Frame} {n : Fin 16} {st : Stream}
    (hj : s.membership.judges = true) (hd : s.membership.drives = true → s.damageCount < 4)
    (hf : s.frame = some f) (hh : f.header = .due)
    (hexpected : ∀ bits, header = .intact bits → f.unexpected = false)
    (hst : s.streams[n] = some st) (ho : st.isOpen = true)
    (hm : (s.takeHeader header).membership ≠ .offline) (hn : ¬ Commanded s (s.takeHeader header) n)
    (hcue : ∀ bits b, header = .intact bits → s.membership.drives = true → st.defn.cue = some b →
      (headerFields f bits).cue.getLsbD b.line.toNat = false) :
    Places s (s.takeHeader header) n st := by
  have hr := Membership.receives_of_maps (Membership.maps_of_judges hj)
  have hdue : s.headerDue = some f := by simp [State.headerDue, hf, hr, hh]
  cases header with
  | intact bits =>
    have htake : s.takeHeader (.intact bits)
        = (s.setHeader (.intact (headerFields f bits).valid)).judgeHeader bits f := by
      simp only [State.takeHeader, hdue, hexpected bits rfl, Bool.false_eq_true, if_false]
      exact if_pos hj
    rw [htake] at hm hn ⊢
    exact State.judgeHeader_places (s := s.setHeader (.intact (headerFields f bits).valid)) hst ho hm hn
      fun b => hcue bits b rfl
  | damaged arb =>
    have htake : s.takeHeader (.damaged arb) = s.damagedHeader arb f := by
      simp only [State.takeHeader, hdue]
    rw [htake] at hm hn ⊢
    unfold State.damagedHeader at hm hn ⊢
    dsimp only at hm hn ⊢
    by_cases hdr : (s.setHeader .damaged).membership.drives = true
    · have hlt : ¬ Config.damageLimit ≤ (s.setHeader .damaged).damageCount + 1 := by
        have := hd hdr
        simp only [Config.damageLimit, State.setHeader]
        omega
      simp only [hdr, hlt, if_true, if_false] at hm hn ⊢
      exact State.missHeader_places (s := { s.setHeader .damaged with
        damageCount := (s.setHeader .damaged).damageCount + 1 }) hst ho hm hn
    · have hjudges : (s.setHeader .damaged).membership.judges = true := hj
      simp only [hdr, hjudges, if_true] at hm hn ⊢
      exact State.missHeader_places (s := s.setHeader .damaged) hst ho hm hn

/-- A stream that a report has placed, or a label clash has closed, follows the map (R34, R111). -/
theorem PlacedOrClashed.follows {k : Station} {old new new' : Vector Slot 24} {st x : Stream}
    (ho : st.isOpen = true) (h : PlacedOrClashed (st.report k old new) x)
    (hentries : ∀ i : Fin 24, new'[i].entry = new[i].entry) :
    (x.isOpen = true → FollowsMap k old new' st x)
      ∧ (x.isOpen = false → x.closeReason = .labelClash ∧ x.event = true) := by
  rcases h with hplaced | ⟨hclosed, hreason, hevent⟩
  · refine ⟨fun _ => followsMap_congr rfl hplaced hentries (Stream.report_followsMap k old new st ho),
      fun hx => ?_⟩
    rw [Stream.isOpen_of_placing hplaced, Stream.report_isOpen ho] at hx
    cases hx
  · exact ⟨fun hx => (by rw [hclosed] at hx; cases hx), fun _ => ⟨hreason, hevent⟩⟩

/-! ### Cells -/

/-- A cell leaves an open stream open, where the map's report puts it (R34). -/
theorem State.cellDone_follows {s : State} {i : Nat} {rx : CellRx} {n : Fin 16} {st : Stream}
    (hst : s.streams[n] = some st) (ho : st.isOpen = true) :
    ∃ x, (s.cellDone i rx).pump.streams[n] = some x ∧ x.isOpen = true
      ∧ FollowsMap s.number s.slots (s.cellDone i rx).pump.slots st x := by
  obtain ⟨part, hpart⟩ := State.cellDone_stream s i rx n st hst
  have hheard := (Stands.hearCell i rx s.slots s.stamp st).placing
  have hopen : (st.hearCell i rx s.slots s.stamp).isOpen = true :=
    (Stream.isOpen_of_placing hheard).trans ho
  have hreport := Stream.report_isOpen (k := s.number) (old := s.slots) (new := (s.cellMap i rx).slots) hopen
  rw [Stream.finishClosing_of_isOpen hreport] at hpart
  have hissue := (Stands.issue ((st.hearCell i rx s.slots s.stamp).report s.number s.slots
    (s.cellMap i rx).slots)).placing
  refine ⟨_, by rw [State.pump_get, hpart]; rfl, (Stream.isOpen_of_placing hissue).trans hreport, ?_⟩
  refine followsMap_congr hheard.symm hissue (fun j => ?_) (Stream.report_followsMap _ _ _ _ hopen)
  rw [State.pump_slots]
  exact State.cellDone_entry s i rx j

/-! ### Census completion -/

@[simp] theorem State.raiseIf_censusRun (s : State) (b : Bool) (e : StationEvent) :
    (s.raiseIf b e).censusRun = s.censusRun := by cases b <;> rfl

@[simp] theorem State.reconcile_censusRun (s : State) (c : Census) :
    (s.reconcile c).censusRun = s.censusRun := by
  have hadopt : ∀ u : State, (u.adoptCycle c).censusRun = u.censusRun := fun u => by
    unfold State.adoptCycle
    split <;> simp
  simp [State.reconcile, State.reconcileTables, hadopt]

/-- A completion that takes the station from the trunk leaves no map (R72, R76). -/
theorem State.losesAt_maps {s : State} {c : Census} (hl : s.losesAt c.own = true) :
    (s.completeCensus c).membership.maps = false := by
  simp only [State.losesAt, Bool.and_eq_true, beq_iff_eq, decide_eq_true_eq] at hl
  obtain ⟨⟨hd, hown⟩, hrun⟩ := hl
  have hmember : (s.reconcile c).endMember c.own
      = { s.reconcile c with censusRun := (s.reconcile c).censusRun + 1 }.lose := by
    unfold State.endMember
    rw [hown]
    exact if_pos (by rw [State.reconcile_censusRun]; exact hrun)
  have htransition : ((s.reconcile c).censusTransition c).membership.maps = false := by
    unfold State.censusTransition
    rw [State.reconcile_membership]
    cases hm : s.membership with
    | member | leaving =>
      dsimp only
      rw [hmember]
      exact State.lose_maps _
    | _ => rw [hm] at hd; cases hd
  rw [State.completeCensus, if_pos (Membership.maps_of_drives hd), State.checkLeft]
  split
  · rfl
  · rw [State.finishClosing_membership, State.chooseBid_membership]
    exact htransition

/-- Reconciliation places an open stream, where it does not take the station from the trunk (R34, R122). -/
theorem State.reconcile_places {s : State} {c : Census} {n : Fin 16} {st : Stream}
    (hl : s.losesAt c.own = false) (hst : s.streams[n] = some st) : Places s (s.reconcile c) n st := by
  have hx : ((s.reconcileTables c).adoptCycle c).streams[n] = some st := by
    rw [State.adoptCycle_streams, ← hst]
    simp [State.reconcileTables]
  have hnumber : ((s.reconcileTables c).adoptCycle c).number = s.number := by simp [State.reconcileTables]
  refine ⟨((s.reconcileTables c).adoptCycle c).slots, fun i => ?_, ?_⟩
  · have h := State.refreshIntent_entry
      (((s.reconcileTables c).adoptCycle c).mapReport (fun _ => s.losesAt c.own) s.slots) i
    rw [State.mapReport_slots] at h
    rw [State.reconcile, State.mapStreams_slots]
    exact h
  · have hreport := StreamAt.mapReport ((s.reconcileTables c).adoptCycle c) (fun _ => s.losesAt c.own)
      s.slots hx hnumber
    refine StreamAt.mapStreams (hreport.congr rfl) fun y hy => .inl ?_
    rw [(Stands.noteStallRun y).placing, hy, hl]
    rfl

/-- A completion after which the map still acts places an open stream (R34, R111). -/
theorem State.completeCensus_places {s : State} {c : Census} {n : Fin 16} {st : Stream}
    (ht : (s.completeCensus c).membership.maps = true) (hm : s.membership.maps = true)
    (hst : s.streams[n] = some st) (ho : st.isOpen = true) :
    Places s (s.completeCensus c).pump n st := by
  have hloses : s.losesAt c.own = false := by
    rw [← Bool.not_eq_true]
    intro hl
    rw [State.losesAt_maps hl] at ht
    cases ht
  obtain ⟨new, hentries, hplaced⟩ := State.reconcile_places hloses hst
  obtain ⟨q, hq, hcomplete⟩ := State.completeCensus_of_maps hm ht
  obtain ⟨hreconciled, -⟩ := State.completeCensus_reconciled hm ht
  refine ⟨new, fun i => (hreconciled.entries i).trans (hentries i), ?_⟩
  rw [hcomplete]
  have hopen := Stream.report_isOpen (k := s.number) (old := s.slots) (new := new) ho
  exact (StreamAt.finishClosing hopen (StreamAt.congr hplaced hq.streams).chooseBid).pump

/-- Settles O28, arrival by arrival. -/
theorem streamsFollowTheMap : Obligations.StreamsFollowTheMap := by
  refine ⟨fun header s f hj hd hf hh hexpected => ⟨_, exec_header header s, fun hm n st hst ho hn hcue => ?_⟩,
    fun bits s f hm hf hc hh ha => ⟨_, rfl, fun ht n st hst ho => ?_⟩,
    fun bits s f hm hf hc hh ha => ⟨_, rfl, fun ht n st hst ho => ?_⟩,
    fun k slots st => ⟨Stream.standing_places, Stream.listenRule_places, fun h => ?_, fun h => ?_⟩⟩
  · have hoffline : (s.takeHeader header).membership ≠ .offline := by
      rw [State.pump_membership] at hm
      rw [hm]
      intro hno
      rw [hno] at hj
      cases hj
    have hn' : ¬ Commanded s (s.takeHeader header) n := fun ⟨hc, hdone⟩ =>
      hn ⟨hc, (State.pump_lastResult _).trans hdone⟩
    obtain ⟨new, hentries, hplaced⟩ :=
      State.takeHeader_places hj hd hf hh hexpected hst ho hoffline hn' hcue
    obtain ⟨x, hx, hp⟩ := hplaced.pump
    exact ⟨x, hx, hp.follows ho fun i => by rw [State.pump_slots]; exact hentries i⟩
  · have hr := Membership.receives_of_maps hm
    rw [State.cellArrives_eq hr hf hc hh ha, State.takeCell_of_maps hm, State.pump_membership] at ht
    have hstays := State.checkLeft_of_membership (s := s.countCell.cellDone f.arrived
      (classifyCell (f.validAt f.arrived) bits)) (by rw [ht]; intro hno; rw [hno] at hm; cases hm)
    rw [State.cellArrives_eq hr hf hc hh ha, State.takeCell_of_maps hm, hstays]
    exact State.cellDone_follows (s := s.countCell) hst ho
  · have hr := Membership.receives_of_maps hm
    have hlt : f.arrived < 32 := by omega
    rw [State.censusArrives_eq hr hf hc hh hlt, State.takeCensus_of_last s ha] at ht ⊢
    rw [State.pump_membership] at ht
    obtain ⟨new, hentries, x, hx, hp⟩ := State.completeCensus_places ht hm hst ho
    exact ⟨x, hx, hp.follows ho hentries⟩
  · rcases h with h | h <;> simp [Stream.standing, h]
  · rcases h with h | h <;> simp [Stream.listenRule, h]

end Sys2Proof.Machine
end

section
/-! PROOFS. How a header settles and releases entries, and when its bid is valid (R37 to R41, R44). -/

namespace Sys2Proof.Machine

open Sys2Proof

/-- Who has standing to bid and to release (R41, R44). -/
theorem State.hasStanding_iff (s : State) (k : Station) : s.hasStanding k = true
    ↔ (s.peer k).state = .present ∨ (s.peer k).state = .missing
      ∨ (s.peer k).state = .unheard ∧ s.membership = .announcing := by
  unfold State.hasStanding
  cases (s.peer k).state <;> simp

/-- Which targets a bid may have (R41). -/
theorem Bid.targetOk_iff (b : Bid) (e : Entry) : b.targetOk e = true
    ↔ e = .free ∨ ∃ h d, e = .held h d ∧ h.station ≠ b.station ∧ b.preempt = true
        ∧ h.priority.toNat < b.priority.toNat := by
  cases e <;> simp [Bid.targetOk, and_assoc]

/-- No other station uses a label (R25). -/
theorem usedByOther_eq_false_iff (slots : Vector Slot 24) (l : Label) (k : Station) :
    usedByOther slots l k = false ↔ ∀ j ∈ labelUsers slots l, j = k := by
  simp [usedByOther]

/-- Settles O21. -/
theorem bidIsValidByFourConditions : Obligations.BidIsValidByFourConditions := by
  intro s b e _
  simp only [State.bidValid, Bool.and_eq_true, Bool.not_eq_true', decide_eq_true_eq,
    State.hasStanding_iff, Bid.targetOk_iff, usedByOther_eq_false_iff, and_assoc]

/-- A release makes an entry RELEASE_PENDING where its holder has standing (R44). -/
theorem State.release_held (s : State) (h : Claimant) (d : Nat) : s.release (.held h d)
    = if (s.peer h.station).state = .present ∨ (s.peer h.station).state = .missing
        ∨ (s.peer h.station).state = .unheard ∧ s.membership = .announcing
      then .releasePending h else .held h d := by
  simp only [State.release, State.hasStanding_iff]

/-- Settles O20: the entries settle by R38 and R39, and are released by R44. -/
theorem vetoDecidesPendingEntries : Obligations.VetoDecidesPendingEntries := by
  intro veto bits s i
  refine ⟨by simp [State.settleAll], ?_, by simp [State.applyReleases], ?_⟩
  · rw [State.settleAll_entry]
    rcases s.slots[i].entry with _ | _ | _ | ⟨c, _ | _⟩ | _ | _ <;> cases veto <;> rfl
  · rw [State.applyReleases_entry]
    cases s.slots[i].entry with
    | held h d =>
      rw [State.release_held]
      cases bits.getLsbD i.val <;> simp
    | _ => simp [State.release]

end Sys2Proof.Machine
end

section
/-! PROOFS. What a closure does to a stream, to the open queue and to the release intent, and with it what
CLOSE and LEAVE do (R46, R49, R101, R105, R131 to R133, R136, R137, R189). -/

namespace Sys2Proof.Machine

open Sys2Proof

/-! ### The closure of one stream (R131 to R133, R136) -/

theorem Stream.close_of_openSend {st : Stream} (hs : st.isSend = true) (ho : st.state.openSend = true)
    (reason : CloseReason) (part : Bool) : st.close reason part = st.closeSend reason part := by
  simp [Stream.close, hs, ho]

theorem Stream.close_of_openListen {st : Stream} (hs : st.isSend = false)
    (ho : st.state.openListen = true) (reason : CloseReason) (part : Bool) :
    st.close reason part = st.closeListen reason := by
  simp [Stream.close, hs, ho]

/-- Of the streams that are not open a cause reaches the CLOSING ones alone (R133). -/
theorem Stream.close_of_not_open {st : Stream} (h : st.isOpen = false) (reason : CloseReason)
    (part : Bool) : st.close reason part
      = if st.isSend = true ∧ st.state = .closing then st.closeAgain reason else st := by
  unfold Stream.isOpen at h
  cases hs : st.isSend with
  | true => simp only [hs, if_true] at h; simp [Stream.close, hs, h]
  | false => simp only [hs, Bool.false_eq_true, if_false] at h; simp [Stream.close, hs, h]

/-- A cause that reaches a CLOSING send stream (R133). -/
theorem Stream.close_of_closing {st : Stream} (hs : st.isSend = true) (hc : st.state = .closing)
    (reason : CloseReason) (part : Bool) : st.close reason part = st.closeAgain reason := by
  have ho : st.isOpen = false := by simp [Stream.isOpen, hs, hc, StreamState.openSend]
  rw [Stream.close_of_not_open ho, if_pos ⟨hs, hc⟩]

/-- An open stream is an open send stream or an open listen stream (R122, R134). -/
theorem Stream.isOpen_cases {st : Stream} (h : st.isOpen = true) :
    st.isSend = true ∧ st.state.openSend = true ∨ st.isSend = false ∧ st.state.openListen = true := by
  unfold Stream.isOpen at h
  split at h
  · rename_i hs
    exact .inl ⟨hs, h⟩
  · rename_i hs
    exact .inr ⟨Bool.eq_false_iff.2 hs, h⟩

theorem Stream.isOpen_of_openSend {st : Stream} (hs : st.isSend = true) (ho : st.state.openSend = true) :
    st.isOpen = true := by rw [Stream.isOpen, if_pos hs, ho]

theorem Stream.closeAgain_defn (reason : CloseReason) (st : Stream) :
    (st.closeAgain reason).defn = st.defn := by
  unfold Stream.closeAgain
  cases reason <;> dsimp only
  case busFault => split <;> rfl

/-- A cause that reaches a CLOSING stream leaves it CLOSING or CLOSED (R133). -/
theorem Stream.closeAgain_state {st : Stream} (h : st.state = .closing) (reason : CloseReason) :
    (st.closeAgain reason).state = .closing ∨ (st.closeAgain reason).state = .closed := by
  cases reason with
  | busFault =>
    unfold Stream.closeAgain
    dsimp only
    split <;> exact .inl h
  | lost => exact .inr rfl
  | leave | none | host | labelClash => exact .inl h

theorem Stream.close_defn (reason : CloseReason) (part : Bool) (st : Stream) :
    (st.close reason part).defn = st.defn := by
  cases ho : st.isOpen with
  | true =>
    rcases Stream.isOpen_cases ho with ⟨hs, ho⟩ | ⟨hs, ho⟩
    · rw [Stream.close_of_openSend hs ho]
      rfl
    · rw [Stream.close_of_openListen hs ho]
      rfl
  | false =>
    rw [Stream.close_of_not_open ho]
    split
    · exact Stream.closeAgain_defn reason st
    · rfl

/-- A send stream with no part in the map is told of its closure, but at entry to LOST (R132, R137). -/
theorem CloseReason.passage_eq {reason : CloseReason} (h : reason ≠ .lost) (part : Bool) :
    reason.passage part = !part := by simp [CloseReason.passage, h]

/-- What a closure makes of an open stream: why it is closed, where it stands, and whether it is told
(R131 to R133, R136). -/
theorem Stream.close_outcome {st : Stream} (ho : st.isOpen = true) (reason : CloseReason) (part : Bool) :
    (st.close reason part).closeReason = reason
    ∧ (st.close reason part).state = (if st.isSend = true ∧ part = true then .closing else .closed)
    ∧ (st.close reason part).event
        = (st.event || (reason.signals || (st.isSend && reason.passage part))) := by
  rcases Stream.isOpen_cases ho with ⟨hs, hopen⟩ | ⟨hs, hopen⟩
  · rw [Stream.close_of_openSend hs hopen]
    exact ⟨rfl, by simp [Stream.closeSend, hs], by simp [Stream.closeSend, hs, Bool.or_assoc]⟩
  · rw [Stream.close_of_openListen hs hopen]
    exact ⟨rfl, by simp [Stream.closeListen, hs], by simp [Stream.closeListen, hs]⟩

/-- What a closure of an open stream clears, and which marks it keeps for the hand-back (R131, R136, R151,
R168). -/
theorem Stream.close_clears {st : Stream} (ho : st.isOpen = true) (reason : CloseReason) (part : Bool) :
    (st.close reason part).awaiting = false ∧ (st.close reason part).latched = false
    ∧ (st.close reason part).stalled = false ∧ (st.close reason part).starved = false
    ∧ (st.close reason part).staging = (if st.isSend then [] else st.staging)
    ∧ (st.isSend = false →
        (st.close reason part).current = none ∧ (st.close reason part).next = none)
    ∧ (st.close reason part).cueMissMark = st.cueMissMark
    ∧ (st.close reason part).overrunMark = st.overrunMark := by
  rcases Stream.isOpen_cases ho with ⟨hs, hopen⟩ | ⟨hs, hopen⟩
  · rw [Stream.close_of_openSend hs hopen, if_pos hs]
    exact ⟨rfl, rfl, rfl, rfl, rfl, by simp [hs], rfl, rfl⟩
  · rw [Stream.close_of_openListen hs hopen, hs]
    exact ⟨rfl, rfl, rfl, rfl, rfl, fun _ => ⟨rfl, rfl⟩, rfl, rfl⟩

/-- No cause leaves a stream open (R131, R136). -/
theorem Stream.close_isOpen (reason : CloseReason) (part : Bool) (st : Stream) :
    (st.close reason part).isOpen = false := by
  have hends : ∀ x : Stream, x.state = .closing ∨ x.state = .closed → x.isOpen = false := fun x hx => by
    rcases hx with h | h <;> simp [Stream.isOpen, h, StreamState.openSend, StreamState.openListen]
  cases ho : st.isOpen with
  | true =>
    refine hends _ ?_
    rw [(Stream.close_outcome ho reason part).2.1]
    split
    · exact .inl rfl
    · exact .inr rfl
  | false =>
    rw [Stream.close_of_not_open ho]
    split
    · rename_i hc
      exact hends _ (Stream.closeAgain_state hc.2 reason)
    · exact ho

/-- A stream that is not open is not in the open queue (R105). -/
theorem Stream.queued_of_not_open {st : Stream} (h : st.isOpen = false) : st.queued = false := by
  cases hs : st.isSend with
  | true =>
    rw [Stream.isOpen, if_pos hs] at h
    simp [Stream.queued, h]
  | false => simp [Stream.queued, hs]

/-! ### The state after a closure (R46, R105, R131) -/

/-- The closed stream leaves the open queue (R105). -/
theorem State.closeOne_queue (s : State) (reason : CloseReason) (n : Fin 16) :
    n ∉ (s.closeOne reason n).openQueue := by
  have hn : ((s.closeOne reason n).streams[n]).any Stream.queued = false := by
    rw [State.closeOne_stream, if_pos rfl]
    cases s.streams[n] with
    | none => rfl
    | some st => exact Stream.queued_of_not_open (Stream.close_isOpen _ _ _)
  have hstreams : (s.closeOne reason n).streams
      = (s.onStream n fun st => st.close reason (s.streamHasPart n st)).streams := by
    simp [State.closeOne]
  rw [hstreams] at hn
  rw [State.closeOne, State.refreshIntent_openQueue]
  intro hmem
  have hkept := (List.mem_filter.1 hmem).2
  rw [hn] at hkept
  cases hkept

/-- The slots of the streams closed are asked into the release intent (R46, R131). -/
theorem State.closeOne_intent (s : State) (reason : CloseReason) (n : Fin 16) (i : Fin 24) :
    (s.closeOne reason n).slots[i].intent = true
      ↔ Sys2Proof.Entry.StaysIntended s.number s.slots[i].entry
        ∧ (s.slots[i].intent = true
          ∨ Sys2Proof.Entry.AskedFor s.number (s.closeOne reason n).streams s.slots[i].entry) := by
  have h := State.refreshIntent_intent
    (s.onStream n fun st => st.close reason (s.streamHasPart n st)).cleanQueue i
  rw [State.cleanQueue_slots, State.cleanQueue_number, State.onStream_slots, State.onStream_number,
    ← State.refreshIntent_streams] at h
  exact h.trans and_comm

/-! ### CLOSE (R131, R189) -/

/-- A CLOSE for a stream that is not CLOSED is answered DONE and closes it (R189). -/
theorem State.takeCommand_close {s : State} {n : BitVec 4} {st : Stream} (hm : s.membership = .member)
    (hc : s.command = some ⟨.closeStream, n⟩) (hst : s.streams[n.toFin] = some st)
    (hne : st.state ≠ .closed) : s.takeCommand
      = { s.closeOne .host n.toFin with command := none, lastResult := .done }.raise .commandDone := by
  have hdone : s.judgeCommand ⟨.closeStream, n⟩ = .done :=
    (State.judgeClose_done_iff s n.toFin).2 ⟨hm, st, hst, hne⟩
  rw [State.takeCommand, hc]
  dsimp only
  rw [State.takeThis, hdone]
  rfl

/-- Settles O10. -/
theorem closeEndsTheStream : Obligations.CloseEndsTheStream := by
  intro n s st hm hc hst hne
  have hstream : (s.closeOne .host n.toFin).streams[n.toFin]
      = some (st.close .host (s.streamHasPart n.toFin st)) := by
    rw [State.closeOne_stream, if_pos rfl, hst]
    rfl
  rw [State.takeCommand_close hm hc hst hne]
  refine ⟨rfl, rfl, fun i => ⟨(SameTrunk.closeOne s .host n.toFin).entries i,
    State.closeOne_intent s .host n.toFin i⟩, fun m hmn => ?_, fun ho => ?_, fun ho => ?_⟩
  · exact (State.closeOne_stream s .host n.toFin m).trans (if_neg hmn)
  · have hkept : st.close .host (s.streamHasPart n.toFin st) = st := by
      rw [Stream.close_of_not_open ho]
      split <;> rfl
    exact hstream.trans (congrArg some hkept)
  · obtain ⟨hreason, hstate, hevent⟩ := Stream.close_outcome ho .host (s.streamHasPart n.toFin st)
    obtain ⟨hawaiting, hlatched, hstalled, hstarved, hstaging, hdescriptors, hcueMiss, hoverrun⟩ :=
      Stream.close_clears ho .host (s.streamHasPart n.toFin st)
    refine ⟨_, hstream, hreason, hawaiting, hlatched, hstalled, hstarved, hevent.trans ?_, hstate, hstaging,
      hdescriptors, Stream.close_ringClosed .host _ st ho, hcueMiss, hoverrun,
      State.closeOne_queue s .host n.toFin⟩
    simp [CloseReason.signals, CloseReason.passage_eq]

/-! ### LEAVE (R101) -/

theorem State.closeEvery_stream {s : State} {n : Fin 16} {st : Stream} (h : s.streams[n] = some st)
    (reason : CloseReason) :
    (s.closeEvery reason).streams[n] = some (st.close reason (s.streamHasPart n st)) := by
  rw [State.closeEvery, State.refreshIntent_streams, State.cleanQueue_streams, Fin.getElem_fin,
    State.mapStreams_get, show s.streams[n.val] = some st from h]
  rfl

/-- No open send stream is left when every stream has been closed (R101). -/
theorem State.closeEvery_openSendCarries (s : State) (reason : CloseReason) (l : Label) :
    openSendCarries (s.closeEvery reason).streams l = false := by
  rw [← Bool.not_eq_true, openSendCarries_iff]
  rintro ⟨n, st, hst, hs, ho, -⟩
  cases hx : s.streams[n] with
  | none =>
    rw [State.closeEvery, State.refreshIntent_streams, State.cleanQueue_streams, Fin.getElem_fin,
      State.mapStreams_get, show s.streams[n.val] = none from hx] at hst
    cases hst
  | some x =>
    rw [State.closeEvery_stream hx] at hst
    cases hst
    have hopen := Stream.isOpen_of_openSend hs ho
    rw [Stream.close_isOpen] at hopen
    cases hopen

/-- Where no label is carried every slot HELD by the station is asked into the release intent (R46). -/
theorem Entry.asked_of_no_carrier {streams : Vector (Option Stream) 16}
    (h : ∀ l, openSendCarries streams l = false) (k : Station) (e : Entry) :
    e.asked k streams = e.heldBy k := by
  cases e with
  | held x d => simp [Entry.asked, Entry.heldBy, h]
  | _ => rfl

theorem Entry.keepsIntent_of_heldBy {k : Station} {e : Entry} (h : e.heldBy k = true) :
    e.keepsIntent k = true := by
  cases e with
  | held x d => exact h
  | _ => cases h

/-- With every stream closed each slot HELD by this station is in the release intent (R46, R101). -/
theorem State.closeEvery_intent (s : State) (reason : CloseReason) (i : Fin 24) :
    (s.closeEvery reason).slots[i].intent = true
      ↔ s.slots[i].entry.heldBy s.number = true
        ∨ s.slots[i].intent = true ∧ Sys2Proof.Entry.StaysIntended s.number s.slots[i].entry := by
  have h := State.refreshIntent_intent
    (s.mapStreams fun n st => st.close reason (s.streamHasPart n st)).cleanQueue i
  have hnone := s.closeEvery_openSendCarries reason
  rw [State.closeEvery, State.refreshIntent_streams] at hnone
  rw [← Entry.asked_iff, ← Entry.keepsIntent_iff, Entry.asked_of_no_carrier hnone, State.cleanQueue_slots,
    State.cleanQueue_number, State.mapStreams_slots, State.mapStreams_number] at h
  have hkeeps := Entry.keepsIntent_of_heldBy (k := s.number) (e := s.slots[i].entry)
  rw [← Entry.keepsIntent_iff]
  exact h.trans ⟨fun ⟨hin, hk⟩ => hin.symm.imp_right fun hi => ⟨hi, hk⟩,
    fun hin => ⟨(hin.imp_right And.left).symm, hin.elim hkeeps And.right⟩⟩

/-- LEAVE in MEMBER with a part in the map closes every stream, and the engines then act (R101). -/
theorem exec_leave_of_part {s : State} (hr : s.rstnLow = false) (hm : s.membership = .member)
    (hp : s.hasPart = true) : exec .leave s
      = .next ({ s with membership := .leaving, chosenBid := none }.closeEvery .leave).pump := by
  have hstays : s.leaveMember = { s with membership := .leaving, chosenBid := none }.closeEvery .leave := by
    refine SameTrunk.checkLeft_of_part _ fun _ => ?_
    rw [(SameTrunk.closeEvery _ _).hasPart]
    exact hp
  have hcontrol : s.writeControl false true false = s.leaveMember := by
    simp [State.writeControl, State.requestLeave, hm]
  have hmembership : s.leaveMember.membership = .leaving := by
    rw [hstays, State.closeEvery_membership]
  have hwrite : s.hostWriteAt 0x004 4 2 = s.writeStationControl 2 := by
    rw [State.hostWriteAt, if_neg (by simp [hr])]
    exact if_pos rfl
  have hpump : s.writeStationControl 2 = s.leaveMember.pump := by
    rw [State.writeStationControl]
    show (if s.membership = .member ∧ (s.writeControl false true false).membership = .leaving
      then (s.writeControl false true false).pump else s.writeControl false true false) = _
    rw [hcontrol, if_pos ⟨hm, hmembership⟩]
  exact congrArg Host.Outcome.next (hwrite.trans (hpump.trans (congrArg State.pump hstays)))

/-- The engines act beside the closure of a ring: an outstanding operation stays (R143, R167). -/
theorem ringClosed_issue {st st' : Stream} (h : RingClosed st st') : RingClosed st st'.issue := by
  obtain ⟨hsend, hlisten, hop⟩ := h
  refine ⟨fun hs => ?_, fun hs => ?_, fun op ho => ?_⟩
  · rw [Stream.issue_eq]
    exact hsend hs
  · rw [Stream.issue_eq]
    exact hlisten hs
  · have hkept := hop op ho
    rw [Stream.issue, if_pos (by simp [hkept])]
    exact hkept

/-- Settles O6. -/
theorem leaveClosesEveryStream : Obligations.LeaveClosesEveryStream := by
  intro s hr hm hp
  obtain ⟨u, hu⟩ : ∃ u : State, u = { s with membership := .leaving, chosenBid := none } := ⟨_, rfl⟩
  have htrunk := (SameTrunk.closeEvery u .leave).trans (.pump _)
  have hexec := exec_leave_of_part hr hm hp
  rw [← hu] at hexec
  refine ⟨_, hexec, htrunk.membership.trans (by rw [hu]), ?_, fun i => ⟨?_, ?_⟩, fun n st hst => ?_,
    ?_, htrunk.peers.trans (by rw [hu]), htrunk.cycle.trans (by rw [hu]), htrunk.index.trans (by rw [hu])⟩
  · simp [State.closeEvery, hu]
  · exact (htrunk.entries i).trans (by rw [hu])
  · rw [State.pump_slots, State.closeEvery_intent, hu]
  · have hpart : u.streamHasPart n st = { s with chosenBid := none }.streamHasPart n st := by rw [hu]; rfl
    have hclosed : (u.closeEvery .leave).pump.streams[n]
        = some (st.close .leave (u.streamHasPart n st)).issue := by
      rw [State.pump_get, State.closeEvery_stream (by rw [hu]; exact hst)]
      rfl
    rw [hpart] at hclosed
    generalize { s with chosenBid := none }.streamHasPart n st = part at hclosed ⊢
    refine ⟨_, hclosed, ?_⟩
    have hstands := Stands.issue (st.close .leave part)
    obtain ⟨hdefn, hstate, -, -⟩ := Stream.placing_eq_iff.1 hstands.placing
    have hevent : (st.close .leave part).issue.event = (st.close .leave part).event := by
      rw [Stream.issue_eq]
    rw [hstate, hstands.closeReason, hevent, Stream.isOpen_of_placing hstands.placing]
    refine ⟨Stream.close_isOpen _ _ st, hdefn.trans (Stream.close_defn _ _ st), fun ho => ?_,
      fun ho hs => ?_, fun ho hs => ?_, fun ho => ringClosed_issue (Stream.close_ringClosed _ _ st ho),
      fun hs hc => ?_⟩
    · rcases ho with ho | ⟨hs, hc⟩
      · exact (Stream.close_outcome ho _ _).1
      · rw [Stream.close_of_closing hs hc]
        rfl
    · obtain ⟨-, hstate, hevent⟩ := Stream.close_outcome ho .leave part
      rw [hstate, hevent]
      simp [CloseReason.signals, CloseReason.passage_eq, hs]
    · obtain ⟨-, hstate, hevent⟩ := Stream.close_outcome ho .leave part
      rw [hstate, hevent]
      simp [CloseReason.signals, hs]
    · rw [Stream.close_of_closing hs hc]
      exact ⟨hc, rfl⟩
  · simp [State.closeEvery, hu]

end Sys2Proof.Machine
end

section
/-! PROOFS. The candidates of the arbiter, and what it makes of each (R25, R55, R105 to R115). -/

namespace Sys2Proof.Machine

open Sys2Proof

/-! ### Conditions over the slots -/

/-- Some slot meets a condition. -/
theorem slots_any_iff (slots : Vector Slot 24) (p : Slot → Bool) :
    slots.toList.any p = true ↔ ∃ i : Fin 24, p slots[i] = true := by
  simp only [List.any_eq_true, Vector.mem_toList_iff, Vector.mem_iff_getElem]
  constructor
  · rintro ⟨_, ⟨i, hi, rfl⟩, hp⟩
    exact ⟨⟨i, hi⟩, hp⟩
  · rintro ⟨i, hp⟩
    exact ⟨_, ⟨i.val, i.isLt, rfl⟩, hp⟩

/-- A preemption of this station under a stream's label is pending (R55). -/
theorem State.excluded_iff (s : State) (st : Stream) : s.excluded st = true ↔ Excluded s st := by
  rw [State.excluded, preemptedUnder, slots_any_iff, Excluded]
  refine exists_congr fun i => ?_
  rcases s.slots[i].entry with _ | _ | _ | ⟨c, _ | h⟩ | _ | _ <;> simp [Claimant.is]

/-- Who uses a label in the map uses it in one of its entries (R25). -/
theorem mem_labelUsers_iff (slots : Vector Slot 24) (l : Label) (k : Station) :
    k ∈ labelUsers slots l ↔ ∃ i : Fin 24, k ∈ slots[i].entry.users l := by
  simp only [labelUsers, List.mem_flatMap, Vector.mem_toList_iff, Vector.mem_iff_getElem]
  constructor
  · rintro ⟨_, ⟨i, hi, rfl⟩, hk⟩
    exact ⟨⟨i, hi⟩, hk⟩
  · rintro ⟨i, hk⟩
    exact ⟨_, ⟨i.val, i.isLt, rfl⟩, hk⟩

/-- A label clashes where another station uses it other than through a pending release (R111). -/
theorem clashes_iff (slots : Vector Slot 24) (l : Label) (k : Station) : clashes slots l k = true
    ↔ ∃ i : Fin 24, (∀ h, slots[i].entry ≠ .releasePending h)
        ∧ ∃ j ∈ slots[i].entry.users l, j ≠ k := by
  rw [clashes, slots_any_iff]
  refine exists_congr fun i => ?_
  cases slots[i].entry <;> simp

/-- A label that clashes is used by another station (R25, R111). -/
theorem clashes_eq_false {slots : Vector Slot 24} {l : Label} {k : Station}
    (h : ∀ j ∈ labelUsers slots l, j = k) : clashes slots l k = false := by
  rw [← Bool.not_eq_true, clashes_iff]
  rintro ⟨i, -, j, hj, hne⟩
  exact hne (h j ((mem_labelUsers_iff slots l j).2 ⟨i, hj⟩))

/-! ### The repair candidate and the head of the queue -/

theorem State.repairable_iff (s : State) (n : Fin 16) :
    s.repairable n = true ↔ ∃ st, Repairable s n st := by
  simp only [State.repairable, Option.any_eq_true, Bool.and_eq_true, Bool.not_eq_true',
    ← Bool.not_eq_true (s.excluded _), State.excluded_iff, Stream.inRepair, beq_iff_eq, Repairable,
    and_assoc]

theorem State.priorityOf_eq {s : State} {n : Fin 16} {st : Stream} (h : s.streams[n] = some st) :
    s.priorityOf n = st.defn.priority.toNat := by simp only [State.priorityOf, h, Option.elim_some]

/-- The repair candidate that the arbiter finds is the repair candidate (R106). -/
theorem State.repairCandidate_sound {s : State} {n : Fin 16} (h : s.repairCandidate = some n) :
    ∃ st, RepairCandidate s n st := by
  obtain ⟨st, hst⟩ := (s.repairable_iff n).1 ((mem_indicesWhere _ n).1 (bestBy_mem _ _ _ h))
  refine ⟨st, hst, fun m st₂ hm => ?_⟩
  have hmem : m ∈ indicesWhere s.repairable := (mem_indicesWhere _ m).2 ((s.repairable_iff m).2 ⟨st₂, hm⟩)
  have hle := bestBy_ge _ _ _ h m hmem
  have hfirst := bestBy_first _ _ _ (indicesWhere_ascending s.repairable) _ h m hmem
  rw [State.priorityOf_eq hm.1, State.priorityOf_eq hst.1] at hle hfirst
  rcases Nat.lt_or_eq_of_le hle with hlt | heq
  · exact .inl hlt
  · refine .inr ⟨BitVec.eq_of_toNat_eq heq, ?_⟩
    rcases hfirst heq with rfl | hlt
    · exact le_refl _
    · exact le_of_lt hlt

/-- There is one repair candidate at most (R106). -/
theorem repairCandidate_unique {s : State} {n m : Fin 16} {st st₂ : Stream}
    (hn : RepairCandidate s n st) (hm : RepairCandidate s m st₂) : n = m := by
  obtain ⟨hnr, hnBest⟩ := hn
  obtain ⟨hmr, hmBest⟩ := hm
  rcases hnBest m st₂ hmr with hlt | ⟨heq, hle⟩ <;> rcases hmBest n st hnr with hlt' | ⟨heq', hle'⟩
  · omega
  · rw [heq'] at hlt
    omega
  · rw [heq] at hlt'
    omega
  · exact le_antisymm hle hle'

/-- The arbiter finds the repair candidate exactly when there is one (R106). -/
theorem State.repairCandidate_iff (s : State) (n : Fin 16) :
    s.repairCandidate = some n ↔ ∃ st, RepairCandidate s n st := by
  refine ⟨State.repairCandidate_sound, fun ⟨st, hst⟩ => ?_⟩
  cases hr : s.repairCandidate with
  | none =>
    have hmem := (mem_indicesWhere s.repairable n).2 ((s.repairable_iff n).2 ⟨st, hst.1⟩)
    rw [(bestBy_eq_none _ _).1 hr] at hmem
    cases hmem
  | some m =>
    obtain ⟨st₂, hm⟩ := State.repairCandidate_sound hr
    rw [repairCandidate_unique hm hst]

/-- The arbiter finds the queue's candidate exactly when there is one (R105, R110). -/
theorem State.headCandidate_iff (s : State) (n : Fin 16) :
    s.headCandidate = some n ↔ ∃ st, HeadCandidate s n st := by
  unfold State.headCandidate HeadCandidate
  cases s.openQueue with
  | nil => simp
  | cons m ms =>
    have hany : ((s.streams[m]).any fun st => st.state != .suspended && !s.excluded st) = true
        ↔ ∃ st, s.streams[m] = some st ∧ st.state ≠ .suspended ∧ ¬ Excluded s st := by
      simp only [Option.any_eq_true, Bool.and_eq_true, Bool.not_eq_true',
        ← Bool.not_eq_true (s.excluded _), State.excluded_iff, bne_iff_ne, ne_eq]
    dsimp only
    rw [List.head?_cons]
    constructor
    · intro h
      split at h
      · rename_i ha
        cases h
        obtain ⟨st, hst⟩ := hany.1 ha
        exact ⟨st, rfl, hst⟩
      · cases h
    · rintro ⟨st, hmn, hst⟩
      cases hmn
      rw [if_pos (hany.2 ⟨st, hst⟩)]

theorem State.repairCandidate_eq_none {s : State} (h : ∀ r st, ¬ RepairCandidate s r st) :
    s.repairCandidate = none :=
  Option.eq_none_iff_forall_ne_some.2 fun r hr =>
    let ⟨st, hst⟩ := (s.repairCandidate_iff r).1 hr
    h r st hst

theorem State.headCandidate_eq_none {s : State} (h : ∀ r st, ¬ HeadCandidate s r st) :
    s.headCandidate = none :=
  Option.eq_none_iff_forall_ne_some.2 fun r hr =>
    let ⟨st, hst⟩ := (s.headCandidate_iff r).1 hr
    h r st hst

/-- A MEMBER within its win budget tries its candidates (R107, R109, R110). -/
theorem State.chooseBid_tries {s : State} (hm : s.membership = .member) (h0 : 0 ∉ s.wins)
    (h4 : s.wins.length < 4) :
    s.chooseBid = { s with chosenBid := none }.tryCandidates s.candidates := by
  have hbudget : budgetSpent s.wins = false := by
    simp [budgetSpent, h0, Config.winLimit, h4]
  unfold State.chooseBid
  exact if_pos ⟨hm, hbudget⟩

/-! ### One candidate -/

/-- A candidate whose label no other station uses gives the bid for its target (R111, R112, R115). -/
theorem State.tryCandidate_of_unused {s : State} {n : Fin 16} {st : Stream}
    (hst : s.streams[n] = some st) (h : ∀ k ∈ labelUsers s.slots st.defn.label, k = s.number) :
    s.tryCandidate n = { s with chosenBid := s.bidOf n st } := by
  unfold State.tryCandidate
  rw [hst]
  simp [clashes_eq_false h, (usedByOther_eq_false_iff _ _ _).2 h]

/-- A candidate whose label another station uses through pending releases alone is left (R111). -/
theorem State.tryCandidate_of_released {s : State} {n : Fin 16} {st : Stream}
    (hst : s.streams[n] = some st) (hclash : clashes s.slots st.defn.label s.number = false)
    (h : ∃ k ∈ labelUsers s.slots st.defn.label, k ≠ s.number) : s.tryCandidate n = s := by
  have hused : usedByOther s.slots st.defn.label s.number = true := by
    rw [← Bool.not_eq_false, usedByOther_eq_false_iff]
    obtain ⟨k, hk, hne⟩ := h
    exact fun hall => hne (hall k hk)
  unfold State.tryCandidate
  rw [hst]
  simp [hclash, hused]

theorem State.closeOne_chosenBid (s : State) (reason : CloseReason) (n : Fin 16) :
    (s.closeOne reason n).chosenBid = s.chosenBid := by simp [State.closeOne]

/-- A candidate whose label clashes is closed (R111). -/
theorem State.tryCandidate_of_clash {s : State} {n : Fin 16} {st : Stream}
    (hst : s.streams[n] = some st) (hclash : clashes s.slots st.defn.label s.number = true) :
    s.tryCandidate n = s.closeOne .labelClash n := by
  unfold State.tryCandidate
  rw [hst]
  exact if_pos hclash

/-- Settles O54. -/
theorem candidatesAreTriedInOrder : Obligations.CandidatesAreTriedInOrder := by
  refine ⟨fun s hm h0 h4 => ⟨s.candidates, s.chooseBid_tries hm h0 h4, ?_, ?_, ?_, ?_⟩,
    fun s n ns => ⟨rfl, fun h => ?_, fun h => ?_⟩, fun s n st hst => ⟨?_, ?_, ?_⟩⟩
  · intro r st h st₂ hr hh
    rw [State.candidates, (s.repairCandidate_iff r).2 ⟨st, hr⟩, (s.headCandidate_iff h).2 ⟨st₂, hh⟩]
    dsimp only
    rw [State.priorityOf_eq hr.1.1, State.priorityOf_eq hh.2.1]
  · intro r st hr hh
    rw [State.candidates, (s.repairCandidate_iff r).2 ⟨st, hr⟩, State.headCandidate_eq_none hh]
  · intro h st₂ hh hr
    rw [State.candidates, (s.headCandidate_iff h).2 ⟨st₂, hh⟩, State.repairCandidate_eq_none hr]
  · intro hr hh
    rw [State.candidates, State.headCandidate_eq_none hh, State.repairCandidate_eq_none hr]
  · exact if_pos (Option.isSome_iff_ne_none.2 h)
  · exact if_neg (by simp [h])
  · intro hclash
    rw [State.tryCandidate_of_clash hst ((clashes_iff _ _ _).2 hclash)]
    have hstream : (s.closeOne .labelClash n).streams[n]
        = some (st.close .labelClash (s.streamHasPart n st)) := by
      rw [State.closeOne_stream, if_pos rfl, hst]
      rfl
    refine ⟨State.closeOne_chosenBid s .labelClash n, State.closeOne_queue s .labelClash n,
      (SameTrunk.closeOne s .labelClash n).entries,
      fun m hmn => (State.closeOne_stream s .labelClash n m).trans (if_neg hmn),
      _, hstream, Stream.close_defn _ _ st, fun hs ho => ?_⟩
    obtain ⟨hreason, hstate, hevent⟩ := Stream.close_outcome (Stream.isOpen_of_openSend hs ho) .labelClash
      (s.streamHasPart n st)
    rw [hstate, hreason, hevent]
    simp [hs, CloseReason.signals]
  · intro hclash hused
    exact State.tryCandidate_of_released hst (Bool.eq_false_iff.2 fun h => hclash ((clashes_iff _ _ _).1 h))
      hused
  · intro hunused
    rw [State.tryCandidate_of_unused hst hunused]
    rfl

end Sys2Proof.Machine
end

section
/-! PROOFS. What a header, intact or damaged, does beside the map: the release intent, the pending command, the
pins, and the part of this station in the map (R46, R49, R101, R123, R131, R173, R187). -/

namespace Sys2Proof.Machine

open Sys2Proof

/-! ### The release intent, from the map's report on (R46, R49) -/

/-- The map's report changes no label that open send streams carry (R34). -/
theorem State.mapReport_carries (s : State) (closes : Fin 16 → Bool) (old : Vector Slot 24) :
    CarriesLess s.streams (s.mapReport closes old).streams
      ∧ CarriesLess (s.mapReport closes old).streams s.streams := by
  have hlabel : ∀ (n : Fin 16) (st : Stream),
      (if closes n then st else st.report s.number old s.slots).openLabel = st.openLabel := fun n st => by
    split
    · rfl
    · exact Stream.report_openLabel _ _ _ st
  rw [State.mapReport, State.cleanQueue_streams]
  exact ⟨CarriesLess.mapStreams s _ fun n st => .inr (hlabel n st), CarriesLess.mapStreams_symm s _ hlabel⟩

/-- The release intent when the map has reported and the intent has been brought up to date. -/
theorem State.reported_intent (s : State) (closes : Fin 16 → Bool) (old : Vector Slot 24) (i : Fin 24) :
    (s.mapReport closes old).refreshIntent.slots[i].intent = true
      ↔ Sys2Proof.Entry.StaysIntended s.number s.slots[i].entry
        ∧ (s.slots[i].intent = true
          ∨ Sys2Proof.Entry.AskedFor s.number s.streams s.slots[i].entry) := by
  obtain ⟨hless, hmore⟩ := s.mapReport_carries closes old
  rw [State.refreshIntent_intent, State.mapReport_slots, State.mapReport_number, and_comm]
  exact and_congr_right fun _ => or_congr_right ⟨AskedFor.mono hmore, AskedFor.mono hless⟩

/-- A release intent that has just been brought up to date follows from itself. -/
theorem IntentFollows.refreshIntent {k : Station} {s : State} (hk : s.number = k) :
    IntentFollows k (fun i => s.refreshIntent.slots[i].intent) s.streams s.refreshIntent := by
  refine ⟨(State.refreshIntent_number s).trans hk, fun i => ?_,
    by rw [State.refreshIntent_streams]; exact .refl _⟩
  have h := s.refreshIntent_intent i
  rw [State.refreshIntent_entry, State.refreshIntent_streams, ← hk]
  exact ⟨fun hi => ⟨(h.1 hi).2, .inl hi⟩, fun ⟨hstay, hin⟩ => hin.elim id fun ha => h.2 ⟨.inr ha, hstay⟩⟩

/-- An OPEN is answered DONE in MEMBER, for a stream that is CLOSED (R188). -/
theorem State.judgeOpen_done {s : State} {n : Fin 16} (h : s.judgeOpen n = .done) :
    ∃ st, s.streams[n] = some st ∧ st.state = .closed := by
  unfold State.judgeOpen at h
  split at h
  · cases h
  · split at h
    · cases h
    · rename_i st hst
      split at h
      · cases h
      · rename_i hc
        exact ⟨st, hst, not_not.1 hc⟩

/-- A CLOSED stream that is opened takes no label from those carried (R123). -/
theorem State.openOne_carries {s : State} {n : Fin 16} {st : Stream} (hst : s.streams[n] = some st)
    (hc : st.state = .closed) : CarriesLess (s.openOne n st).streams s.streams := by
  have hother : ∀ m, m ≠ n → (s.openOne n st).streams[m] = s.streams[m] :=
    fun m => State.onStream_get_other s n m _
  refine .of_streams fun m x hm => ?_
  by_cases hmn : m = n
  · rw [hmn, hst] at hm
    cases hm
    exact .inl (by simp [Stream.openLabel, hc, StreamState.openSend])
  · exact .inr ⟨x, by rw [hother m hmn, hm], rfl⟩

section
variable {k : Station} {carried : Vector (Option Stream) 16} {s : State}

/-- A command keeps the release intent up to date: a CLOSE brings it up to the streams it leaves, and an OPEN
makes no slot asked for that was not (R46, R123, R131). -/
theorem IntentFollows.performCommand (h : IntentFollows k (fun i => s.slots[i].intent) carried s)
    {c : Command} (hdone : s.judgeCommand c = .done) :
    IntentFollows k (fun i => s.slots[i].intent) (s.performCommand c).streams (s.performCommand c) := by
  have htrunk := SameTrunk.performCommand s c
  refine ⟨htrunk.number.trans h.number, fun i => ?_, .refl _⟩
  obtain ⟨code, stream⟩ := c
  cases code with
  | openStream =>
    obtain ⟨st, hst, hc⟩ := State.judgeOpen_done hdone
    have hperform : s.performCommand ⟨.openStream, stream⟩ = s.openOne stream.toFin st := by
      unfold State.performCommand
      dsimp only
      rw [hst]
    rw [hperform]
    refine ⟨fun hi => ⟨((h.intent i).1 hi).1, .inl hi⟩, fun ⟨hstay, hin⟩ => ?_⟩
    exact hin.elim id fun ha => (h.intent i).2 ⟨hstay, .inr (AskedFor.mono (State.openOne_carries hst hc) ha)⟩
  | closeStream =>
    rw [htrunk.entries i, ← h.number]
    exact State.closeOne_intent s .host stream.toFin i
  | setStanding => exact h.intent i

theorem IntentFollows.takeCommand (h : IntentFollows k (fun i => s.slots[i].intent) carried s) :
    IntentFollows k (fun i => s.slots[i].intent) s.takeCommand.streams s.takeCommand := by
  have hself : IntentFollows k (fun i => s.slots[i].intent) s.streams s := ⟨h.number, h.intent, .refl _⟩
  unfold State.takeCommand
  split
  · exact hself
  · unfold State.takeThis
    dsimp only
    split
    · rename_i hdone
      exact (h.performCommand hdone).congr rfl rfl rfl
    · exact hself.congr rfl rfl rfl

theorem IntentFollows.commandAndCell (h : IntentFollows k (fun i => s.slots[i].intent) carried s)
    (f : Frame) :
    IntentFollows k (fun i => s.slots[i].intent) (s.commandAndCell f).streams (s.commandAndCell f) := by
  unfold State.commandAndCell
  split
  · exact h.takeCommand
  · split
    · dsimp only
      split
      · exact h.takeCommand.congr rfl rfl rfl
      · exact (IntentFollows.takeCommand (s := s.driveCensus) (h.congr rfl rfl rfl)).congr rfl rfl rfl
    · exact h.takeCommand.congr rfl rfl rfl

end

/-! ### Cues and choices carry no other label (R122, R173) -/

theorem Stream.standing_openLabel (k : Station) (slots : Vector Slot 24) (st : Stream) :
    (st.standing k slots).openLabel = st.openLabel := by
  unfold Stream.standing
  split
  · rename_i h
    simp only [Bool.and_eq_true] at h
    have ho := h.2
    split
    · exact Stream.openLabel_congr rfl (by rw [ho]; rfl)
    · split
      · exact Stream.openLabel_congr rfl (by rw [ho]; split <;> rfl)
      · exact Stream.openLabel_congr rfl (by rw [ho]; split <;> rfl)
  · rfl

theorem Stream.releaseHead_openLabel (st : Stream) : st.releaseHead.openLabel = st.openLabel := by
  unfold Stream.releaseHead
  split <;> rfl

theorem Stream.cueEvent_openLabel (k : Station) (slots : Vector Slot 24) (st : Stream) :
    (st.cueEvent k slots).openLabel = st.openLabel := by
  unfold Stream.cueEvent
  split
  · split
    · exact Stream.standing_openLabel k slots _
    · rfl
  · split
    · split
      · exact Stream.standing_openLabel k slots _
      · rfl
    · split
      · split
        · exact Stream.releaseHead_openLabel st
        · rfl
      · rfl

theorem Stream.heedCue_openLabel (bits : BitVec 4) (skip : Bool) (k : Station) (slots : Vector Slot 24)
    (st : Stream) : (st.heedCue bits skip k slots).openLabel = st.openLabel := by
  have hlatch := Stream.openLabel_of_placing (Stands.consumeLatch st).placing
  unfold Stream.heedCue
  dsimp only
  split
  · exact (Stream.cueEvent_openLabel k slots _).trans hlatch
  · exact hlatch

section
variable {k : Station} {base : Fin 24 → Bool} {carried : Vector (Option Stream) 16} {s : State}

theorem IntentFollows.heedCues (h : IntentFollows k base carried s) (bits : BitVec 4)
    (n : Option (Fin 16)) : IntentFollows k base carried (s.heedCues bits n) := by
  have hout : IntentFollows k base carried { s with cueOut := s.cueOut ||| bits } := h.congr rfl rfl rfl
  have hcued := hout.mapStreams (fun m st => st.heedCue bits (n == some m) s.number s.slots) fun _ st =>
    Stream.heedCue_openLabel _ _ _ _ st
  unfold State.heedCues
  split
  · exact hcued.congr (by simp) (by simp) (State.cleanQueue_streams _)
  · exact h

/-- A change of every stream that leaves each standing as it did. -/
theorem IntentFollows.mapStands (h : IntentFollows k base carried s) {g : Fin 16 → Stream → Stream}
    (hg : ∀ n st, Stands st (g n st)) : IntentFollows k base carried (s.mapStreams g) :=
  h.mapStreams g fun n st => Stream.openLabel_of_placing (hg n st).placing

theorem IntentFollows.oweVeto (h : IntentFollows k base carried s) :
    IntentFollows k base carried s.oweVeto := by
  have howed : IntentFollows k base carried { s with vetoOwed := true } := h.congr rfl rfl rfl
  unfold State.oweVeto
  split
  · exact howed.mapStands fun _ st => Stands.missCue st
  · exact h

theorem IntentFollows.chooseAll (h : IntentFollows k base carried s) (old : Vector Slot 24)
    (stall : BitVec 24) (f : Frame) : IntentFollows k base carried (s.chooseAll old stall f) := by
  refine h.mapStands fun _ st => ?_
  have hnote : Stands st (if f.census then st else st.noteStall s.number old s.slots stall) := by
    split
    · exact .refl st
    · exact Stands.noteStall _ _ _ _ st
  dsimp only
  split
  · exact hnote.trans (Stands.chooseWords _ _ _ _)
  · exact hnote.trans (Stands.chooseNone _)

theorem IntentFollows.chooseUnheard (h : IntentFollows k base carried s) (f : Frame) :
    IntentFollows k base carried (s.chooseUnheard f) := by
  refine h.mapStands fun _ st => ?_
  split
  · exact Stands.chooseWords _ _ _ _
  · exact Stands.chooseNone _

theorem IntentFollows.chooseAtHeader (h : IntentFollows k base carried s) (f : Frame) :
    IntentFollows k base carried (s.chooseAtHeader f) := by
  unfold State.chooseAtHeader
  split
  · exact h.chooseBid
  · exact h.congr rfl rfl rfl

end

/-! ### The command, the pins and the chosen bid (R107, R173, R187) -/

/-- After the pending command has been taken none is pending (R187). -/
theorem State.takeCommand_command (s : State) : s.takeCommand.command = none := by
  unfold State.takeCommand
  split
  · assumption
  · rfl

theorem State.commandAndCell_command (s : State) (f : Frame) : (s.commandAndCell f).command = none := by
  unfold State.commandAndCell
  split
  · exact s.takeCommand_command
  · split
    · dsimp only
      split
      · exact s.takeCommand_command
      · exact s.driveCensus.takeCommand_command
    · exact s.takeCommand_command

/-- What no command touches: the pins and the chosen bid. -/
def State.pinsAndBid (s : State) : BitVec 4 × Option ChosenBid := (s.cueOut, s.chosenBid)

theorem State.performCommand_pinsAndBid (s : State) (c : Command) :
    (s.performCommand c).pinsAndBid = s.pinsAndBid := by
  unfold State.performCommand State.openOne State.closeOne State.pinsAndBid
  split
  · split <;> simp
  · simp
  · rfl

theorem State.takeCommand_pinsAndBid (s : State) : s.takeCommand.pinsAndBid = s.pinsAndBid := by
  unfold State.takeCommand State.takeThis
  split
  · rfl
  · dsimp only
    split
    · exact State.performCommand_pinsAndBid _ _
    · rfl

theorem State.commandAndCell_pinsAndBid (s : State) (f : Frame) :
    (s.commandAndCell f).pinsAndBid = s.pinsAndBid := by
  unfold State.commandAndCell
  split
  · exact s.takeCommand_pinsAndBid
  · split
    · dsimp only
      split
      · exact s.takeCommand_pinsAndBid
      · exact s.driveCensus.takeCommand_pinsAndBid
    · exact s.takeCommand_pinsAndBid

/-- A set CUE bit pulses its pin, in MEMBER and LEAVING (R173). -/
theorem State.heedCues_pins (s : State) (bits : BitVec 4) (n : Option (Fin 16)) :
    (s.heedCues bits n).cueOut = (if s.membership.drives then s.cueOut ||| bits else s.cueOut)
      ∧ (s.heedCues bits n).command = s.command := by
  unfold State.heedCues
  cases s.membership.drives <;> simp

theorem State.chooseAtHeader_pins (s : State) (f : Frame) :
    (s.chooseAtHeader f).cueOut = s.cueOut ∧ (s.chooseAtHeader f).command = s.command := by
  unfold State.chooseAtHeader
  split
  · exact State.chooseBid_keeps (fun t => t.cueOut = s.cueOut ∧ t.command = s.command)
      (fun t n ht => by simpa [State.closeOne] using ht) (fun _ _ ht => ht) s ⟨rfl, rfl⟩
  · exact ⟨rfl, rfl⟩

/-! ### The end of a header (R101, R130, R132) -/

/-- What every handled header ends with, before the check of R101. -/
def State.headerEnd (f : Frame) (s : State) : State :=
  let s := { s with bidDriven := none }.finishClosing
  if f.census then s else s.mapStreams fun _ st => st.pollRingEnd

theorem State.finishHeader_eq (s : State) (f : Frame) : s.finishHeader f = (s.headerEnd f).checkLeft := rfl

theorem State.headerEnd_eq (s : State) (f : Frame) :
    s.headerEnd f = { s with bidDriven := none, streams := (s.headerEnd f).streams } := by
  unfold State.headerEnd
  dsimp only
  split <;> rfl

/-- The end of a header leaves the pins, the command and the chosen bid, and the bid that was driven has been
handled (R130). -/
theorem State.headerEnd_pins (s : State) (f : Frame) :
    (s.headerEnd f).cueOut = s.cueOut ∧ (s.headerEnd f).chosenBid = s.chosenBid
      ∧ (s.headerEnd f).command = s.command ∧ (s.headerEnd f).bidDriven = none := by
  rw [State.headerEnd_eq]
  exact ⟨rfl, rfl, rfl, rfl⟩

theorem SameTrunk.headerEnd (s : State) (f : Frame) : SameTrunk s (s.headerEnd f) := by
  rw [State.headerEnd_eq]
  exact ⟨fun _ => rfl, rfl, rfl, rfl, rfl, rfl, rfl, rfl, rfl, rfl⟩

theorem IntentFollows.headerEnd {k : Station} {base : Fin 24 → Bool}
    {carried : Vector (Option Stream) 16} {s : State} (h : IntentFollows k base carried s) (f : Frame) :
    IntentFollows k base carried (s.headerEnd f) := by
  have hclosed := IntentFollows.finishClosing (s := { s with bidDriven := none }) (h.congr rfl rfl rfl)
  unfold State.headerEnd
  dsimp only
  split
  · exact hclosed
  · exact hclosed.mapStands fun _ st => Stands.pollRingEnd st

/-- A station has its part in the map where it has it in the same entries (R101). -/
theorem State.hasPart_of_entries {s t : State}
    (h : ∀ i : Fin 24, t.slots[i].entry.hasPart t.number = s.slots[i].entry.hasPart s.number) :
    t.hasPart = s.hasPart := by
  have hnone : t.hasPart = false ↔ s.hasPart = false := by
    simp only [State.hasPart_eq_false_iff, h]
  simpa only [Bool.not_eq_false, ← Bool.eq_iff_iff] using not_congr hnone

/-- A station that is LEAVING with no part in the map ends at OFFLINE, the map with it (R35, R101). -/
theorem State.checkLeft_slots {s : State} (h : s.membership = .leaving ∧ s.hasPart = false) :
    s.checkLeft.slots = Vector.replicate 24 Slot.reset := by
  rw [State.checkLeft, if_pos h]
  rfl

/-! ### Headers where the map does not act (R21, R187) -/

/-- Outside MEMBER a command leaves the map (R188, R189). -/
theorem State.takeCommand_slots {s : State} (h : s.membership ≠ .member) :
    s.takeCommand.slots = s.slots := by
  unfold State.takeCommand
  split
  · rfl
  · rename_i c _
    unfold State.takeThis
    dsimp only
    split
    · rename_i hdone
      obtain ⟨code, stream⟩ := c
      cases code with
      | openStream => simp [State.judgeCommand, State.judgeOpen, h] at hdone
      | closeStream => simp [State.judgeCommand, State.judgeClose, h] at hdone
      | setStanding => rfl
    · rfl

/-- A header is due to a station that receives arrivals (R1). -/
theorem State.headerDue_eq {s : State} {f : Frame} (hr : s.membership.receives = true)
    (hf : s.frame = some f) (hh : f.header = .due) : s.headerDue = some f := by
  simp [State.headerDue, hf, hr, hh]

/-- In LISTENING and LOST a header brings a pending command and nothing else (R21, R187). -/
theorem State.setHeader_takeCommand {s : State} {f : Frame} (hf : s.frame = some f) (x : HeaderStatus)
    (hm : s.membership = .listening ∨ s.membership = .lost) :
    SameTrunk (s.setHeader x) (s.setHeader x).takeCommand.pump
      ∧ (s.setHeader x).frame = some { f with header := x }
      ∧ (s.setHeader x).takeCommand.pump.slots = s.slots
      ∧ (s.setHeader x).takeCommand.pump.command = none := by
  have hne : (s.setHeader x).membership ≠ .member := by
    rcases hm with h | h <;> simp [State.setHeader, h]
  exact ⟨(SameTrunk.takeCommand _).trans (.pump _), by simp [State.setHeader, hf],
    by rw [State.pump_slots]; exact State.takeCommand_slots hne,
    by rw [State.pump_command]; exact State.takeCommand_command _⟩

end Sys2Proof.Machine
end

section
/-! PROOFS. The arrival of an intact header (R5, R6, R21, R37, R46, R49, R101, R173, R187). -/

namespace Sys2Proof.Machine

open Sys2Proof

/-! ### The arrival -/

/-- An intact header where headers are judged (R37). -/
theorem State.takeHeader_intact {s : State} {f : Frame} (hj : s.membership.judges = true)
    (hf : s.frame = some f) (hh : f.header = .due) (hu : f.unexpected = false) (bits : HeaderBits) :
    s.takeHeader (.intact bits)
      = (s.setHeader (.intact (headerFields f bits).valid)).judgeHeader bits f := by
  have hdue := State.headerDue_eq (Membership.receives_of_maps (Membership.maps_of_judges hj)) hf hh
  simp only [State.takeHeader, hdue, hu, Bool.false_eq_true, if_false]
  exact if_pos hj

/-- An intact header where the map does not act on it (R21, R187). -/
theorem State.takeHeader_intact_unjudged {s : State} {f : Frame}
    (hm : s.membership = .listening ∨ s.membership = .lost) (hf : s.frame = some f)
    (hh : f.header = .due) (hu : f.unexpected = false) (bits : HeaderBits) :
    s.takeHeader (.intact bits)
      = (s.setHeader (.intact (headerFields f bits).valid)).takeCommand := by
  have hr : s.membership.receives = true := by rcases hm with h | h <;> rw [h] <;> rfl
  have hj : s.membership.judges ≠ true := by rcases hm with h | h <;> rw [h] <;> decide
  simp only [State.takeHeader, State.headerDue_eq hr hf hh, hu, Bool.false_eq_true, if_false]
  exact if_neg hj

/-- In a frame that opened unexpectedly every header is a damaged one (R5, R6). -/
theorem State.takeHeader_unexpected {s : State} {f : Frame} (hf : s.frame = some f)
    (hu : f.unexpected = true) (bits : HeaderBits) :
    s.takeHeader (.intact bits) = s.takeHeader (.damaged []) := by
  unfold State.takeHeader
  cases hdue : s.headerDue with
  | none => rfl
  | some g =>
    have hg : s.frame = some g := (Option.filter_eq_some_iff.1 hdue).1
    rw [hf] at hg
    cases hg
    exact if_pos hu

/-! ### The map -/

/-- What the map's part of a header makes of the entries is read from the map, the peers and where the frame
stands, and of none of them the arrival has changed anything by then (R37). -/
theorem State.handleHeader_arrived (s : State) (x : HeaderStatus) (read : List (Option Bool))
    (h : Header) : (((s.setHeader x).countWin read).handleHeader h).slots = (s.handleHeader h).slots := by
  obtain ⟨veto, cue, valid, stall, release, bid⟩ := h
  cases bid with
  | none => rfl
  | some b =>
    by_cases hl : b.label = 0
    · simp only [State.handleHeader, State.judgeBid, hl, if_true]
      rfl
    · simp only [State.handleHeader, State.judgeBid, hl, if_false]
      rfl

/-- The release intent waits until the map has been handled (R37, R49). -/
theorem State.handleHeader_intent (s : State) (h : Header) (i : Fin 24) :
    (s.handleHeader h).slots[i].intent = s.slots[i].intent := by
  have hjudge : ∀ (u : State) (bid : Option Bid), (u.judgeBid bid).slots[i].intent = u.slots[i].intent :=
    fun u bid => by
      unfold State.judgeBid
      split
      · rfl
      · split
        · rfl
        · simp
  have hrelease : ∀ (u : State) (bits : BitVec 24),
      (u.applyReleases bits).slots[i].intent = u.slots[i].intent := fun u bits => by
    simp [State.applyReleases]
  have hsettle : (s.settleAll h.veto).slots[i].intent = s.slots[i].intent := by simp [State.settleAll]
  exact (hrelease _ _).trans ((hjudge _ _).trans hsettle)

/-- The map as an intact header leaves it, with the release intent brought up to it (R37, R46, R49). -/
theorem State.mapHeader_slots (s : State) (x : HeaderStatus) (read : List (Option Bool)) (h : Header)
    (i : Fin 24) :
    (((s.setHeader x).countWin read).mapHeader h).slots[i].entry = (s.handleHeader h).slots[i].entry
    ∧ ((((s.setHeader x).countWin read).mapHeader h).slots[i].intent = true
      ↔ Sys2Proof.Entry.StaysIntended s.number (s.handleHeader h).slots[i].entry
        ∧ (s.slots[i].intent = true
          ∨ Sys2Proof.Entry.AskedFor s.number s.streams (s.handleHeader h).slots[i].entry)) := by
  have harrived := s.handleHeader_arrived x read h
  have hnumber : (((s.setHeader x).countWin read).handleHeader h).number = s.number := by
    simp [State.handleHeader, State.countWin, State.setHeader]
  have hstreams : (((s.setHeader x).countWin read).handleHeader h).streams = s.streams := by
    simp [State.handleHeader, State.countWin, State.setHeader]
  refine ⟨?_, ?_⟩
  · rw [State.mapHeader, State.refreshIntent_entry, State.mapReport_slots, harrived]
  · rw [State.mapHeader, State.reported_intent, harrived, hnumber, hstreams, State.handleHeader_intent]

/-! ### After the map -/

/-- What an intact header does after the map, before the check of R101; `old` is the map it met. -/
def State.afterMap (h : Header) (old : Vector Slot 24) (f : Frame) (s : State) : State :=
  ((((s.commandAndCell f).heedCues h.cue s.commandedStream).chooseAll old h.stall f).chooseAtHeader
    f).headerEnd f

theorem State.judgeHeader_eq (s : State) (bits : HeaderBits) (f : Frame) : s.judgeHeader bits f
    = (((s.countWin (arbitrationRead bits)).mapHeader (headerFields f bits)).afterMap
        (headerFields f bits) s.slots f).checkLeft := rfl

theorem SameTrunk.afterMap (s : State) (h : Header) (old : Vector Slot 24) (f : Frame) :
    SameTrunk s (s.afterMap h old f) :=
  ((((SameTrunk.commandAndCell s f).trans (.heedCues _ _ _)).trans (.chooseAll _ _ _ f)).trans
    (.chooseAtHeader _ f)).trans (.headerEnd _ f)

theorem IntentFollows.afterMap {k : Station} {carried : Vector (Option Stream) 16} {s : State}
    (hs : IntentFollows k (fun i => s.slots[i].intent) carried s) (h : Header) (old : Vector Slot 24)
    (f : Frame) : ∃ v, IntentFollows k (fun i => s.slots[i].intent) v (s.afterMap h old f) :=
  ⟨_, ((((hs.commandAndCell f).heedCues _ _).chooseAll _ _ f).chooseAtHeader f).headerEnd f⟩

/-- After the map the CUE bits pulse their pins, the pending command is taken, and the bid that was driven has
been handled (R130, R173, R187). -/
theorem State.afterMap_pins (s : State) (h : Header) (old : Vector Slot 24) (f : Frame) :
    (s.afterMap h old f).cueOut = (if s.membership.drives then s.cueOut ||| h.cue else s.cueOut)
    ∧ (s.afterMap h old f).command = none ∧ (s.afterMap h old f).bidDriven = none := by
  have hcommanded := congrArg Prod.fst (s.commandAndCell_pinsAndBid f)
  obtain ⟨hout, hcommand⟩ := (s.commandAndCell f).heedCues_pins h.cue s.commandedStream
  obtain ⟨hout', hcommand'⟩ := (((s.commandAndCell f).heedCues h.cue s.commandedStream).chooseAll old h.stall
    f).chooseAtHeader_pins f
  obtain ⟨hend, -, hendCommand, hdriven⟩ := ((((s.commandAndCell f).heedCues h.cue
    s.commandedStream).chooseAll old h.stall f).chooseAtHeader f).headerEnd_pins f
  refine ⟨(hend.trans hout').trans ?_, (hendCommand.trans hcommand').trans ?_, hdriven⟩
  · rw [State.chooseAll, State.mapStreams_cueOut, hout, State.commandAndCell_membership,
      show (s.commandAndCell f).cueOut = s.cueOut from hcommanded]
  · rw [State.chooseAll, State.mapStreams_command, hcommand, State.commandAndCell_command]

/-- What the map's part of a header leaves besides the map. -/
theorem State.mapHeader_rest (s : State) (h : Header) (slots : Vector Slot 24)
    (hslots : ∀ i : Fin 24, (s.mapHeader h).slots[i].entry = slots[i].entry) :
    SameTrunk { s with slots := slots } (s.mapHeader h) ∧ (s.mapHeader h).cueOut = s.cueOut := by
  refine ⟨⟨hslots, ?_, ?_, ?_, ?_, ?_, ?_, ?_, ?_, ?_⟩, ?_⟩ <;>
    simp [State.mapHeader, State.handleHeader]

theorem IntentFollows.mapHeader (s : State) (h : Header) :
    IntentFollows s.number (fun i => (s.mapHeader h).slots[i].intent)
      ((s.handleHeader h).mapReport s.closesPending s.slots).streams (s.mapHeader h) :=
  IntentFollows.refreshIntent (by simp [State.handleHeader])

/-- The release intent is at the end what the map and the streams, as they were or as they are, ask for
(R46, R49). -/
theorem IntentFollows.total {k : Station} {v : Vector (Option Stream) 16} {x z : State} {streams}
    {i : Fin 24} {e : Entry} {before : Bool}
    (hz : IntentFollows k (fun i => x.slots[i].intent) v z) (he : z.slots[i].entry = e)
    (hx : x.slots[i].intent = true ↔ Sys2Proof.Entry.StaysIntended k e
      ∧ (before = true ∨ Sys2Proof.Entry.AskedFor k streams e)) :
    z.slots[i].intent = true ↔ Sys2Proof.Entry.StaysIntended k e ∧ (before = true
      ∨ Sys2Proof.Entry.AskedFor k streams e ∨ Sys2Proof.Entry.AskedFor k z.streams e) := by
  have h := hz.intent i
  rw [he] at h
  rw [h, hx]
  tauto

/-- A header has been handled, but for the check of R101: the state `z` has the entries and the trunk protocol
of `u`, a release intent that follows from the intent and the streams of `s`, and no command and no driven bid
(R46, R49, R130, R187). -/
structure HeaderHandled (s u z : State) : Prop where
  trunk : SameTrunk u z
  intent : ∀ i : Fin 24, z.pump.slots[i].intent = true
    ↔ Sys2Proof.Entry.StaysIntended s.number u.slots[i].entry
      ∧ (s.slots[i].intent = true ∨ Sys2Proof.Entry.AskedFor s.number s.streams u.slots[i].entry
        ∨ Sys2Proof.Entry.AskedFor s.number z.pump.streams u.slots[i].entry)
  command : z.command = none
  bidDriven : z.bidDriven = none

/-- An intact header is handled by the map and what comes after it, and then by the check of R101. -/
theorem State.judgeHeader_handled (s : State) (x : HeaderStatus) (bits : HeaderBits) (f : Frame) :
    ∃ z, (s.setHeader x).judgeHeader bits f = z.checkLeft
      ∧ HeaderHandled s { (s.setHeader x).countWin (arbitrationRead bits) with
          slots := (s.handleHeader (headerFields f bits)).slots } z
      ∧ z.cueOut = if s.membership.drives then s.cueOut ||| (headerFields f bits).cue else s.cueOut := by
  obtain ⟨h, hh⟩ : ∃ h, h = headerFields f bits := ⟨_, rfl⟩
  obtain ⟨w, hw⟩ : ∃ w, w = (s.setHeader x).countWin (arbitrationRead bits) := ⟨_, rfl⟩
  have hmapped := s.mapHeader_slots x (arbitrationRead bits) h
  rw [← hw] at hmapped
  obtain ⟨hrest, hout⟩ := w.mapHeader_rest h _ fun i => (hmapped i).1
  have htrunk := hrest.trans (.afterMap (w.mapHeader h) h s.slots f)
  obtain ⟨hpins, hcommand, hdriven⟩ := (w.mapHeader h).afterMap_pins h s.slots f
  have hnumber : w.number = s.number := by rw [hw]; rfl
  have hmembership : (w.mapHeader h).membership = s.membership := hrest.membership.trans (by rw [hw]; rfl)
  have hpinsBefore : w.cueOut = s.cueOut := by rw [hw]; rfl
  obtain ⟨v, hz⟩ := (IntentFollows.mapHeader w h).afterMap h s.slots f
  rw [hnumber] at hz
  rw [State.judgeHeader_eq, ← hh, ← hw]
  refine ⟨_, rfl, ⟨htrunk, fun i => ?_, hcommand, hdriven⟩, ?_⟩
  · exact hz.pump.total ((SameTrunk.pump _).entries i |>.trans (htrunk.entries i)) (hmapped i).2
  · exact hpins.trans (by rw [hmembership, hout, hpinsBefore])

/-- Settles O19. -/
theorem intactHeaderSettlesJudgesReleases : Obligations.IntactHeaderSettlesJudgesReleases := by
  intro bits s m f hf hh hmap
  refine ⟨fun hu hj => ⟨_, rfl, ?_⟩, fun hu hm => ⟨_, rfl, ?_⟩, fun hu =>
    congrArg (fun t : State => Host.Outcome.next t.pump) (State.takeHeader_unexpected hf hu bits)⟩
  · obtain ⟨z, hz, hhandled, hout⟩ :=
      s.judgeHeader_handled (.intact (headerFields f bits).valid) bits f
    have hm : s.handleHeader (headerFields f bits) = m := hmap.symm
    rw [hm] at hhandled
    obtain ⟨htrunk, hintent, hcommand, hdriven⟩ := hhandled
    have hpart : z.hasPart = m.hasPart := State.hasPart_of_entries fun i => by
      rw [htrunk.entries i, htrunk.number, ← hm]
      simp [State.handleHeader, State.countWin, State.setHeader]
    have hmembership : z.membership = s.membership := htrunk.membership
    rw [State.takeHeader_intact hj hf hh hu bits, hz]
    split
    · rename_i hleft
      rw [← hmembership, ← hpart] at hleft
      obtain ⟨hoffline, hevent⟩ := State.checkLeft_of_left hleft
      exact ⟨(State.pump_membership _).trans hoffline, by rw [State.pump_events]; exact hevent,
        (State.pump_slots _).trans (State.checkLeft_slots hleft)⟩
    · rename_i hstays
      rw [← hmembership, ← hpart] at hstays
      rw [State.checkLeft_of_stays hstays]
      have hpumped := htrunk.trans (.pump z)
      exact ⟨fun i => ⟨hpumped.entries i, hintent i⟩, (State.pump_cueOut z).trans hout,
        hpumped.frame.trans (by simp [State.countWin, State.setHeader, hf]), hpumped.membership,
        hpumped.damageCount, hpumped.vetoOwed, hpumped.index, hpumped.cycle, hpumped.peers,
        (State.pump_bidDriven z).trans hdriven, (State.pump_command z).trans hcommand⟩
  · rw [State.takeHeader_intact_unjudged hm hf hh hu bits]
    obtain ⟨htrunk, hframe, hslots, hcommand⟩ :=
      State.setHeader_takeCommand hf (.intact (headerFields f bits).valid) hm
    exact ⟨htrunk.frame.trans hframe, hslots, htrunk.membership, htrunk.peers, hcommand⟩

end Sys2Proof.Machine
end

section
/-! PROOFS. The arrival of a damaged header (R50, R63 to R66, R70, R98, R101, R180, R187). -/

namespace Sys2Proof.Machine

open Sys2Proof

/-! ### The arrival -/

/-- A damaged header below the limit, where headers are judged: it counts in MEMBER and LEAVING alone
(R62, R70). -/
theorem State.takeHeader_damaged {s : State} {f : Frame} (hj : s.membership.judges = true)
    (hd : s.membership.drives = true → s.damageCount < 4) (hf : s.frame = some f) (hh : f.header = .due)
    (arb : List Halves) : s.takeHeader (.damaged arb) = { s.setHeader .damaged with
      damageCount := if s.membership.drives then s.damageCount + 1 else s.damageCount }.missHeader arb f := by
  have hdue := State.headerDue_eq (Membership.receives_of_maps (Membership.maps_of_judges hj)) hf hh
  simp only [State.takeHeader, hdue]
  unfold State.damagedHeader
  dsimp only
  rw [show (s.setHeader .damaged).membership = s.membership from rfl]
  by_cases hdr : s.membership.drives = true
  · have hlt : ¬ Config.damageLimit ≤ (s.setHeader .damaged).damageCount + 1 := by
      have := hd hdr
      simp only [Config.damageLimit, State.setHeader]
      omega
    rw [if_pos hdr, if_neg hlt, if_pos hdr]
    rfl
  · rw [if_neg hdr, if_pos hj, if_neg hdr]
    rfl

/-- A damaged header where the map does not act on it (R187). -/
theorem State.takeHeader_damaged_unjudged {s : State} {f : Frame}
    (hm : s.membership = .listening ∨ s.membership = .lost) (hf : s.frame = some f)
    (hh : f.header = .due) (arb : List Halves) :
    s.takeHeader (.damaged arb) = (s.setHeader .damaged).takeCommand := by
  have hr : s.membership.receives = true := by rcases hm with h | h <;> rw [h] <;> rfl
  have hj : s.membership.judges ≠ true := by rcases hm with h | h <;> rw [h] <;> decide
  have hd : s.membership.drives ≠ true := fun h => hj (Membership.judges_of_drives h)
  simp only [State.takeHeader, State.headerDue_eq hr hf hh]
  exact (if_neg hd).trans (if_neg hj)

/-! ### The map -/

/-- The map's part of a damaged header: pending entries lose their settling header, and no bid is left
(R63, R64). -/
def State.missMap (arb : List Halves) (s : State) : State :=
  let s' : State := { s.countWin (arb.map bitOfHalves) with chosenBid := none }
  (s'.unsettleAll.mapReport s'.closesPending s.slots).refreshIntent

/-- What a damaged header does after the map, before the check of R101. -/
def State.afterMiss (f : Frame) (s : State) : State :=
  ((s.oweVeto.commandAndCell f).chooseUnheard f).headerEnd f

theorem State.missHeader_eq (s : State) (arb : List Halves) (f : Frame) :
    s.missHeader arb f = ((s.missMap arb).afterMiss f).checkLeft := rfl

theorem State.missMap_entry (s : State) (arb : List Halves) (i : Fin 24) :
    (s.missMap arb).slots[i].entry = s.slots[i].entry.unsettle := by
  rw [State.missMap, State.refreshIntent_entry, State.mapReport_slots, State.unsettleAll_entry]
  rfl

/-- The release intent as the map's part of a damaged header leaves it (R46, R49). -/
theorem State.missMap_intent (s : State) (arb : List Halves) (i : Fin 24) :
    (s.missMap arb).slots[i].intent = true
      ↔ Sys2Proof.Entry.StaysIntended s.number s.slots[i].entry.unsettle
        ∧ (s.slots[i].intent = true
          ∨ Sys2Proof.Entry.AskedFor s.number s.streams s.slots[i].entry.unsettle) := by
  have h : ∀ u : State, u.unsettleAll.slots[i].intent = u.slots[i].intent := fun u => by
    simp [State.unsettleAll]
  rw [State.missMap, State.reported_intent, State.unsettleAll_entry, h, State.unsettleAll_number,
    State.unsettleAll_streams]
  rfl

/-- What the map's part of a damaged header leaves besides the map. -/
theorem State.missMap_rest (s : State) (arb : List Halves) (slots : Vector Slot 24)
    (hslots : ∀ i : Fin 24, (s.missMap arb).slots[i].entry = slots[i].entry) :
    SameTrunk { s.countWin (arb.map bitOfHalves) with slots := slots } (s.missMap arb)
      ∧ (s.missMap arb).cueOut = s.cueOut ∧ (s.missMap arb).chosenBid = none
      ∧ (s.missMap arb).command = s.command := by
  refine ⟨⟨hslots, ?_, ?_, ?_, ?_, ?_, ?_, ?_, ?_, ?_⟩, ?_, ?_, ?_⟩ <;>
    simp [State.missMap, State.countWin]

theorem IntentFollows.missMap (s : State) (arb : List Halves) :
    ∃ v, IntentFollows s.number (fun i => (s.missMap arb).slots[i].intent) v (s.missMap arb) :=
  ⟨_, IntentFollows.refreshIntent (by simp [State.countWin])⟩

/-- A pending entry keeps the stations that have a part in it as its candidates (R63, R101). -/
theorem Entry.unsettle_hasPart (e : Entry) (k : Station) : e.unsettle.hasPart k = e.hasPart k := by
  rcases e with _ | _ | _ | ⟨c, _ | h⟩ | _ | _ <;>
    simp [Entry.unsettle, Entry.hasPart, Entry.keepsIntent, Bool.or_comm]

/-! ### After the map -/

/-- A veto is owed in MEMBER and LEAVING, and nothing else of the trunk protocol changes (R50). -/
theorem State.oweVeto_trunk (s : State) :
    SameTrunk { s with vetoOwed := s.vetoOwed || s.membership.drives } s.oweVeto
      ∧ s.oweVeto.cueOut = s.cueOut ∧ s.oweVeto.chosenBid = s.chosenBid
      ∧ s.oweVeto.command = s.command := by
  unfold State.oweVeto
  cases hd : s.membership.drives with
  | true =>
    rw [if_pos rfl, Bool.or_true]
    exact ⟨.mapStreams _ _, by simp, by simp, by simp⟩
  | false =>
    rw [if_neg Bool.false_ne_true, Bool.or_false]
    exact ⟨.refl s, rfl, rfl, rfl⟩

theorem SameTrunk.afterMiss (s : State) (f : Frame) :
    SameTrunk { s with vetoOwed := s.vetoOwed || s.membership.drives } (s.afterMiss f) :=
  ((s.oweVeto_trunk.1.trans (.commandAndCell _ f)).trans (.chooseUnheard _ f)).trans (.headerEnd _ f)

theorem IntentFollows.afterMiss {k : Station} {carried : Vector (Option Stream) 16} {s : State}
    (h : IntentFollows k (fun i => s.slots[i].intent) carried s) (f : Frame) :
    ∃ v, IntentFollows k (fun i => s.slots[i].intent) v (s.afterMiss f) := by
  have howed := h.oweVeto
  rw [show (fun i : Fin 24 => s.slots[i].intent) = fun i : Fin 24 => s.oweVeto.slots[i].intent by
    rw [State.oweVeto_slots]] at howed ⊢
  exact ⟨_, ((howed.commandAndCell f).chooseUnheard f).headerEnd f⟩

/-- After a damaged header no CUEOUT pin pulses, no bid is chosen that was not, the command has been taken, and
no bid is driven any more (R64, R66, R187). -/
theorem State.afterMiss_pins (s : State) (f : Frame) :
    (s.afterMiss f).cueOut = s.cueOut ∧ (s.afterMiss f).chosenBid = s.chosenBid
    ∧ (s.afterMiss f).command = none ∧ (s.afterMiss f).bidDriven = none := by
  obtain ⟨-, hout, hbid, -⟩ := s.oweVeto_trunk
  have hcommanded := s.oweVeto.commandAndCell_pinsAndBid f
  rw [State.pinsAndBid, State.pinsAndBid, Prod.mk.injEq, hout, hbid] at hcommanded
  obtain ⟨hpins, hchosen⟩ := hcommanded
  obtain ⟨hend, hendBid, hendCommand, hdriven⟩ :=
    ((s.oweVeto.commandAndCell f).chooseUnheard f).headerEnd_pins f
  rw [State.chooseUnheard, State.mapStreams_cueOut] at hend
  rw [State.chooseUnheard, State.mapStreams_chosenBid] at hendBid
  rw [State.chooseUnheard, State.mapStreams_command, State.commandAndCell_command] at hendCommand
  exact ⟨hend.trans hpins, hendBid.trans hchosen, hendCommand, hdriven⟩

/-! ### The streams at the end of a header (R132, R144, R158) -/

/-- Every stream of a state is such. -/
def EveryStream (P : Stream → Prop) (s : State) : Prop :=
  ∀ (n : Fin 16) (st : Stream), s.streams[n] = some st → P st

theorem EveryStream.mapStreams {P Q : Stream → Prop} {s : State} (h : EveryStream P s)
    {g : Fin 16 → Stream → Stream} (hg : ∀ n st, P st → Q (g n st)) : EveryStream Q (s.mapStreams g) := by
  intro n st hst
  rw [Fin.getElem_fin, State.mapStreams_get] at hst
  obtain ⟨x, hx, rfl⟩ := Option.map_eq_some_iff.1 hst
  exact hg _ x (h n x hx)

/-- What the end of a header makes of one stream (R132, R144, R158). -/
theorem StreamAt.headerEnd {P : Stream → Prop} {n : Fin 16} {s : State} (h : StreamAt n P s) (f : Frame)
    (hclose : ∀ part x, P x → P (x.finishClosing part)) (hpoll : ∀ x, P x → P x.pollRingEnd) :
    StreamAt n P (s.headerEnd f) := by
  have hdrop : StreamAt n P { s with bidDriven := none } := h.congr rfl
  have hclosed : StreamAt n P ({ s with bidDriven := none } : State).finishClosing :=
    hdrop.mapStreams fun x => hclose _ x
  unfold State.headerEnd
  split
  · exact hclosed
  · exact hclosed.mapStreams fun x => hpoll x

/-- What the end of a header makes of every stream (R132, R144, R158). -/
theorem EveryStream.headerEnd {P : Stream → Prop} {s : State} (h : EveryStream P s) (f : Frame)
    (hclose : ∀ part x, P x → P (x.finishClosing part)) (hpoll : ∀ x, P x → P x.pollRingEnd) :
    EveryStream P (s.headerEnd f) := by
  have hdrop : EveryStream P { s with bidDriven := none } := h
  have hclosed : EveryStream P ({ s with bidDriven := none } : State).finishClosing :=
    hdrop.mapStreams fun _ x => hclose _ x
  unfold State.headerEnd
  split
  · exact hclosed
  · exact hclosed.mapStreams fun _ x => hpoll x

/-! ### Words of PACED streams (R65) -/

/-- A PACED send stream has no words chosen (R65). -/
def Stream.PacedSilent (st : Stream) : Prop :=
  st.isSend = true → st.defn.cls = .paced → st.chosen = []

theorem Stream.chooseWords_silent (k : Station) (slots : Vector Slot 24) (st : Stream) :
    (st.chooseWords k slots true).PacedSilent := by
  intro hs hp
  have hnone : st.choiceCount k slots true = 0 := by
    rw [Stream.choiceCount, if_neg]
    simp [show st.defn.cls = .paced from hp]
  simp [Stream.chooseWords, hnone]

theorem Stream.PacedSilent.congr {st st' : Stream} (h : st.PacedSilent) (defn : st'.defn = st.defn)
    (chosen : st'.chosen = st.chosen) : st'.PacedSilent := fun hs hp => by
  rw [chosen]
  exact h (by rwa [Stream.isSend_congr defn] at hs) (by rwa [defn] at hp)

/-- After a damaged header no word of a PACED stream is chosen (R65). -/
theorem State.afterMiss_silent (s : State) (f : Frame) :
    EveryStream Stream.PacedSilent (s.afterMiss f).pump := by
  have hchosen : ∀ u : State, EveryStream Stream.PacedSilent (u.chooseUnheard f) := fun u => by
    refine EveryStream.mapStreams (P := fun _ => True) (fun _ _ _ => trivial) fun _ st _ => ?_
    split
    · exact Stream.chooseWords_silent _ _ st
    · exact fun _ _ => rfl
  have hended : EveryStream Stream.PacedSilent (s.afterMiss f) := (hchosen _).headerEnd f
    (fun part st hst => hst.congr (Stream.finishClosing_defn part st)
      (by unfold Stream.finishClosing; split <;> rfl))
    fun st hst => hst.congr (Stream.placing_eq_iff.1 (Stands.pollRingEnd st).placing).1
      (by unfold Stream.pollRingEnd; split <;> rfl)
  intro n st hst
  rw [State.pump_get] at hst
  obtain ⟨x, hx, rfl⟩ := Option.map_eq_some_iff.1 hst
  exact (hended n x hx).congr (by rw [Stream.issue_eq]) (by rw [Stream.issue_eq])

/-! ### Missed cues (R66, R180) -/

/-- What a stream shows of missed cues stands, and its event is not cleared (R180, R191). -/
structure CueMissKept (st st' : Stream) : Prop where
  cueMiss : st'.cueMiss = st.cueMiss
  mark : st'.cueMissMark = st.cueMissMark
  event : st.event = true → st'.event = true

theorem CueMissKept.refl (st : Stream) : CueMissKept st st := ⟨rfl, rfl, id⟩

theorem CueMissKept.trans {a b c : Stream} (h : CueMissKept a b) (h' : CueMissKept b c) :
    CueMissKept a c :=
  ⟨h'.cueMiss.trans h.cueMiss, h'.mark.trans h.mark, fun e => h'.event (h.event e)⟩

theorem CueMissKept.report (k : Station) (old new : Vector Slot 24) (st : Stream) :
    CueMissKept st (st.report k old new) := by
  unfold Stream.report Stream.standing Stream.listenRule
  dsimp only
  repeat' split
  all_goals exact ⟨rfl, rfl, id⟩

theorem CueMissKept.close {st : Stream} (ho : st.isOpen = true) (reason : CloseReason) (part : Bool) :
    CueMissKept st (st.close reason part) := by
  obtain ⟨-, -, hevent⟩ := Stream.close_outcome ho reason part
  obtain ⟨-, -, -, -, -, -, hmark, -⟩ := Stream.close_clears ho reason part
  refine ⟨?_, hmark, fun h => by rw [hevent, h, Bool.true_or]⟩
  rcases Stream.isOpen_cases ho with ⟨hs, hopen⟩ | ⟨hs, hopen⟩
  · rw [Stream.close_of_openSend hs hopen]
    rfl
  · rw [Stream.close_of_openListen hs hopen]
    rfl

theorem CueMissKept.finishClosing (part : Bool) (st : Stream) :
    CueMissKept st (st.finishClosing part) := by
  unfold Stream.finishClosing
  split
  · exact ⟨rfl, rfl, fun _ => Bool.or_true _⟩
  · exact .refl st

theorem CueMissKept.pollRingEnd (st : Stream) : CueMissKept st st.pollRingEnd := by
  unfold Stream.pollRingEnd
  split <;> exact ⟨rfl, rfl, id⟩

theorem CueMissKept.issue (st : Stream) : CueMissKept st st.issue := by
  rw [Stream.issue_eq]
  exact ⟨rfl, rfl, id⟩

/-- The rules do nothing to a stream that is not open (R122, R134). -/
theorem Stream.report_of_not_open {st : Stream} (h : st.isOpen = false) (k : Station)
    (old new : Vector Slot 24) : st.report k old new = st := by
  unfold Stream.isOpen at h
  cases hs : st.isSend with
  | true =>
    simp only [hs, if_true] at h
    simp [Stream.report, Stream.standing, hs, h]
  | false =>
    simp only [hs, Bool.false_eq_true, if_false] at h
    simp [Stream.report, Stream.listenRule, hs, h]

/-- The report to a stream leaves it open or not open, with its definition (R34). -/
theorem Stream.report_keeps (k : Station) (old new : Vector Slot 24) (st : Stream) :
    (st.report k old new).isOpen = st.isOpen ∧ (st.report k old new).defn = st.defn := by
  refine ⟨?_, (Stream.report_stall k old new st).1⟩
  cases ho : st.isOpen with
  | true => exact Stream.report_isOpen ho
  | false => rw [Stream.report_of_not_open ho, ho]

/-- A command leaves every stream defined (R120). -/
theorem State.takeCommand_defined {n : Fin 16} {x : Stream} {s : State} (hx : s.streams[n] = some x) :
    ∃ y, s.takeCommand.streams[n] = some y := by
  have hchanged : ∀ (m : Fin 16) (g : Stream → Stream), ∃ y, (s.onStream m g).streams[n] = some y :=
    fun m g => by
      by_cases hm : n = m
      · exact ⟨g x, by rw [← hm, State.onStream_get_self, hx]; rfl⟩
      · exact ⟨x, by rw [State.onStream_get_other s m n g hm, hx]⟩
  unfold State.takeCommand
  split
  · exact ⟨x, hx⟩
  · rename_i c _
    unfold State.takeThis
    dsimp only
    split
    · obtain ⟨code, stream⟩ := c
      cases code with
      | openStream =>
        obtain ⟨st, hst, -⟩ := State.judgeOpen_done (by assumption)
        unfold State.performCommand
        dsimp only
        rw [hst]
        exact hchanged _ _
      | closeStream =>
        obtain ⟨y, hy⟩ := hchanged stream.toFin fun st => st.close .host (s.streamHasPart stream.toFin st)
        exact ⟨y, hy⟩
      | setStanding => exact ⟨x, hx⟩
    · exact ⟨x, hx⟩

/-- A command leaves the marks of an open stream: an OPEN of it is refused, and a CLOSE of it keeps them
(R180, R188). -/
theorem StreamAt.takeCommand_cueMiss {n : Fin 16} {a : Stream} {s : State}
    (h : StreamAt n (fun x => x.isOpen = true ∧ CueMissKept a x) s) :
    StreamAt n (CueMissKept a) s.takeCommand := by
  obtain ⟨x, hx, ho, hkept⟩ := h
  by_cases hcloses : s.closesPending n = true
  · obtain ⟨⟨code, stream⟩, hc, rfl, rfl, hdone⟩ := (s.closesPending_iff n).1 hcloses
    obtain ⟨hm, -⟩ := (s.judgeClose_done_iff _).1 hdone
    refine ⟨_, ?_, hkept.trans (.close ho .host (s.streamHasPart stream.toFin x))⟩
    rw [State.takeCommand_close hm hc hx (Stream.state_ne_closed ho)]
    refine (State.closeOne_stream s .host stream.toFin stream.toFin).trans ?_
    rw [if_pos rfl, hx]
    rfl
  · refine ⟨x, ?_, hkept⟩
    rw [State.takeCommand_stream, hx]
    rintro ⟨code, stream⟩ hc hcode rfl hdone
    cases code with
    | openStream =>
      obtain ⟨y, hy, hclosed⟩ := State.judgeOpen_done hdone
      rw [hx] at hy
      cases hy
      exact Stream.state_ne_closed ho hclosed
    | closeStream => exact hcloses ((s.closesPending_iff _).2 ⟨_, hc, rfl, rfl, hdone⟩)
    | setStanding => exact hcode rfl

/-- What follows the command at a damaged header leaves the marks (R180). -/
theorem StreamAt.miss_cueMiss {n : Fin 16} {a : Stream} {s : State} (f : Frame)
    (h : StreamAt n (CueMissKept a) s.oweVeto.takeCommand) :
    StreamAt n (CueMissKept a) (s.afterMiss f).pump := by
  have htaken : StreamAt n (CueMissKept a) (s.oweVeto.commandAndCell f) :=
    h.congr (s.oweVeto.commandAndCell_takes f).1
  have hchosen : StreamAt n (CueMissKept a) ((s.oweVeto.commandAndCell f).chooseUnheard f) :=
    htaken.mapStreams fun x hx => hx.trans (by split <;> exact ⟨rfl, rfl, id⟩)
  have hended : StreamAt n (CueMissKept a) (s.afterMiss f) := hchosen.headerEnd f
    (fun part x hx => hx.trans (.finishClosing part x)) fun x hx => hx.trans (.pollRingEnd x)
  obtain ⟨x, hx, hkept⟩ := hended
  exact ⟨x.issue, by rw [State.pump_get, hx]; rfl, hkept.trans (.issue x)⟩

/-- The map's part of a damaged header leaves a stream open or not, with its marks (R34, R180). -/
theorem State.missMap_stream {s : State} {n : Fin 16} {st : Stream} (hst : s.streams[n] = some st)
    (arb : List Halves) : StreamAt n
      (fun x => x.isOpen = st.isOpen ∧ x.defn = st.defn ∧ CueMissKept st x) (s.missMap arb) := by
  obtain ⟨u, hu⟩ : ∃ u : State, u = { s.countWin (arb.map bitOfHalves) with chosenBid := none } := ⟨_, rfl⟩
  have hstream : u.unsettleAll.streams[n] = some st := by rw [hu]; exact hst
  have hreport := StreamAt.mapReport u.unsettleAll u.closesPending s.slots hstream rfl
  rw [State.missMap, ← hu]
  refine hreport.imp fun x hx => ?_
  rw [hx]
  split
  · exact ⟨rfl, rfl, .refl st⟩
  · obtain ⟨hopen, hdefn⟩ := Stream.report_keeps u.unsettleAll.number s.slots u.unsettleAll.slots st
    exact ⟨hopen, hdefn, .report _ _ _ st⟩

/-- A damaged header marks the open bound streams of a station that drives, and no other (R66, R180). -/
theorem StreamAt.oweVeto_marks {n : Fin 16} {a : Stream} {s : State}
    (h : StreamAt n (fun x => x = a) s) : StreamAt n (fun x =>
      x = if s.membership.drives then a.missCue else a) s.oweVeto := by
  unfold State.oweVeto
  split
  · exact StreamAt.mapStreams (h.congr rfl) fun x hx => by rw [hx]
  · exact h

theorem Stream.missCue_of_bound {st : Stream} (ho : st.isOpen = true) (hc : st.defn.cue.isSome = true) :
    st.missCue = { st with cueMiss := true, cueMissMark := true, event := true } := by
  simp [Stream.missCue, ho, hc]

theorem Stream.missCue_of_unbound {st : Stream} (h : st.isOpen = false ∨ st.defn.cue = none) :
    st.missCue = st := by
  rcases h with h | h <;> simp [Stream.missCue, h]

/-- What a damaged header makes of the marks of a stream: set where it is open and bound and the station drives,
and kept where it is not and no command is pending (R66, R180). -/
theorem State.miss_marks {s : State} {n : Fin 16} {st : Stream} (hst : s.streams[n] = some st)
    (arb : List Halves) (f : Frame) : ∃ st', ((s.missMap arb).afterMiss f).pump.streams[n] = some st'
      ∧ (s.membership.drives = true → st.isOpen = true → st.defn.cue.isSome = true →
          st'.cueMiss = true ∧ st'.cueMissMark = true ∧ st'.event = true)
      ∧ (s.command = none → (s.membership.drives = false ∨ st.isOpen = false ∨ st.defn.cue = none) →
          st'.cueMiss = st.cueMiss ∧ st'.cueMissMark = st.cueMissMark) := by
  obtain ⟨x, hx, hopen, hdefn, hkept⟩ := State.missMap_stream hst arb
  obtain ⟨hrest, -, -, hcommand⟩ := s.missMap_rest arb _ fun _ => rfl
  have hdrives : (s.missMap arb).membership.drives = s.membership.drives := by rw [hrest.membership]; rfl
  obtain ⟨y, hy, hmarked⟩ := StreamAt.oweVeto_marks ⟨x, hx, rfl⟩
  rw [hdrives] at hmarked
  have hissued : ∀ z, (s.missMap arb).oweVeto.takeCommand.streams[n] = some z → ∃ st',
      ((s.missMap arb).afterMiss f).pump.streams[n] = some st' ∧ CueMissKept z st' := fun z hz =>
    StreamAt.miss_cueMiss f ⟨z, hz, .refl z⟩
  by_cases hset : s.membership.drives = true ∧ st.isOpen = true ∧ st.defn.cue.isSome = true
  · obtain ⟨hd, ho, hc⟩ := hset
    rw [if_pos hd, Stream.missCue_of_bound (hopen.trans ho) (by rwa [hdefn])] at hmarked
    have hyopen : y.isOpen = true := by rw [hmarked]; exact hopen.trans ho
    obtain ⟨z, hz, hzkept⟩ := StreamAt.takeCommand_cueMiss ⟨y, hy, hyopen, .refl y⟩
    obtain ⟨st', hst', hlast⟩ := hissued z hz
    obtain ⟨hmiss, hmark, hevent⟩ := hzkept.trans hlast
    rw [hmarked] at hmiss hmark hevent
    refine ⟨st', hst', fun _ _ _ => ⟨hmiss, hmark, hevent rfl⟩, fun _ hno => ?_⟩
    rcases hno with h | h | h
    · rw [hd] at h
      cases h
    · rw [ho] at h
      cases h
    · rw [h] at hc
      cases hc
  · obtain ⟨z, hz⟩ := State.takeCommand_defined hy
    obtain ⟨st', hst', hlast⟩ := hissued z hz
    refine ⟨st', hst', fun hd ho hc => absurd ⟨hd, ho, hc⟩ hset, fun hnone hno => ?_⟩
    have hy_eq : y = x := by
      rw [hmarked]
      split
      · rename_i hd
        have hunbound := hno.resolve_left (Bool.not_eq_false _ ▸ hd)
        exact Stream.missCue_of_unbound (by rwa [hopen, hdefn])
      · rfl
    have hidle : (s.missMap arb).oweVeto.takeCommand = (s.missMap arb).oweVeto := by
      rw [State.takeCommand, (State.oweVeto_trunk _).2.2.2, hcommand, hnone]
    rw [hidle, hy, hy_eq] at hz
    cases hz
    have hall := hkept.trans hlast
    exact ⟨hall.cueMiss, hall.mark⟩

/-! ### The whole header -/

/-- A damaged header below the limit is handled by the map and what comes after it, and then by the check of
R101. -/
theorem State.missHeader_handled (s : State) (arb : List Halves) (f : Frame) :
    HeaderHandled s { s.countWin (arb.map bitOfHalves) with
        slots := s.unsettleAll.slots, vetoOwed := s.vetoOwed || s.membership.drives }
        ((s.missMap arb).afterMiss f)
      ∧ ((s.missMap arb).afterMiss f).cueOut = s.cueOut
      ∧ ((s.missMap arb).afterMiss f).chosenBid = none := by
  obtain ⟨hrest, hout, hbid, -⟩ := s.missMap_rest arb s.unsettleAll.slots fun i =>
    (s.missMap_entry arb i).trans (s.unsettleAll_entry i).symm
  obtain ⟨hout', hbid', hcommand, hdriven⟩ := (s.missMap arb).afterMiss_pins f
  obtain ⟨_, hfollows⟩ := IntentFollows.missMap s arb
  obtain ⟨v, hz⟩ := hfollows.afterMiss f
  have howed : SameTrunk { s.countWin (arb.map bitOfHalves) with
      slots := s.unsettleAll.slots, vetoOwed := s.vetoOwed || s.membership.drives }
      { s.missMap arb with vetoOwed := (s.missMap arb).vetoOwed || (s.missMap arb).membership.drives } :=
    ⟨hrest.entries, hrest.membership, hrest.number, hrest.frame, hrest.peers, hrest.cycle, hrest.index,
      hrest.damageCount, by rw [hrest.vetoOwed, hrest.membership]; rfl, hrest.wins⟩
  have htrunk := howed.trans (.afterMiss (s.missMap arb) f)
  refine ⟨⟨htrunk, fun i => ?_, hcommand, hdriven⟩, hout'.trans hout, hbid'.trans hbid⟩
  refine hz.pump.total ((SameTrunk.pump _).entries i |>.trans (htrunk.entries i)) ?_
  have hintent := s.missMap_intent arb i
  rw [← State.unsettleAll_entry] at hintent
  exact hintent

/-- Settles O23. -/
theorem damagedHeaderUnsettlesTheMap : Obligations.DamagedHeaderUnsettlesTheMap := by
  intro arb s f hf hh
  refine ⟨fun hj hd => ⟨_, rfl, ?_⟩, fun hm => ⟨_, rfl, ?_⟩⟩
  · obtain ⟨u, hu⟩ : ∃ u : State, u = { s.setHeader .damaged with
      damageCount := if s.membership.drives then s.damageCount + 1 else s.damageCount } := ⟨_, rfl⟩
    rw [State.takeHeader_damaged hj hd hf hh arb, ← hu, State.missHeader_eq]
    obtain ⟨hhandled, hout, hbid⟩ := u.missHeader_handled arb f
    have hsilent := (u.missMap arb).afterMiss_silent f
    have hmarks := fun (n : Fin 16) (st : Stream) (hst : u.streams[n] = some st) => State.miss_marks hst arb f
    generalize (u.missMap arb).afterMiss f = z at *
    obtain ⟨htrunk, hintent, hcommand, hdriven⟩ := hhandled
    have hentry : ∀ i : Fin 24, z.slots[i].entry = s.slots[i].entry.unsettle := fun i => by
      rw [htrunk.entries i, State.unsettleAll_entry, hu]
      rfl
    have hpart : z.hasPart = s.hasPart := State.hasPart_of_entries fun i => by
      rw [hentry, htrunk.number, Entry.unsettle_hasPart, hu]
      rfl
    have hmembership : z.membership = s.membership := htrunk.membership.trans (by rw [hu]; rfl)
    split
    · rename_i hleft
      rw [← hmembership, ← hpart] at hleft
      obtain ⟨hoffline, hevent⟩ := State.checkLeft_of_left hleft
      exact ⟨(State.pump_membership _).trans hoffline, by rw [State.pump_events]; exact hevent⟩
    · rename_i hstays
      rw [← hmembership, ← hpart] at hstays
      rw [State.checkLeft_of_stays hstays]
      have hpumped := htrunk.trans (.pump z)
      have hentryPumped : ∀ i : Fin 24, z.pump.slots[i].entry = s.slots[i].entry.unsettle := fun i => by
        rw [State.pump_slots, hentry]
      refine ⟨hpumped.membership.trans (by rw [hu]; rfl), hpumped.damageCount.trans (by rw [hu]; rfl),
        hpumped.vetoOwed.trans (by rw [hu]; rfl), (State.pump_chosenBid z).trans hbid,
        (State.pump_bidDriven z).trans hdriven, (State.pump_command z).trans hcommand,
        hpumped.frame.trans (by simp [hu, State.countWin, State.setHeader, hf]), fun i => ?_, fun i => ?_,
        hsilent, fun n st hst => ?_, (State.pump_cueOut z).trans (hout.trans (by rw [hu]; rfl)),
        hpumped.peers.trans (by rw [hu]; rfl)⟩
      · rw [hentryPumped]
        rcases s.slots[i].entry with _ | _ | _ | ⟨c, _ | h⟩ | _ | _ <;> rfl
      · rw [hentryPumped]
        have h := hintent i
        rw [State.unsettleAll_entry, hu] at h
        exact h
      · obtain ⟨st', hst', hset, hkept⟩ := hmarks n st (by rw [hu]; exact hst)
        rw [hu] at hset hkept
        exact ⟨st', hst', hset, hkept⟩
  · rw [State.takeHeader_damaged_unjudged hm hf hh arb]
    obtain ⟨htrunk, hframe, hslots, hcommand⟩ := State.setHeader_takeCommand hf .damaged hm
    exact ⟨htrunk.frame.trans hframe, hslots, htrunk.membership, htrunk.damageCount, htrunk.vetoOwed,
      hcommand⟩

end Sys2Proof.Machine
end

section
/-! PROOFS. The placed words of a write queue: no operation but a cell that is accepted adds one, and that one
finds fewer than 32 (R162, R167). -/

namespace Sys2Proof.Machine

open Sys2Proof

/-! ### What leaves the placed words of a stream as they were -/

@[simp] theorem Stream.standing_words (k : Station) (slots : Vector Slot 24) (st : Stream) :
    (st.standing k slots).queuedWords = st.queuedWords := by
  unfold Stream.standing
  split
  · split
    · rfl
    · split <;> rfl
  · rfl

@[simp] theorem Stream.listenRule_words (slots : Vector Slot 24) (st : Stream) :
    (st.listenRule slots).queuedWords = st.queuedWords := by
  unfold Stream.listenRule
  split <;> rfl

@[simp] theorem Stream.report_words (k : Station) (old new : Vector Slot 24) (st : Stream) :
    (st.report k old new).queuedWords = st.queuedWords := by
  unfold Stream.report
  dsimp only
  split
  · split <;> simp
  · split <;> simp

@[simp] theorem Stream.opened_words (k : Station) (slots : Vector Slot 24) (st : Stream) :
    (st.opened k slots).queuedWords = st.queuedWords := by
  unfold Stream.opened
  split
  · exact Stream.standing_words _ _ _
  · exact Stream.listenRule_words _ _

@[simp] theorem Stream.finishClosing_words (part : Bool) (st : Stream) :
    (st.finishClosing part).queuedWords = st.queuedWords := by
  unfold Stream.finishClosing
  split <;> rfl

@[simp] theorem Stream.noteStall_words (k : Station) (old new : Vector Slot 24) (stall : BitVec 24)
    (st : Stream) : (st.noteStall k old new stall).queuedWords = st.queuedWords := by
  unfold Stream.noteStall
  split <;> rfl

@[simp] theorem Stream.noteStallRun_words (st : Stream) :
    st.noteStallRun.queuedWords = st.queuedWords := by
  unfold Stream.noteStallRun
  split <;> rfl

@[simp] theorem Stream.missCue_words (st : Stream) : st.missCue.queuedWords = st.queuedWords := by
  unfold Stream.missCue
  split <;> rfl

@[simp] theorem Stream.pollRingEnd_words (st : Stream) :
    st.pollRingEnd.queuedWords = st.queuedWords := by
  unfold Stream.pollRingEnd
  split <;> rfl

@[simp] theorem Stream.issue_words (st : Stream) : st.issue.queuedWords = st.queuedWords := by
  rw [Stream.issue_eq]
  rfl

@[simp] theorem Stream.listenStall_words (slots : Vector Slot 24) (st : Stream) :
    (st.listenStall slots).queuedWords = st.queuedWords := by
  unfold Stream.listenStall
  split <;> rfl

@[simp] theorem Stream.releaseHead_words (st : Stream) :
    st.releaseHead.queuedWords = st.queuedWords := by
  unfold Stream.releaseHead
  split <;> rfl

@[simp] theorem Stream.consumeLatch_words (st : Stream) :
    st.consumeLatch.queuedWords = st.queuedWords := by
  unfold Stream.consumeLatch
  split
  · split
    · exact st.releaseHead_words
    · rfl
  · rfl

@[simp] theorem Stream.cueEvent_words (k : Station) (slots : Vector Slot 24) (st : Stream) :
    (st.cueEvent k slots).queuedWords = st.queuedWords := by
  unfold Stream.cueEvent Stream.setAwaiting
  split
  · split
    · exact Stream.standing_words _ _ _
    · rfl
  · split
    · split
      · exact Stream.standing_words _ _ _
      · rfl
    · split
      · split
        · exact st.releaseHead_words
        · rfl
      · rfl

@[simp] theorem Stream.heedCue_words (bits : BitVec 4) (skip : Bool) (k : Station)
    (slots : Vector Slot 24) (st : Stream) :
    (st.heedCue bits skip k slots).queuedWords = st.queuedWords := by
  unfold Stream.heedCue
  dsimp only
  split <;> simp

/-! ### A send stream places no word -/

@[simp] theorem Stream.checkStarved_words (st : Stream) :
    st.checkStarved.queuedWords = st.queuedWords := by
  unfold Stream.checkStarved
  split <;> rfl

@[simp] theorem Stream.leaveWord_words (driven : Bool) (now : Stamp) (st : Stream) :
    (st.leaveWord driven now).queuedWords = st.queuedWords := by
  unfold Stream.leaveWord Stream.finishHead
  split
  · dsimp only
    split
    · split <;> rfl
    · rfl
  · rfl

@[simp] theorem Stream.leaveWords_words (driven : Bool) (now : Stamp) (n : Nat) (st : Stream) :
    (st.leaveWords driven now n).queuedWords = st.queuedWords := by
  induction n generalizing st with
  | zero => rfl
  | succ n ih => exact (ih _).trans (st.leaveWord_words driven now)

@[simp] theorem State.spendWords_words (s : State) (expected : Bool) (st : Stream) :
    (s.spendWords expected st).queuedWords = st.queuedWords := by
  have hspent : ∀ n d, ((st.leaveWords true s.stamp n).leaveWords false s.stamp d).chooseNone.queuedWords
      = st.queuedWords := fun n d =>
    (Stream.leaveWords_words _ _ _ _).trans (Stream.leaveWords_words _ _ _ _)
  unfold State.spendWords
  split
  · dsimp only
    split
    · exact hspent _ _
    · exact (Stream.checkStarved_words _).trans (hspent _ _)
  · rfl

/-- The end of a read of a send stream places no word (R143). -/
theorem sendDescriptorEnd_words {w : Word} {now : Stamp} {kind : BusKind} {g : Stream → Stream}
    (h : sendDescriptorEnd w now kind = some g) (st : Stream) :
    (g st).queuedWords = st.queuedWords := by
  cases kind with
  | firstWord =>
    cases h
    unfold Stream.sendFirstRead Stream.sendRingEnd
    split
    · exact Stream.checkStarved_words _
    · split <;> rfl
  | secondWord =>
    cases h
    unfold Stream.sendSecondRead
    split <;> rfl
  | _ => cases h

theorem sendBufferEnd_words {words : List Word} {kind : BusKind} {g : Stream → Stream}
    (h : sendBufferEnd words kind = some g) (st : Stream) : (g st).queuedWords = st.queuedWords := by
  cases kind with
  | bufferRead n =>
    obtain ⟨-, rfl⟩ : words.length = n ∧ Stream.sendBufferDone words = g := by
      simpa [sendBufferEnd] using h
    unfold Stream.sendBufferDone
    split <;> rfl
  | _ => cases h

/-- So does the end of a write of a send stream (R149). -/
theorem sendStatusEnd_words {kind : BusKind} {g : Stream → Stream × List (Word × Word)}
    (h : sendStatusEnd kind = some g) (st : Stream) : (g st).1.queuedWords = st.queuedWords := by
  cases kind with
  | statusWrite =>
    cases h
    unfold Stream.sendStatusDone
    split <;> rfl
  | _ => cases h

theorem sendHandBackEnd_words {kind : BusKind} {g : Stream → Stream × List (Word × Word)}
    (h : sendHandBackEnd kind = some g) (st : Stream) : (g st).1.queuedWords = st.queuedWords := by
  cases kind with
  | handBack =>
    cases h
    unfold Stream.sendHandBackDone
    split <;> rfl
  | _ => cases h

/-! ### Finished descriptors are no words -/

/-- The placed words of a write queue (R162, R167). -/
def placedWords (q : List WriteItem) : Nat := (q.filter WriteItem.isWord).length

theorem Stream.queuedWords_eq (st : Stream) : st.queuedWords = placedWords st.writeQueue := rfl

@[simp] theorem placedWords_append (q r : List WriteItem) :
    placedWords (q ++ r) = placedWords q + placedWords r := by simp [placedWords]

@[simp] theorem placedWords_nil : placedWords [] = 0 := rfl

@[simp] theorem placedWords_done (r : RxDone) (q : List WriteItem) :
    placedWords (.done r :: q) = placedWords q := rfl

@[simp] theorem placedWords_word (i : BitVec 8) (a x : Word) (q : List WriteItem) :
    placedWords (.word i a x :: q) = placedWords q + 1 := rfl

theorem placedWords_drop_le (n : Nat) (q : List WriteItem) : placedWords (q.drop n) ≤ placedWords q :=
  ((List.drop_sublist n q).filter _).length_le

@[simp] theorem Stream.checkListenStarved_words (st : Stream) :
    st.checkListenStarved.queuedWords = st.queuedWords := by
  unfold Stream.checkListenStarved
  split
  · rfl
  · split <;> rfl

@[simp] theorem Stream.handBackCurrent_words (r : RxDone) (st : Stream) :
    (st.handBackCurrent r).queuedWords = st.queuedWords := by
  unfold Stream.handBackCurrent
  rw [Stream.checkListenStarved_words]
  simp [Stream.queuedWords_eq]

@[simp] theorem Stream.stopHandBack_words (st : Stream) :
    st.stopHandBack.queuedWords = st.queuedWords := by
  unfold Stream.stopHandBack
  split
  · split <;> simp
  · rfl

@[simp] theorem Stream.applyCue_words (slots : Vector Slot 24) (st : Stream) :
    (st.applyCue slots).queuedWords = st.queuedWords := by
  unfold Stream.applyCue
  dsimp only
  split
  · rfl
  · exact Stream.listenRule_words _ _
  · exact (Stream.stopHandBack_words _).trans (Stream.listenRule_words _ _)
  · rfl
  · rfl

@[simp] theorem Stream.closeListen_words (reason : CloseReason) (st : Stream) :
    (st.closeListen reason).queuedWords = st.queuedWords := by
  show placedWords st.stopListen.writeQueue = placedWords st.writeQueue
  unfold Stream.stopListen
  dsimp only
  split
  · split <;> simp
  · rfl

theorem Stream.closeAgain_words (reason : CloseReason) (st : Stream) :
    (st.closeAgain reason).queuedWords = st.queuedWords := by
  cases reason with
  | busFault =>
    simp only [Stream.closeAgain]
    split <;> rfl
  | _ => rfl

/-- A closure places no word and removes none (R151, R168). -/
@[simp] theorem Stream.close_words (reason : CloseReason) (part : Bool) (st : Stream) :
    (st.close reason part).queuedWords = st.queuedWords := by
  unfold Stream.close
  split
  · split
    · rfl
    · split
      · exact Stream.closeAgain_words _ _
      · rfl
  · split
    · exact Stream.closeListen_words _ _
    · rfl

/-- The end of a descriptor read of a listen stream places no word (R157). -/
theorem listenDescriptorEnd_words {w : Word} {kind : BusKind} {g : Stream → Stream}
    (h : listenDescriptorEnd w kind = some g) (st : Stream) :
    (g st).queuedWords = st.queuedWords := by
  cases kind with
  | firstWord =>
    cases h
    unfold Stream.listenFirstRead
    split
    · exact Stream.checkListenStarved_words _
    · split
      · simp [Stream.queuedWords_eq]
      · rfl
  | secondWord =>
    cases h
    unfold Stream.listenSecondRead
    split
    · rfl
    · dsimp only
      split
      · exact Stream.checkListenStarved_words _
      · rfl
  | _ => cases h

/-- The words of a write that has ended have left the queue (R167, log 39). -/
theorem listenWordsEnd_words {kind : BusKind} {g : Stream → Stream × List (Word × Word)}
    (h : listenWordsEnd kind = some g) (st : Stream) : (g st).1.queuedWords ≤ st.queuedWords := by
  cases kind with
  | wordWrite n => cases h; exact placedWords_drop_le n st.writeQueue
  | _ => cases h

theorem listenStatusEnd_words {now : Stamp} {kind : BusKind} {g : Stream → Stream × List (Word × Word)}
    (h : listenStatusEnd now kind = some g) (st : Stream) :
    (g st).1.queuedWords = st.queuedWords := by
  cases kind with
  | statusWrite =>
    cases h
    unfold Stream.listenStatusDone
    split
    · rename_i hq
      simp [Stream.queuedWords_eq, hq]
    · rfl
  | _ => cases h

theorem listenHandBackEnd_words {kind : BusKind} {g : Stream → Stream × List (Word × Word)}
    (h : listenHandBackEnd kind = some g) (st : Stream) : (g st).1.queuedWords = st.queuedWords := by
  cases kind with
  | handBack =>
    cases h
    unfold Stream.listenHandBackDone
    split
    · rename_i hq
      simp [Stream.queuedWords_eq, Stream.signal, hq]
    · rfl
  | _ => cases h

/-! ### Bus errors (R153, R169) -/

theorem WriteItem.faultWords_isWord (index : BitVec 8) (lost : Nat) (w : WriteItem) :
    (w.faultWords index lost).isWord = w.isWord := by
  cases w with
  | word => rfl
  | done r =>
    unfold WriteItem.faultWords
    dsimp only
    split <;> rfl

/-- A failed word write removes words, and adds none (R169). -/
theorem placedWords_faultQueue_le (index : BitVec 8) (q : List WriteItem) :
    placedWords (faultQueue index q) ≤ placedWords q := by
  have hmap : ∀ (lost : Nat) (r : List WriteItem),
      placedWords (r.map (WriteItem.faultWords index lost)) = placedWords r := fun lost r => by
    simp [placedWords, List.filter_map, Function.comp_def, WriteItem.faultWords_isWord]
  unfold faultQueue
  rw [hmap]
  exact ((List.filter_sublist (l := q)).filter _).length_le

theorem Stream.sendFault_words (kind : BusKind) (now : Stamp) (before closed : Stream) :
    (Stream.sendFault kind now before closed).queuedWords = closed.queuedWords := by
  have hadd : ∀ d, (Stream.addFault before now d closed).queuedWords = closed.queuedWords := fun d => by
    unfold Stream.addFault
    split
    · rfl
    · split <;> rfl
  cases kind with
  | secondWord | bufferRead =>
    simp only [Stream.sendFault]
    split
    · exact hadd _
    · rfl
  | _ => rfl

theorem Stream.listenFault_words (kind : BusKind) (closed : Stream) :
    (Stream.listenFault kind closed).queuedWords ≤ closed.queuedWords := by
  cases kind with
  | secondWord => simp [Stream.listenFault, Stream.addListenFault, Stream.queuedWords_eq]
  | wordWrite =>
    simp only [Stream.listenFault]
    split
    · exact placedWords_faultQueue_le _ _
    · exact le_rfl
  | statusWrite | handBack => exact Nat.zero_le _
  | firstWord | bufferRead => exact le_rfl

/-- A bus error places no word (R153, R169). -/
theorem Stream.faulted_words (kind : BusKind) (now : Stamp) (before closed : Stream) :
    (Stream.faulted kind now before closed).queuedWords ≤ closed.queuedWords := by
  unfold Stream.faulted
  split
  · exact (Stream.sendFault_words _ _ _ _).le
  · exact Stream.listenFault_words _ _

/-! ### An accepted word (R160 to R162) -/

/-- The write queue of a stream holds 32 placed words or fewer (R167). -/
def Stream.WordsFit (st : Stream) : Prop := st.queuedWords ≤ 32

@[simp] theorem Stream.endBlock_words (mark : Bool) (st : Stream) :
    (st.endBlock mark).queuedWords = st.queuedWords := by
  unfold Stream.endBlock
  split
  · split <;> simp
  · rfl

theorem Stream.placeWord_words (c : Cell) (now : Stamp) (gap : Bool) (d : RxDesc) (st : Stream) :
    (st.placeWord c now gap d).queuedWords = st.queuedWords + 1 := by
  unfold Stream.placeWord
  dsimp only
  split
  · rw [Stream.handBackCurrent_words]
    simp [Stream.queuedWords_eq]
  · simp [Stream.queuedWords_eq]

/-- A word is placed where fewer than 32 are placed, and dropped otherwise (R162). -/
theorem Stream.WordsFit.placeOrDrop {st : Stream} (h : st.WordsFit) (c : Cell) (now : Stamp) (gap : Bool) :
    (st.placeOrDrop c now gap).WordsFit := by
  unfold Stream.placeOrDrop
  split
  · split
    · exact h
    · rename_i hroom
      simp only [Config.writeQueueLimit, not_le] at hroom
      rw [Stream.WordsFit, Stream.placeWord_words]
      exact hroom
  · exact h

theorem Stream.WordsFit.acceptWord {st : Stream} (h : st.WordsFit) (c : Cell) (now : Stamp) :
    (st.acceptWord c now).WordsFit := by
  unfold Stream.acceptWord
  dsimp only
  split
  · exact h
  · have hended : (({ st with expectation := some (c.sequence + 1) } : Stream).endBlock c.mark).WordsFit :=
      (Stream.endBlock_words _ _).trans_le h
    split
    · exact hended
    · exact hended.placeOrDrop _ _ _

theorem Stream.WordsFit.hearCell {st : Stream} (h : st.WordsFit) (i : Nat) (rx : CellRx)
    (slots : Vector Slot 24) (now : Stamp) : (st.hearCell i rx slots now).WordsFit := by
  unfold Stream.hearCell
  split
  · exact h
  · split
    · exact h.acceptWord _ _
    · exact h
  · split
    · unfold Stream.markDamage
      split <;> exact h
    · exact h

end Sys2Proof.Machine
end

section
/-! PROOFS. What leaves the counts of a station, its open queue and its write queues in their ranges, whatever
it does otherwise (R70, R81, R104, R108, R109, R167). -/

namespace Sys2Proof.Machine

open Sys2Proof

/-! ### Operations beside the counts -/

/-- The counts of a station, with the membership and the bids on which their ranges depend. -/
def State.counts (s : State) : Membership × Nat × Nat × Nat × List Nat × Option ChosenBid
    × Option ChosenBid :=
  (s.membership, s.damageCount, s.censusRun, s.joinAttempts, s.wins, s.chosenBid, s.bidDriven)

/-- An operation leaves the counts as they were, and the open queue and the write queues in their ranges. -/
structure Beside (s t : State) : Prop where
  counts : t.counts = s.counts
  queue : s.openQueue.length ≤ 8 → t.openQueue.length ≤ 8
  words : WriteQueuesBounded s → WriteQueuesBounded t

/-- An operation keeps the counts and the write queues in their ranges. -/
structure RangesKept (s t : State) : Prop where
  counts : CountsInRange s → CountsInRange t
  words : WriteQueuesBounded s → WriteQueuesBounded t

/-- The ranges but for R109: what holds of the counts whatever bid is chosen or driven. -/
structure CountsWithin (s : State) : Prop where
  driving : s.membership.drives = true → s.damageCount < 5 ∧ s.censusRun < 2
  damage : s.damageCount ≤ 5
  listening : s.membership = .listening → s.joinAttempts = 0
  announcing : s.membership = .announcing → s.joinAttempts < 3
  ages : ∀ a ∈ s.wins, a < 31
  wins : s.wins.length ≤ 4
  queue : s.openQueue.length ≤ 8

/-- While a bid is chosen or driven the win list has room for its win (R109). -/
def WinsLeaveRoom (s : State) : Prop :=
  s.chosenBid.isSome = true ∨ s.bidDriven.isSome = true → s.wins.length ≤ 3

theorem countsInRange_iff (s : State) : CountsInRange s ↔ CountsWithin s ∧ WinsLeaveRoom s := by
  constructor
  · rintro ⟨hdriving, hdamage, hlistening, hannouncing, hages, hwins, hroom, hqueue⟩
    exact ⟨⟨hdriving, hdamage, hlistening, hannouncing, hages, hwins, hqueue⟩, hroom⟩
  · rintro ⟨⟨hdriving, hdamage, hlistening, hannouncing, hages, hwins, hqueue⟩, hroom⟩
    exact ⟨hdriving, hdamage, hlistening, hannouncing, hages, hwins, hroom, hqueue⟩

theorem CountsWithin.beside {s t : State} (h : CountsWithin s) (hst : Beside s t) : CountsWithin t := by
  have hcounts := hst.counts
  simp only [State.counts, Prod.mk.injEq] at hcounts
  obtain ⟨hmembership, hdamage, hrun, hjoin, hwins, -, -⟩ := hcounts
  exact ⟨by rw [hmembership, hdamage, hrun]; exact h.driving, by rw [hdamage]; exact h.damage,
    by rw [hmembership, hjoin]; exact h.listening, by rw [hmembership, hjoin]; exact h.announcing,
    by rw [hwins]; exact h.ages, by rw [hwins]; exact h.wins, hst.queue h.queue⟩

theorem Beside.kept {s t : State} (h : Beside s t) : RangesKept s t := by
  refine ⟨fun hs => ?_, h.words⟩
  obtain ⟨hwithin, hroom⟩ := (countsInRange_iff s).1 hs
  refine (countsInRange_iff t).2 ⟨hwithin.beside h, ?_⟩
  have hcounts := h.counts
  simp only [State.counts, Prod.mk.injEq] at hcounts
  obtain ⟨-, -, -, -, hwins, hchosen, hdriven⟩ := hcounts
  rw [WinsLeaveRoom, hwins, hchosen, hdriven]
  exact hroom

theorem Beside.refl (s : State) : Beside s s := ⟨rfl, id, id⟩

theorem Beside.trans {s t u : State} (a : Beside s t) (b : Beside t u) : Beside s u :=
  ⟨b.counts.trans a.counts, b.queue ∘ a.queue, b.words ∘ a.words⟩

theorem RangesKept.refl (s : State) : RangesKept s s := ⟨id, id⟩

theorem RangesKept.trans {s t u : State} (a : RangesKept s t) (b : RangesKept t u) : RangesKept s u :=
  ⟨b.counts ∘ a.counts, b.words ∘ a.words⟩

/-- An operation that touches neither the counts nor the open queue nor a stream. -/
theorem Beside.of_same {s t : State}
    (same : (t.counts, t.openQueue, t.streams) = (s.counts, s.openQueue, s.streams) := by
      simp [State.counts]) : Beside s t := by
  simp only [Prod.mk.injEq] at same
  obtain ⟨hcounts, hqueue, hstreams⟩ := same
  exact ⟨hcounts, by rw [hqueue]; exact id, by unfold WriteQueuesBounded; rw [hstreams]; exact id⟩

theorem Beside.mapStreams (s : State) {g : Fin 16 → Stream → Stream}
    (hg : ∀ n st, Stream.WordsFit st → (g n st).WordsFit) : Beside s (s.mapStreams g) :=
  ⟨by simp [State.counts], by simp, fun h => EveryStream.mapStreams (Q := Stream.WordsFit) h hg⟩

/-- An operation that places no word in any stream. -/
theorem Beside.mapWords (s : State) {g : Fin 16 → Stream → Stream}
    (hg : ∀ n st, (g n st).queuedWords = st.queuedWords) : Beside s (s.mapStreams g) :=
  .mapStreams s fun n st h => (hg n st).trans_le h

theorem Beside.onStream (s : State) (n : Fin 16) {g : Stream → Stream}
    (hg : ∀ st, (g st).queuedWords ≤ st.queuedWords) : Beside s (s.onStream n g) := by
  refine ⟨by simp [State.counts], by simp, fun h m st hm => ?_⟩
  by_cases hmn : m = n
  · subst hmn
    rw [State.onStream_get_self] at hm
    obtain ⟨x, hx, rfl⟩ := Option.map_eq_some_iff.1 hm
    exact (hg x).trans (h m x hx)
  · rw [State.onStream_get_other _ _ _ _ hmn] at hm
    exact h m st hm

theorem Beside.cleanQueue (s : State) : Beside s s.cleanQueue :=
  ⟨by simp [State.counts], (List.length_filter_le _ _).trans, by simp [WriteQueuesBounded]⟩

theorem Beside.pump (s : State) : Beside s s.pump :=
  (Beside.mapWords s fun _ st => st.issue_words).trans (.of_same (by
    rw [State.pump_streams]
    simp [State.counts, State.issueAll]))

theorem Beside.raise (s : State) (e : StationEvent) : Beside s (s.raise e) := .of_same

theorem Beside.refreshIntent (s : State) : Beside s s.refreshIntent := .of_same

theorem Beside.finishClosing (s : State) : Beside s s.finishClosing :=
  .mapWords s fun _ _ => Stream.finishClosing_words _ _

theorem Beside.mapReport (s : State) (closes : Fin 16 → Bool) (old : Vector Slot 24) :
    Beside s (s.mapReport closes old) := by
  refine (Beside.mapWords s fun n st => ?_).trans (.cleanQueue _)
  split
  · rfl
  · exact Stream.report_words _ _ _ _

theorem Beside.closeOne (s : State) (reason : CloseReason) (n : Fin 16) :
    Beside s (s.closeOne reason n) :=
  ((Beside.onStream s n fun _ => (Stream.close_words _ _ _).le).trans (.cleanQueue _)).trans
    (.refreshIntent _)

theorem Beside.closeEvery (s : State) (reason : CloseReason) : Beside s (s.closeEvery reason) :=
  ((Beside.mapWords s fun _ _ => Stream.close_words _ _ _).trans (.cleanQueue _)).trans
    (.refreshIntent _)

/-! ### Commands -/

/-- An OPEN of a send stream is answered DONE only while the open queue has room (R104, R188). -/
theorem State.judgeOpen_room {s : State} {n : Fin 16} {st : Stream} (h : s.judgeOpen n = .done)
    (hst : s.streams[n] = some st) (hs : st.isSend = true) : s.openQueue.length < 8 := by
  unfold State.judgeOpen at h
  rw [hst] at h
  dsimp only at h
  by_contra hfull
  have hlimit : Config.openQueueLimit ≤ s.openQueue.length := not_lt.1 hfull
  split at h
  · cases h
  · split at h
    · cases h
    · rw [hs, decide_eq_true hlimit] at h
      cases h

theorem Beside.openOne {s : State} {n : Fin 16} {st : Stream} (h : s.judgeOpen n = .done)
    (hst : s.streams[n] = some st) : Beside s (s.openOne n st) := by
  have hopened := Beside.onStream s n (g := Stream.opened s.number s.slots) fun _ =>
    (Stream.opened_words _ _ _).le
  refine ⟨hopened.counts, fun hq => ?_, hopened.words⟩
  simp only [State.openOne]
  split
  · rename_i hs
    rw [List.length_append]
    exact State.judgeOpen_room h hst hs
  · exact hq

theorem Beside.performCommand {s : State} {c : Command} (h : s.judgeCommand c = .done) :
    Beside s (s.performCommand c) := by
  unfold State.judgeCommand at h
  unfold State.performCommand
  cases hcode : c.code with
  | openStream =>
    rw [hcode] at h
    dsimp only at h ⊢
    split
    · rename_i st hst
      exact Beside.openOne h hst
    · exact .refl s
  | closeStream => exact .closeOne _ _ _
  | setStanding => exact .of_same rfl

theorem Beside.takeCommand (s : State) : Beside s s.takeCommand := by
  unfold State.takeCommand State.takeThis
  split
  · exact .refl s
  · dsimp only
    split
    · rename_i c _ hdone
      exact (Beside.performCommand hdone).trans (.of_same rfl)
    · exact .of_same rfl

theorem Beside.driveCensus (s : State) : Beside s s.driveCensus := .of_same rfl

theorem Beside.commandAndCell (s : State) (f : Frame) : Beside s (s.commandAndCell f) := by
  unfold State.commandAndCell
  split
  · exact .takeCommand s
  · split
    · dsimp only
      split
      · exact ((Beside.takeCommand s).trans (.driveCensus _)).trans (.of_same rfl)
      · exact ((Beside.driveCensus s).trans (.takeCommand _)).trans (.of_same rfl)
    · exact (Beside.takeCommand s).trans (.driveCensus _)

/-! ### Headers and cells -/

theorem Beside.heedCues (s : State) (bits : BitVec 4) (n : Option (Fin 16)) :
    Beside s (s.heedCues bits n) := by
  unfold State.heedCues
  split
  · refine Beside.trans (Beside.trans ?_ (.mapWords _ fun _ _ => Stream.heedCue_words _ _ _ _ _))
      (.cleanQueue _)
    exact .of_same rfl
  · exact .refl s

theorem Beside.chooseAll (s : State) (old : Vector Slot 24) (stall : BitVec 24) (f : Frame) :
    Beside s (s.chooseAll old stall f) := by
  have hnoted : ∀ st : Stream,
      (if f.census then st else st.noteStall s.number old s.slots stall).queuedWords = st.queuedWords :=
    fun st => by split <;> simp
  refine .mapWords s fun _ st => ?_
  dsimp only
  split
  · exact hnoted st
  · exact hnoted st

theorem Beside.chooseUnheard (s : State) (f : Frame) : Beside s (s.chooseUnheard f) := by
  refine .mapWords s fun _ st => ?_
  split <;> rfl

theorem Beside.oweVeto (s : State) : Beside s s.oweVeto := by
  unfold State.oweVeto
  split
  · refine Beside.trans ?_ (.mapWords _ fun _ st => st.missCue_words)
    exact .of_same rfl
  · exact .refl s

theorem Beside.slots (s : State) (v : Vector Slot 24) : Beside s { s with slots := v } := .of_same rfl

theorem Beside.judgeBid (s : State) (bid : Option Bid) : Beside s (s.judgeBid bid) := by
  unfold State.judgeBid
  split
  · exact .refl s
  · split
    · exact .refl s
    · exact .slots s _

theorem Beside.handleHeader (s : State) (h : Header) : Beside s (s.handleHeader h) :=
  ((Beside.slots s _).trans (.judgeBid _ _)).trans (.slots _ _)

theorem Beside.mapHeader (s : State) (h : Header) : Beside s (s.mapHeader h) :=
  ((Beside.handleHeader s h).trans (.mapReport _ _ _)).trans (.refreshIntent _)

theorem Beside.resolveCell (s : State) (i : Nat) (rx : CellRx) : Beside s (s.resolveCell i rx) := by
  cases rx with
  | intact => exact .slots s _
  | silent | damaged => exact .refl s

theorem Beside.applyReadback (s : State) (i : Nat) (ok : Option Bool) :
    Beside s (s.applyReadback i ok) := by
  cases ok with
  | none => exact .refl s
  | some => exact .slots s _

/-- A listener places a cell's word only where its write queue has room (R162). -/
theorem Beside.cellMap (s : State) (i : Nat) (rx : CellRx) : Beside s (s.cellMap i rx) :=
  ((Beside.mapStreams s fun _ _ h => h.hearCell _ _ _ _).trans (.resolveCell _ _ _)).trans
    (.applyReadback _ _ _)

theorem Beside.cellDone (s : State) (i : Nat) (rx : CellRx) : Beside s (s.cellDone i rx) :=
  (((Beside.cellMap s i rx).trans (.mapReport _ _ _)).trans (.refreshIntent _)).trans
    (.finishClosing _)

/-! ### Bus transactions -/

theorem Beside.endOp (s : State) (n : Fin 16) : Beside s (s.endOp n) :=
  Beside.trans (t := s.onStream n fun st => { st with op := none }) (.onStream s n fun _ => le_rfl)
    (.of_same rfl)

theorem Beside.endRead (s : State) (send : Bool) {f : BusKind → Option (Stream → Stream)}
    (hf : ∀ kind g, f kind = some g → ∀ st, (g st).queuedWords = st.queuedWords) :
    Beside s (s.endRead send f) := by
  unfold State.endRead
  split
  · exact .refl s
  · split
    · split
      · exact .refl s
      · rename_i g hg
        split
        · exact .endOp s _
        · exact (Beside.endOp s _).trans (.onStream _ _ fun st => (hf _ g hg st).le)
    · exact .refl s

theorem Beside.endWrite (s : State) (send : Bool)
    {f : BusKind → Option (Stream → Stream × List (Word × Word))}
    (hf : ∀ kind g, f kind = some g → ∀ st, (g st).1.queuedWords ≤ st.queuedWords) :
    Beside s (s.endWrite send f) := by
  unfold State.endWrite
  split
  · exact .refl s
  · split
    · split
      · exact .refl s
      · rename_i g hg
        exact ((Beside.endOp s _).trans (.onStream _ _ (hf _ g hg))).trans (.of_same rfl)
    · exact .refl s

theorem Beside.busError (s : State) (send : Bool) : Beside s (s.busError send) := by
  unfold State.busError
  split
  · exact .refl s
  · split
    · dsimp only
      split
      · exact .endOp s _
      · exact ((Beside.endOp s _).trans (.closeOne _ _ _)).trans
          (.onStream _ _ fun _ => Stream.faulted_words _ _ _ _)
    · exact .refl s

end Sys2Proof.Machine
end

section
/-! PROOFS. The counts and the write queues stay in their ranges, arrival by arrival and command by command
(R70, R81, R104, R108, R109, R167). -/

namespace Sys2Proof.Machine

open Sys2Proof

/-! ### The entries of the membership states -/

/-- A state with no stream defined bounds every write queue. -/
theorem writeQueuesBounded_of_none {s : State} (h : s.streams = Vector.replicate 16 none) :
    WriteQueuesBounded s := fun n st hn => by simp [h] at hn

/-- Where the arbiter is empty and nothing is driven, the damage count is all that R70 still bounds. -/
theorem countsInRange_of_dropped {s : State} (drives : s.membership.drives = false)
    (damage : s.damageCount ≤ 5) (listening : s.membership = .listening → s.joinAttempts = 0)
    (announcing : s.membership ≠ .announcing) (wins : s.wins = [])
    (queue : s.openQueue = []) : CountsInRange s := by
  refine ⟨fun h => ?_, damage, listening, fun h => absurd h announcing, ?_, ?_, ?_, ?_⟩
  · rw [drives] at h
    cases h
  · simp [wins]
  · simp [wins]
  · simp [wins]
  · simp [queue]

theorem RangesKept.enterOffline (s : State) : RangesKept s s.enterOffline :=
  ⟨fun _ => countsInRange_of_dropped rfl (Nat.zero_le 5) nofun nofun rfl rfl,
    fun _ => writeQueuesBounded_of_none rfl⟩

theorem RangesKept.enterLoading (s : State) : RangesKept s s.enterLoading :=
  ⟨fun _ => countsInRange_of_dropped rfl (Nat.zero_le 5) nofun nofun rfl rfl,
    fun _ => writeQueuesBounded_of_none rfl⟩

theorem RangesKept.resetValues (s : State) : RangesKept s s.resetValues :=
  ⟨fun _ => countsInRange_of_dropped rfl (Nat.zero_le 5) nofun nofun rfl rfl,
    fun _ => writeQueuesBounded_of_none rfl⟩

theorem RangesKept.checkLeft (s : State) : RangesKept s s.checkLeft := by
  unfold State.checkLeft
  split
  · exact (RangesKept.enterOffline s).trans (Beside.raise _ _).kept
  · exact .refl s

/-- The damage count is kept at entry to REFUSED and to LOST, so it is bounded there still. -/
theorem RangesKept.enterRefused {s u : State} (reason : RefusalReason) (hu : u.damageCount = s.damageCount) :
    RangesKept s (u.enterRefused reason) := by
  refine RangesKept.trans ⟨fun hs => ?_, fun _ => ?_⟩ (Beside.takeCommand _).kept
  · have hdamage : u.damageCount ≤ 5 := hu.trans_le hs.2.1
    refine countsInRange_of_dropped rfl ?_ nofun nofun rfl rfl
    simpa [State.clearMap, State.dropStreams, State.dropClaims, State.emptyArbiter, State.stopTrunk]
      using hdamage
  · exact writeQueuesBounded_of_none rfl

/-- What entry to LOST drops before it closes the streams, and what it leaves of the counts (R73). -/
theorem State.enterLost_ranges {s : State} (h : s.damageCount ≤ 5) : CountsInRange s.enterLost := by
  refine countsInRange_of_dropped rfl ?_ nofun nofun ?_ ?_
  · simpa [State.enterLost, State.clearPeers, State.closeEvery, State.clearMap, State.dropClaims,
      State.emptyArbiter] using h
  all_goals simp [State.enterLost, State.clearPeers, State.closeEvery, State.clearMap, State.dropClaims,
      State.emptyArbiter, State.cleanQueue]

theorem State.enterLost_words {s : State} (h : WriteQueuesBounded s) : WriteQueuesBounded s.enterLost :=
  (Beside.closeEvery s.dropClaims.clearMap .lost).words h

/-- A loss condition, met at the last count or below it, keeps the ranges (R71, R72, R76). -/
theorem RangesKept.lose {s u : State} (damage : CountsInRange s → u.damageCount ≤ 5)
    (words : u.streams = s.streams) : RangesKept s u.lose := by
  unfold State.lose
  split
  · exact ⟨fun _ => countsInRange_of_dropped rfl (Nat.zero_le 5) nofun nofun rfl rfl,
      fun _ => writeQueuesBounded_of_none rfl⟩
  · refine ⟨fun h => State.enterLost_ranges (damage h), fun h => State.enterLost_words ?_⟩
    rwa [WriteQueuesBounded, words]

/-- LEAVE in MEMBER keeps the counts that MEMBER and LEAVING share (R101). -/
theorem RangesKept.leaveMember {s : State} (hm : s.membership = .member) : RangesKept s s.leaveMember := by
  have hleaving : RangesKept s { s with membership := .leaving, chosenBid := none } := by
    refine ⟨fun ⟨hdriving, hdamage, _, _, hages, hwins, hroom, hqueue⟩ => ?_, id⟩
    exact ⟨fun _ => hdriving (by rw [hm]; rfl), hdamage, nofun, nofun, hages, hwins,
      fun hbid => hroom (.inr (hbid.resolve_left nofun)), hqueue⟩
  exact (hleaving.trans (Beside.closeEvery _ .leave).kept).trans (.checkLeft _)

theorem RangesKept.writeControl (s : State) (startBit leaveBit resetBit : Bool) :
    RangesKept s (s.writeControl startBit leaveBit resetBit) := by
  unfold State.writeControl State.requestStart State.requestLeave
  split
  · exact .resetValues s
  · split
    · split
      · exact .enterLoading s
      · exact .enterLoading s
      · exact .refl s
    · split
      · split
        · exact .enterOffline s
        · exact .enterOffline s
        · exact .enterOffline s
        · rename_i hm
          exact .leaveMember hm
        · exact .refl s
      · exact .refl s

/-! ### The profile -/

/-- A load completion enters LISTENING with no join attempt, and its streams have empty queues (R96, R121). -/
theorem RangesKept.loadComplete (s : State) (ws : List Word) : RangesKept s (s.loadComplete ws) := by
  refine ⟨fun ⟨_, hdamage, _, _, hages, hwins, hroom, hqueue⟩ => ?_, fun _ n st hn => ?_⟩
  · exact ⟨nofun, hdamage, fun _ => rfl, nofun, hages, hwins, hroom, hqueue⟩
  · simp only [State.loadComplete, profileStreams, Fin.getElem_fin, Vector.getElem_ofFn] at hn
    split at hn
    · cases hn
      exact Nat.zero_le 32
    · cases hn

theorem RangesKept.checkFetch {s u : State} (hu : Beside s u) : RangesKept s u.checkFetch := by
  have hdamage : u.damageCount = s.damageCount := congrArg (fun c => c.2.1) hu.counts
  unfold State.checkFetch
  dsimp only
  split
  · exact hu.kept
  · split
    · exact .enterRefused .profile hdamage
    · split
      · exact hu.kept
      · split
        · exact hu.kept.trans (.loadComplete _ _)
        · exact .enterRefused .profile hdamage

theorem RangesKept.profileRead (s : State) (words : List Word) : RangesKept s (s.profileRead words) := by
  unfold State.profileRead
  split
  · exact .checkFetch (.of_same rfl)
  · exact .refl s

theorem RangesKept.profileBusError (s : State) : RangesKept s s.profileBusError := by
  unfold State.profileBusError
  split
  · exact .enterRefused _ rfl
  · exact .refl s

/-! ### The win list and the choice of the arbiter (R108, R109) -/

/-- The ages stay below 31, and a win that is recorded finds room, since its bid was driven (R108, R109). -/
theorem CountsWithin.countWin {s : State} (h : CountsWithin s) (hroom : WinsLeaveRoom s)
    (read : List (Option Bool)) : CountsWithin (s.countWin read) := by
  have hwins : (s.countWin read).wins = ageWins (s.wonHeader read) s.wins := rfl
  have haged : ((s.wins.map (· + 1)).filter (· < Config.winAge)).length ≤ s.wins.length :=
    (List.length_filter_le _ _).trans (List.length_map _).le
  refine ⟨h.driving, h.damage, h.listening, h.announcing, fun a ha => ?_, ?_, h.queue⟩
  · rw [hwins, ageWins, List.mem_append, List.mem_filter, decide_eq_true_eq] at ha
    rcases ha with ⟨-, ha⟩ | ha
    · exact ha
    · split at ha
      · rw [List.mem_singleton] at ha
        omega
      · cases ha
  · rw [hwins, ageWins, List.length_append]
    split
    · rename_i hwon
      have hdriven : s.bidDriven.isSome = true := by
        rw [State.wonHeader, Option.any_eq_true] at hwon
        obtain ⟨b, hb, -⟩ := hwon
        rw [hb]
        rfl
      exact Nat.add_le_add (haged.trans (hroom (.inr hdriven))) le_rfl
    · exact haged.trans h.wins

/-- What a choice of the arbiter keeps: the ranges, the write queues and the bid that is driven. -/
structure ChoiceKept (s t : State) : Prop where
  within : CountsWithin s → CountsWithin t
  words : WriteQueuesBounded s → WriteQueuesBounded t
  bidDriven : t.bidDriven = s.bidDriven

theorem CountsWithin.choose {s : State} (h : CountsWithin s) (b : Option ChosenBid) :
    CountsWithin { s with chosenBid := b } :=
  ⟨h.driving, h.damage, h.listening, h.announcing, h.ages, h.wins, h.queue⟩

theorem State.chooseBid_choice (s : State) : ChoiceKept s s.chooseBid :=
  State.chooseBid_keeps (ChoiceKept s)
    (fun _ _ h => ⟨fun hs => (h.within hs).beside (.closeOne _ _ _), fun hs => (Beside.closeOne _ _ _).words
      (h.words hs), by simpa [State.closeOne] using h.bidDriven⟩)
    (fun _ b h => ⟨fun hs => (h.within hs).choose b, h.words, h.bidDriven⟩) s ⟨id, id, rfl⟩

/-- A bid is chosen only while the win list has room (R109). -/
theorem State.chooseBid_room {s : State} (h : s.chooseBid.chosenBid.isSome = true) :
    s.chooseBid.wins.length ≤ 3 := by
  rw [(SameTrunk.chooseBid s).wins]
  unfold State.chooseBid at h
  dsimp only at h
  split at h
  · rename_i hbudget
    have hspent := hbudget.2
    simp only [budgetSpent, Config.winLimit, Bool.or_eq_false_iff, decide_eq_false_iff_not] at hspent
    omega
  · cases h

theorem RangesKept.chooseBid (s : State) : RangesKept s s.chooseBid := by
  have hchoice := s.chooseBid_choice
  refine ⟨fun hs => ?_, hchoice.words⟩
  obtain ⟨hwithin, hroom⟩ := (countsInRange_iff s).1 hs
  refine (countsInRange_iff _).2 ⟨hchoice.within hwithin, ?_⟩
  rintro (hbid | hbid)
  · exact State.chooseBid_room hbid
  · rw [hchoice.bidDriven] at hbid
    rw [(SameTrunk.chooseBid s).wins]
    exact hroom (.inr hbid)

theorem State.chooseAtHeader_choice (s : State) (f : Frame) : ChoiceKept s (s.chooseAtHeader f) := by
  unfold State.chooseAtHeader
  split
  · exact s.chooseBid_choice
  · exact ⟨fun h => h.choose none, id, rfl⟩

theorem State.chooseAtHeader_room {s : State} {f : Frame}
    (h : (s.chooseAtHeader f).chosenBid.isSome = true) : (s.chooseAtHeader f).wins.length ≤ 3 := by
  unfold State.chooseAtHeader at h ⊢
  split at h
  · rename_i hf
    rw [if_pos hf]
    exact State.chooseBid_room h
  · cases h

/-! ### Headers -/

/-- A handled header leaves no driven bid, so only the chosen one asks for room (R109, R130). -/
theorem CountsWithin.headerEnd {s : State} (h : CountsWithin s)
    (hroom : s.chosenBid.isSome = true → s.wins.length ≤ 3) (f : Frame) :
    CountsInRange (s.headerEnd f) := by
  rw [State.headerEnd_eq]
  exact ⟨h.driving, h.damage, h.listening, h.announcing, h.ages, h.wins,
    fun hbid => hroom (hbid.resolve_right nofun), h.queue⟩

theorem State.headerEnd_words {s : State} (h : WriteQueuesBounded s) (f : Frame) :
    WriteQueuesBounded (s.headerEnd f) :=
  EveryStream.headerEnd (P := Stream.WordsFit) h f (fun _ _ hx => (Stream.finishClosing_words _ _).trans_le hx)
    fun x hx => x.pollRingEnd_words.trans_le hx

theorem RangesKept.judgeHeader (s : State) (bits : HeaderBits) (f : Frame) :
    RangesKept s (s.judgeHeader bits f) := by
  obtain ⟨u, hu⟩ : ∃ u, u = s.countWin (arbitrationRead bits) := ⟨_, rfl⟩
  have hbeside : Beside u ((((u.mapHeader (headerFields f bits)).commandAndCell f).heedCues
      (headerFields f bits).cue (u.mapHeader (headerFields f bits)).commandedStream).chooseAll s.slots
        (headerFields f bits).stall f) :=
    (((Beside.mapHeader _ _).trans (.commandAndCell _ _)).trans (.heedCues _ _ _)).trans (.chooseAll _ _ _ _)
  rw [State.judgeHeader_eq, ← hu]
  refine RangesKept.trans ⟨fun hs => ?_, fun hs => ?_⟩ (.checkLeft _)
  · obtain ⟨hwithin, hroom⟩ := (countsInRange_iff s).1 hs
    have hcounted : CountsWithin u := by rw [hu]; exact hwithin.countWin hroom _
    exact ((State.chooseAtHeader_choice _ f).within (hcounted.beside hbeside)).headerEnd
      State.chooseAtHeader_room f
  · have hwords : WriteQueuesBounded u := by rw [hu]; exact hs
    exact State.headerEnd_words ((State.chooseAtHeader_choice _ f).words (hbeside.words hwords)) f

/-- A damaged header leaves no chosen bid and no driven one (R64). -/
theorem RangesKept.missHeader (s : State) (arb : List Halves) (f : Frame) :
    RangesKept s (s.missHeader arb f) := by
  obtain ⟨u, hu⟩ : ∃ u : State,
      u = { s.countWin (arb.map bitOfHalves) with chosenBid := none } := ⟨_, rfl⟩
  have hmissed : Beside u (s.missMap arb) := by
    rw [hu]
    exact ((Beside.slots _ _).trans (.mapReport _ _ _)).trans (.refreshIntent _)
  have hbeside : Beside u (((s.missMap arb).oweVeto.commandAndCell f).chooseUnheard f) :=
    ((hmissed.trans (.oweVeto _)).trans (.commandAndCell _ _)).trans (.chooseUnheard _ _)
  rw [State.missHeader_eq]
  refine RangesKept.trans ⟨fun hs => ?_, fun hs => ?_⟩ (.checkLeft _)
  · obtain ⟨hwithin, hroom⟩ := (countsInRange_iff s).1 hs
    have hcounted : CountsWithin u := by rw [hu]; exact (hwithin.countWin hroom _).choose none
    refine (hcounted.beside hbeside).headerEnd (fun hbid => ?_) f
    have hnone := congrArg (fun c => c.2.2.2.2.2.1) hbeside.counts
    simp only [State.counts, hu] at hnone
    rw [hnone] at hbid
    cases hbid
  · have hwords : WriteQueuesBounded u := by rw [hu]; exact hs
    exact State.headerEnd_words (hbeside.words hwords) f

theorem Beside.setHeader (s : State) (x : HeaderStatus) : Beside s (s.setHeader x) := .of_same rfl

/-- Below the limit a damaged header counts; at the limit it ends membership (R70, R71). -/
theorem RangesKept.damagedHeader (s : State) (arb : List Halves) (f : Frame) :
    RangesKept s (s.damagedHeader arb f) := by
  refine (Beside.setHeader s .damaged).kept.trans ?_
  unfold State.damagedHeader
  generalize s.setHeader .damaged = u
  dsimp only
  split
  · rename_i hdrives
    split
    · exact (RangesKept.lose (u := { u with damageCount := u.damageCount + 1 })
        (fun hu => (hu.1 hdrives).1) rfl).trans (Beside.takeCommand _).kept
    · rename_i hlimit
      refine RangesKept.trans (t := { u with damageCount := u.damageCount + 1 }) ⟨fun hu => ?_, id⟩
        (.missHeader _ _ _)
      obtain ⟨hdriving, -, hlistening, hannouncing, hrest⟩ := hu
      have hlt : u.damageCount + 1 < 5 := not_le.1 hlimit
      exact ⟨fun h => ⟨hlt, (hdriving h).2⟩, hlt.le, hlistening, hannouncing, hrest⟩
  · split
    · exact .missHeader u arb f
    · exact (Beside.takeCommand u).kept

theorem RangesKept.intactHeader (s : State) (bits : HeaderBits) (f : Frame) :
    RangesKept s (s.intactHeader bits f) := by
  refine (Beside.setHeader s (.intact (headerFields f bits).valid)).kept.trans ?_
  unfold State.intactHeader
  dsimp only
  split
  · exact .judgeHeader _ bits f
  · exact (Beside.takeCommand _).kept

theorem RangesKept.takeHeader (s : State) (rx : HeaderRx) : RangesKept s (s.takeHeader rx) := by
  unfold State.takeHeader
  split
  · exact .refl s
  · split
    · exact .damagedHeader s _ _
    · split
      · exact .damagedHeader s _ _
      · exact .intactHeader s _ _

/-! ### Cells -/

theorem Beside.mapFrame (s : State) (g : Frame → Frame) : Beside s { s with frame := s.frame.map g } :=
  .of_same rfl

theorem RangesKept.takeCell (s : State) (i : Nat) (rx : CellRx) : RangesKept s (s.takeCell i rx) := by
  have hcounted : Beside s s.countCell := .mapFrame s _
  unfold State.takeCell
  split
  · exact (hcounted.trans (.cellDone _ _ _)).kept.trans (.checkLeft _)
  · exact hcounted.kept

theorem RangesKept.cellArrives (s : State) (bits : CellBits) : RangesKept s (s.cellArrives bits) := by
  unfold State.cellArrives
  split
  · exact .refl s
  · exact .takeCell s _ _

/-! ### Census cells -/

theorem Beside.raiseIf (s : State) (b : Bool) (e : StationEvent) : Beside s (s.raiseIf b e) := by
  unfold State.raiseIf
  split
  · exact .raise s e
  · exact .refl s

theorem Beside.adoptCycle (s : State) (c : Census) : Beside s (s.adoptCycle c) := by
  unfold State.adoptCycle
  split
  · rename_i n _
    exact Beside.trans (t := { s with cycle := n }) (.of_same rfl) (.raiseIf _ _ _)
  · exact .refl s

theorem Beside.tables (s : State) (peers : Vector Peer 32) (slots : Vector Slot 24) :
    Beside s { s with peers := peers, slots := slots } := .of_same rfl

theorem Beside.reconcileTables (s : State) (c : Census) : Beside s (s.reconcileTables c) := by
  refine Beside.trans (Beside.trans ?_ (.raiseIf _ _ _)) (.raiseIf _ _ _)
  exact .tables s _ _

/-- Reconciliation sets the damage count to 0 (R70). -/
theorem RangesKept.reconcile (s : State) (c : Census) : RangesKept s (s.reconcile c) := by
  have hcleared : ∀ u : State, RangesKept u { u with damageCount := 0 } := fun u =>
    ⟨fun ⟨hdriving, _, hrest⟩ =>
        ⟨fun h => ⟨Nat.zero_lt_succ 4, (hdriving h).2⟩, Nat.zero_le 5, hrest⟩, id⟩
  have htables := (((Beside.reconcileTables s c).trans (.adoptCycle _ c)).trans
    (.mapReport _ (fun _ => s.losesAt c.own) s.slots)).trans (.refreshIntent _)
  exact (htables.kept.trans (hcleared _)).trans
    (Beside.mapWords _ fun _ st => st.noteStallRun_words).kept

/-- The first census leads from LISTENING to ANNOUNCING with no join attempt made (R97). -/
theorem RangesKept.endListening {s : State} (hm : s.membership = .listening) (c : Census) :
    RangesKept s (s.endListening c) := by
  unfold State.endListening
  split
  · exact .enterRefused _ rfl
  · refine ⟨fun ⟨_, hdamage, hlistening, _, hrest⟩ => ?_, id⟩
    have hjoin := hlistening hm
    exact ⟨nofun, hdamage, nofun, fun _ => hjoin.trans_lt (Nat.zero_lt_succ 2), hrest⟩

/-- Below the limit a join attempt counts; at the limit the station is refused (R98, R99). -/
theorem RangesKept.endAnnouncing {s : State} (hm : s.membership = .announcing) (own : Option Bool) :
    RangesKept s (s.endAnnouncing own) := by
  unfold State.endAnnouncing
  split
  · split
    · exact .refl s
    · exact ⟨fun ⟨_, _, _, _, hrest⟩ =>
        ⟨fun _ => ⟨Nat.zero_lt_succ 4, Nat.zero_lt_succ 1⟩, Nat.zero_le 5, nofun, nofun, hrest⟩, id⟩
  · dsimp only
    split
    · exact .enterRefused _ rfl
    · rename_i hlimit
      refine ⟨fun ⟨hdriving, hdamage, _, _, hrest⟩ => ?_, id⟩
      exact ⟨hdriving, hdamage, fun h => absurd (hm.symm.trans h) (by decide),
        fun _ => not_le.1 hlimit, hrest⟩
  · exact .refl s

/-- Below the limit a damaged readback counts; at the limit it ends membership (R72, R81). -/
theorem RangesKept.endMember (s : State) (own : Option Bool) : RangesKept s (s.endMember own) := by
  unfold State.endMember
  split
  · exact ⟨fun ⟨hdriving, hrest⟩ => ⟨fun h => ⟨(hdriving h).1, Nat.zero_lt_succ 1⟩, hrest⟩, id⟩
  · dsimp only
    split
    · exact .lose (u := { s with censusRun := s.censusRun + 1 }) (fun hs => hs.2.1) rfl
    · rename_i hlimit
      exact ⟨fun ⟨hdriving, hrest⟩ => ⟨fun h => ⟨(hdriving h).1, not_le.1 hlimit⟩, hrest⟩, id⟩
  · exact .refl s

theorem RangesKept.censusTransition (s : State) (c : Census) : RangesKept s (s.censusTransition c) := by
  unfold State.censusTransition
  split
  · rename_i hm
    exact .endListening hm c
  · rename_i hm
    exact .endAnnouncing hm c.own
  · exact .endMember s c.own
  · exact .endMember s c.own
  · exact .refl s

theorem RangesKept.completeCensus (s : State) (c : Census) : RangesKept s (s.completeCensus c) := by
  unfold State.completeCensus
  split
  · exact ((((RangesKept.reconcile s c).trans (.censusTransition _ c)).trans (.chooseBid _)).trans
      (Beside.finishClosing _).kept).trans (.checkLeft _)
  · exact .refl s

theorem Beside.newFrame (s : State) (f : Frame) : Beside s { s with frame := some f } := .of_same rfl

theorem RangesKept.takeCensus (s : State) (f : Frame) (rx : CensusRx) :
    RangesKept s (s.takeCensus f rx) := by
  unfold State.takeCensus
  dsimp only
  split
  · exact (Beside.newFrame s _).kept.trans (.completeCensus _ _)
  · exact (Beside.newFrame s _).kept

theorem RangesKept.censusArrives (s : State) (bits : CensusBits) : RangesKept s (s.censusArrives bits) := by
  unfold State.censusArrives
  split
  · exact .refl s
  · exact .takeCensus s _ _

/-! ### Frame starts -/

theorem RangesKept.cutOne (s : State) : RangesKept s s.cutOne := by
  unfold State.cutOne
  split
  · exact .refl s
  · split
    · exact .takeCensus s _ _
    · exact .takeCell s _ _

theorem RangesKept.cutCells (n : Nat) (s : State) : RangesKept s (s.cutCells n) := by
  induction n generalizing s with
  | zero => exact .refl s
  | succ n ih => exact (RangesKept.cutOne s).trans (ih _)

theorem RangesKept.cutShort (s : State) (arb : List Halves) : RangesKept s (s.cutShort arb) := by
  unfold State.cutShort
  split
  · exact .refl s
  · exact (RangesKept.takeHeader s _).trans (.cutCells _ _)

/-- A LOST station listens again with no join attempt made (R75, R97). -/
theorem RangesKept.endLost (s : State) (mark : Bool) : RangesKept s (s.endLost mark) := by
  unfold State.endLost
  split
  · exact ⟨fun ⟨_, hdamage, _, _, hrest⟩ => ⟨nofun, hdamage, fun _ => rfl, nofun, hrest⟩, id⟩
  · exact .refl s

/-- The bid that is driven is the one that was chosen, so the win list has room for its win (R109, R115). -/
theorem RangesKept.driveFrame (s : State) (f : Frame) : RangesKept s (s.driveFrame f) := by
  refine RangesKept.trans (t := { s with
    drive := s.frameDrive f, vetoOwed := false, cuePending := 0, chosenBid := none
    bidDriven := if !f.census && !f.unexpected then s.chosenBid else none }) ⟨?_, id⟩
    (Beside.mapWords _ fun _ st => ?_).kept
  · rintro ⟨hdriving, hdamage, hlistening, hannouncing, hages, hwins, hroom, hqueue⟩
    refine ⟨hdriving, hdamage, hlistening, hannouncing, hages, hwins, fun hbid => hroom (.inl ?_), hqueue⟩
    rcases hbid with hbid | hbid
    · cases hbid
    · dsimp only at hbid
      split at hbid
      · exact hbid
      · cases hbid
  · dsimp only
    split
    · exact State.spendWords_words _ _ _
    · exact (Stream.listenStall_words _ _).trans (State.spendWords_words _ _ _)

theorem RangesKept.driveNothing (s : State) : RangesKept s s.driveNothing :=
  ⟨fun ⟨hdriving, hdamage, hlistening, hannouncing, hages, hwins, _, hqueue⟩ =>
    ⟨hdriving, hdamage, hlistening, hannouncing, hages, hwins, nofun, hqueue⟩, id⟩

theorem RangesKept.openFrame (s : State) (mark : Bool) : RangesKept s (s.openFrame mark) := by
  have hstarted : Beside s (s.startFrame mark) := .of_same rfl
  have hopen : RangesKept s (s.opening mark) :=
    (hstarted.kept.trans (.endLost _ mark)).trans (Beside.mapWords _ fun _ _ => Stream.applyCue_words _ _).kept
  change RangesKept s (match (s.opening mark).frame with
    | some f => (if (s.opening mark).membership.drives then ((s.opening mark).driveFrame f).finishClosing
        else (s.opening mark).driveNothing).checkLeft
    | none => s.opening mark)
  split
  · refine (hopen.trans ?_).trans (.checkLeft _)
    split
    · exact (RangesKept.driveFrame _ _).trans (Beside.finishClosing _).kept
    · exact .driveNothing _
  · exact hopen

theorem RangesKept.frameStarts (s : State) (mark : Bool) (arb : List Halves) :
    RangesKept s (s.frameStarts mark arb) := by
  unfold State.frameStarts
  split
  · dsimp only
    split
    · exact (RangesKept.cutShort s arb).trans (.openFrame _ _)
    · exact .cutShort s arb
  · exact .refl s

/-! ### Timers, pins and registers -/

theorem Beside.quietWaitEnds (s : State) : Beside s s.quietWaitEnds := by
  unfold State.quietWaitEnds
  split
  · exact .of_same rfl
  · exact .refl s

theorem Beside.frameTimerEnds (s : State) : Beside s s.frameTimerEnds := by
  unfold State.frameTimerEnds
  split
  · exact .of_same rfl
  · exact .refl s

theorem Beside.cueEdge (s : State) (pin : BitVec 2) : Beside s (s.cueEdge pin) := by
  unfold State.cueEdge
  split
  · split
    · exact .raise s _
    · exact .of_same rfl
  · exact .refl s

theorem Beside.writeCommand (s : State) (code stream : BitVec 4) : Beside s (s.writeCommand code stream) := by
  unfold State.writeCommand
  split
  · dsimp only
    split
    · exact Beside.trans (t := { s with command := _, rejected := false }) (.of_same rfl) (.takeCommand _)
    · exact .of_same rfl
  · exact .of_same rfl

theorem RangesKept.writeStationControl (s : State) (v : Word) : RangesKept s (s.writeStationControl v) := by
  have hcontrol := RangesKept.writeControl s (v.getLsbD 0) (v.getLsbD 1) (v.getLsbD 2)
  unfold State.writeStationControl
  dsimp only
  split
  · exact hcontrol.trans (Beside.pump _).kept
  · exact hcontrol

theorem Beside.writeProfileAddress (s : State) (v : Word) : Beside s (s.writeProfileAddress v) := by
  unfold State.writeProfileAddress
  split
  · exact .of_same rfl
  · exact .refl s

theorem Beside.clearStreamEvents (s : State) (v : Word) : Beside s (s.clearStreamEvents v) := by
  refine .mapWords s ?_
  exact fun _ _ => rfl

theorem RangesKept.hostWriteAt (s : State) (offset bytes : Nat) (v : Word) :
    RangesKept s (s.hostWriteAt offset bytes v) := by
  unfold State.hostWriteAt State.writeRegister
  split
  · exact .refl s
  · repeat' split
    · exact .writeStationControl s v
    · exact (Beside.writeProfileAddress s v).kept
    · exact (Beside.writeCommand s _ _).kept
    · exact Beside.kept (.of_same rfl)
    · exact Beside.kept (.of_same rfl)
    · exact Beside.kept (.of_same rfl)
    · exact (Beside.clearStreamEvents s v).kept
    · exact Beside.kept (.of_same rfl)
    · exact .refl s

/-! ### Every command, and every step -/

theorem RangesKept.exec {s t : State} {c : Instr} (ht : exec c s = .next t) : RangesKept s t := by
  have pumped : ∀ u : State, RangesKept s u → RangesKept s u.pump := fun u h => h.trans (Beside.pump u).kept
  have guarded : ∀ (p : Prop) [Decidable p] (u : State), RangesKept s u →
      RangesKept s (if p then u.pump else s) := fun p _ u h => by
    split
    · exact pumped u h
    · exact .refl s
  have lowered : ∀ b : Bool, RangesKept s { s.resetValues with rstnLow := b } := fun b =>
    (RangesKept.resetValues s).trans (Beside.kept (.of_same rfl))
  cases c with
  | powerOn =>
    cases ht
    exact ⟨fun _ => countsInRange_of_dropped rfl (Nat.zero_le 5) nofun nofun rfl rfl,
      fun _ => writeQueuesBounded_of_none rfl⟩
  | rstn => cases ht; exact lowered true
  | rstnRise =>
    cases ht
    split
    · exact lowered false
    · exact .refl s
  | start | leave | reset | openCmd | closeCmd | standingCmd | profileAddressWrite | eventsWrite
  | streamEventsWrite | eventEnableWrite | streamEventEnableWrite | registerWrite
  | commandCodeUnknown => cases ht; exact .hostWriteAt s _ _ _
  | entryCapture | cueoutPulseEnd => cases ht; exact Beside.kept (.of_same rfl)
  | cueEdge => cases ht; exact (Beside.cueEdge s _).kept
  | quietWaitExpiry => cases ht; exact (Beside.quietWaitEnds s).kept
  | frameTimerExpiry => cases ht; exact (Beside.frameTimerEnds s).kept
  | frameStart => cases ht; exact pumped _ (.frameStarts s _ _)
  | bootstrap => cases ht; exact guarded _ _ (.frameStarts s _ _)
  | headerArrival | damagedHeader => cases ht; exact pumped _ (.takeHeader s _)
  | winRecordExpiry | damageLimit => cases ht; exact guarded _ _ (.takeHeader s _)
  | cellArrival => cases ht; exact pumped _ (.cellArrives s _)
  | readbackCollision => cases ht; exact guarded _ _ (.cellArrives s _)
  | censusCellArrival => cases ht; exact pumped _ (.censusArrives s _)
  | joinAttemptsLimit | censusReadbackLimit => cases ht; exact guarded _ _ (.censusArrives s _)
  | profileReadDone => cases ht; exact .profileRead s _
  | profileFault => cases ht; exact .profileBusError s
  | sendDescriptorRead =>
    cases ht; exact pumped _ (Beside.endRead s true fun _ _ h => sendDescriptorEnd_words h).kept
  | sendBufferRead =>
    cases ht; exact pumped _ (Beside.endRead s true fun _ _ h => sendBufferEnd_words h).kept
  | listenDescriptorRead =>
    cases ht; exact pumped _ (Beside.endRead s false fun _ _ h => listenDescriptorEnd_words h).kept
  | sendStatusWrite =>
    cases ht; exact pumped _ (Beside.endWrite s true fun _ _ h st => (sendStatusEnd_words h st).le).kept
  | sendHandBack =>
    cases ht; exact pumped _ (Beside.endWrite s true fun _ _ h st => (sendHandBackEnd_words h st).le).kept
  | listenWordWrite =>
    cases ht; exact pumped _ (Beside.endWrite s false fun _ _ h => listenWordsEnd_words h).kept
  | listenStatusWrite =>
    cases ht; exact pumped _ (Beside.endWrite s false fun _ _ h st => (listenStatusEnd_words h st).le).kept
  | listenHandBack =>
    cases ht; exact pumped _ (Beside.endWrite s false fun _ _ h st => (listenHandBackEnd_words h st).le).kept
  | sendBusError | listenBusError => cases ht; exact pumped _ (Beside.busError s _).kept

/-- Settles O59: every operation of the model keeps the counts and the write queues in their ranges, so every
command does. -/
theorem everyStepKeepsTheCounts : Obligations.EveryStepKeepsTheCounts :=
  ⟨keeps_of_exec CountsInRange (fun _ _ h => h) fun _ _ _ h ht => (RangesKept.exec ht).counts h,
    keeps_of_exec WriteQueuesBounded (fun _ _ h => h) fun _ _ _ h ht => (RangesKept.exec ht).words h⟩

end Sys2Proof.Machine
end

section
/-! PROOFS. The fifth damaged header of a cycle (R71, R73, R76, R133, R137). -/

namespace Sys2Proof.Machine

open Sys2Proof

/-! ### A command outside MEMBER (R187, R190) -/

/-- Outside MEMBER a command that is taken can set the standing word, and touches no stream. -/
theorem State.takeCommand_of_not_member {s : State} (hm : s.membership ≠ .member) :
    ∃ standing result events, s.takeCommand
      = { s with command := none, standing := standing, lastResult := result, events := events }
      ∧ ∀ e : StationEvent, e ≠ .commandDone → events.getLsbD e.bit = s.events.getLsbD e.bit := by
  cases hc : s.command with
  | none =>
    have htaken : s.takeCommand = s := by simp only [State.takeCommand, hc]
    exact ⟨s.standing, s.lastResult, s.events, htaken.trans (by rw [← hc]), fun _ _ => rfl⟩
  | some c =>
    rw [State.takeCommand, hc]
    have hraised : ∀ e : StationEvent, e ≠ .commandDone →
        (s.raise .commandDone).events.getLsbD e.bit = s.events.getLsbD e.bit := fun e he => by
      rw [State.raise_bit, beq_false_of_ne (Ne.symm he), Bool.or_false]
    have hrefused : ∀ n, s.judgeOpen n = .notMember ∧ s.judgeClose n = .notMember := fun n =>
      ⟨if_pos hm, if_pos hm⟩
    obtain ⟨code, n⟩ := c
    cases code with
    | openStream | closeStream =>
      refine ⟨s.standing, .notMember, (s.raise .commandDone).events, ?_, hraised⟩
      simp [State.takeThis, State.judgeCommand, hrefused, State.raise]
    | setStanding =>
      by_cases ho : s.membership = .offline
      · refine ⟨s.standing, .notMember, (s.raise .commandDone).events, ?_, hraised⟩
        simp [State.takeThis, State.judgeCommand, State.judgeStanding, ho, State.raise]
      · refine ⟨some s.commandArgument, .done, (s.raise .commandDone).events, ?_, hraised⟩
        simp [State.takeThis, State.judgeCommand, State.judgeStanding, ho, State.raise,
          State.performCommand]

/-! ### What is left of membership -/

/-- A station whose membership has ended knows nothing of the trunk, drives nothing and claims nothing, and no
stream of it is open (R35, R73, R76, R94, R119). -/
structure MembershipEnded (s : State) : Prop where
  slots : s.slots = Vector.replicate 24 Slot.reset
  peers : s.peers = Vector.replicate 32 Peer.never
  openQueue : s.openQueue = []
  wins : s.wins = []
  chosenBid : s.chosenBid = none
  vetoOwed : s.vetoOwed = false
  drive : s.drive = Drive.nothing
  cuePending : s.cuePending = 0
  streams : EveryStream (fun st => st.isOpen = false) s

theorem State.enterOffline_streams (s : State) :
    s.enterOffline.streams = Vector.replicate 16 none := rfl

theorem State.enterOffline_events (s : State) : s.enterOffline.events = s.events := by
  simp [State.enterOffline, State.clearMap, State.clearPeers, State.dropStreams, State.dropClaims,
    State.emptyArbiter, State.stopTrunk, State.unalign]

theorem MembershipEnded.enterOffline (s : State) : MembershipEnded (s.enterOffline.raise .lost) :=
  ⟨rfl, rfl, rfl, rfl, rfl, rfl, rfl, rfl, fun n st hn => by
    simp [State.enterOffline_streams] at hn⟩

/-- A station that knows no slot and bids for none has no part in the map for any stream (R130). -/
theorem State.streamHasPart_cleared (s : State) (n : Fin 16) (st : Stream) :
    s.dropClaims.clearMap.streamHasPart n st = false := by
  simp [State.streamHasPart, State.clearMap, State.dropClaims, State.emptyArbiter, ChosenBid.ofStream,
    Slot.reset, Entry.hasPartUnder]

/-- Entry to LOST closes each stream (R137). -/
theorem State.enterLost_stream {s : State} {n : Fin 16} {st : Stream} (h : s.streams[n] = some st) :
    s.enterLost.streams[n] = some (st.close .lost false) := by
  rw [← State.streamHasPart_cleared s n st]
  exact State.closeEvery_stream (s := s.dropClaims.clearMap) h .lost

theorem State.enterLost_no_stream {s : State} {n : Fin 16} (h : s.streams[n] = none) :
    s.enterLost.streams[n] = none := by
  have hnone : s.dropClaims.clearMap.streams[n.val] = none := h
  change (s.dropClaims.clearMap.closeEvery .lost).streams[n.val] = none
  simp [State.closeEvery, hnone]

theorem MembershipEnded.enterLost (s : State) : MembershipEnded s.enterLost where
  slots := State.closeEvery_unknown (s := s.dropClaims.clearMap) .lost rfl
  peers := rfl
  openQueue := rfl
  wins := by simp [State.enterLost, State.clearPeers, State.closeEvery, State.clearMap, State.dropClaims,
    State.emptyArbiter]
  chosenBid := by simp [State.enterLost, State.clearPeers, State.closeEvery, State.clearMap, State.dropClaims,
    State.emptyArbiter]
  vetoOwed := by simp [State.enterLost, State.clearPeers, State.closeEvery, State.clearMap, State.dropClaims]
  drive := by simp [State.enterLost, State.clearPeers, State.closeEvery, State.clearMap, State.dropClaims]
  cuePending := by simp [State.enterLost, State.clearPeers, State.closeEvery, State.clearMap, State.dropClaims]
  streams n st hn := by
    cases hs : s.streams[n] with
    | none =>
      rw [State.enterLost_no_stream hs] at hn
      cases hn
    | some x =>
      rw [State.enterLost_stream hs] at hn
      cases hn
      exact Stream.close_isOpen _ _ _

theorem State.takeCommand_stream_of_not_member {s : State} (hm : s.membership ≠ .member) (n : Fin 16) :
    s.takeCommand.pump.streams[n] = (s.streams[n]).map Stream.issue := by
  obtain ⟨standing, result, events, htaken, -⟩ := State.takeCommand_of_not_member hm
  rw [State.pump_get, htaken]

/-- The command that a header takes then, and the engines, leave it so (R187). -/
theorem MembershipEnded.takes {s : State} (h : MembershipEnded s) (hm : s.membership ≠ .member) :
    MembershipEnded s.takeCommand.pump := by
  have hopen : EveryStream (fun st => st.isOpen = false) s.takeCommand.pump := fun n st hn => by
    rw [State.takeCommand_stream_of_not_member hm] at hn
    obtain ⟨x, hx, rfl⟩ := Option.map_eq_some_iff.1 hn
    rw [Stream.isOpen_of_placing (Stands.issue x).placing]
    exact h.streams n x hx
  obtain ⟨standing, result, events, htaken, -⟩ := State.takeCommand_of_not_member hm
  rw [htaken] at hopen ⊢
  exact ⟨by simpa using h.slots, by simpa using h.peers, by simpa using h.openQueue, by simpa using h.wins,
    by simpa using h.chosenBid, by simpa using h.vetoOwed, by simpa using h.drive,
    by simpa using h.cuePending, hopen⟩

/-! ### The streams at entry to LOST -/

/-- What becomes of a stream at entry to LOST: one that is open or CLOSING is CLOSED with reason LOST, one that
is CLOSED stays so, and no event is set (R133, R137). -/
structure LostFrom (st st' : Stream) : Prop where
  defn : st'.defn = st.defn
  event : st'.event = st.event
  ends : st.isOpen = true ∨ st.isSend = true ∧ st.state = .closing →
    st'.state = .closed ∧ st'.closeReason = .lost
  closed : st.state = .closed → st'.state = .closed ∧ st'.closeReason = st.closeReason

theorem LostFrom.close (st : Stream) : LostFrom st (st.close .lost false) := by
  cases ho : st.isOpen with
  | true =>
    obtain ⟨hreason, hstate, hevent⟩ := Stream.close_outcome ho .lost false
    exact ⟨Stream.close_defn _ _ _, by simpa [CloseReason.signals, CloseReason.passage] using hevent,
      fun _ => ⟨by simpa using hstate, hreason⟩, fun hc => absurd hc (Stream.state_ne_closed ho)⟩
  | false =>
    rw [Stream.close_of_not_open ho]
    split
    · rename_i hclosing
      exact ⟨rfl, rfl, fun _ => ⟨rfl, rfl⟩, fun hc => by simp [hclosing.2] at hc⟩
    · rename_i hother
      refine ⟨rfl, rfl, ?_, fun hc => ⟨hc, rfl⟩⟩
      rintro (h | h)
      · rw [ho] at h
        cases h
      · exact absurd h hother

theorem LostFrom.issue {st st' : Stream} (h : LostFrom st st') : LostFrom st st'.issue := by
  rw [Stream.issue_eq]
  exact ⟨h.defn, h.event, h.ends, h.closed⟩

/-! ### The fifth damaged header -/

/-- The damaged header that brings the damage count to 5 is no header of the map: it ends membership (R71,
R76). -/
theorem State.takeHeader_fifth {s : State} {f : Frame} (hd : s.membership.drives = true)
    (hf : s.frame = some f) (hh : f.header = .due) (hcount : s.damageCount = 4) (arb : List Halves) :
    s.takeHeader (.damaged arb)
      = ({ s.setHeader .damaged with damageCount := 5 } : State).lose.takeCommand := by
  have hdue := State.headerDue_eq (Membership.receives_of_maps (Membership.maps_of_drives hd)) hf hh
  have hfive : (s.setHeader .damaged).damageCount + 1 = 5 := congrArg (· + 1) hcount
  simp only [State.takeHeader, hdue]
  unfold State.damagedHeader
  dsimp only
  rw [hfive, if_pos (show (s.setHeader .damaged).membership.drives = true from hd), if_pos le_rfl]

theorem exec_damageLimit {s : State} {f : Frame} (hd : s.membership.drives = true) (hf : s.frame = some f)
    (hh : f.header = .due) (hcount : s.damageCount = 4) (arb : List Halves) :
    exec (.damageLimit arb) s
      = .next ({ s.setHeader .damaged with damageCount := 5 } : State).lose.takeCommand.pump := by
  rw [← State.takeHeader_fifth hd hf hh hcount arb]
  have hlimit : s.atDamageLimit = true := by simp [State.atDamageLimit, hd, hcount]
  exact congrArg Host.Outcome.next (if_pos hlimit)

/-- LOST is raised, and LEFT is left as it was, where a station that raised LOST takes a command (R73, R76). -/
theorem State.lost_events {s u : State} (hm : u.membership ≠ .member)
    (hu : u.events = (s.raise .lost).events) : u.takeCommand.pump.events.getLsbD 2 = true
      ∧ u.takeCommand.pump.events.getLsbD 3 = s.events.getLsbD 3 := by
  obtain ⟨standing, result, events, htaken, hevents⟩ := State.takeCommand_of_not_member hm
  rw [htaken, State.pump_events]
  rw [hu] at hevents
  have hlost := (hevents .lost (by decide)).trans (s.raise_bit .lost .lost)
  have hleft := (hevents .left (by decide)).trans (s.raise_bit .lost .left)
  exact ⟨hlost.trans (Bool.or_true _), hleft.trans (Bool.or_false _)⟩

theorem State.enterLost_events (s : State) : s.enterLost.events = (s.raise .lost).events := by
  simp [State.enterLost, State.clearPeers, State.closeEvery, State.clearMap, State.dropClaims,
    State.emptyArbiter, State.raise]

theorem State.enterLost_damageCount (s : State) : s.enterLost.damageCount = s.damageCount := by
  simp [State.enterLost, State.clearPeers, State.closeEvery, State.clearMap, State.dropClaims,
    State.emptyArbiter]

/-- Settles O24: in MEMBER through entry to LOST, in LEAVING through entry to OFFLINE. -/
theorem fifthDamagedHeaderEndsMembership : Obligations.FifthDamagedHeaderEndsMembership := by
  intro arb s f hd hf hh hcount
  refine ⟨_, exec_damageLimit hd hf hh hcount arb, ?_⟩
  obtain ⟨u, hu⟩ : ∃ u : State, u = { s.setHeader .damaged with damageCount := 5 } := ⟨_, rfl⟩
  have hmembership : u.membership = s.membership := by rw [hu]; rfl
  have hevents : u.events = s.events := by rw [hu]; rfl
  have hstreams : u.streams = s.streams := by rw [hu]; rfl
  have hfive : u.damageCount = 5 := by rw [hu]
  rw [← hu, ← hevents]
  have htrunk : SameTrunk u.lose u.lose.takeCommand.pump := (SameTrunk.takeCommand _).trans (.pump _)
  cases hm : s.membership with
  | member =>
    have hlose : u.lose = u.enterLost := if_neg (by rw [hmembership, hm]; decide)
    rw [hlose] at htrunk ⊢
    have hlost : u.enterLost.membership ≠ .member := nofun
    obtain ⟨hslots, hpeers, hqueue, hwins, hchosen, hveto, hdrive, hcues, hopen⟩ :=
      (MembershipEnded.enterLost u).takes hlost
    obtain ⟨hraised, hleft⟩ := State.lost_events hlost u.enterLost_events
    have hkept : u.enterLost.takeCommand.pump.damageCount = 5 :=
      (htrunk.damageCount.trans u.enterLost_damageCount).trans hfive
    rw [if_pos rfl, if_pos rfl]
    refine ⟨htrunk.membership, hslots, hpeers, hqueue, hwins, hchosen, hveto, hdrive, hcues, hopen, nofun,
      fun _ n st hn => ?_, hraised, hleft, hkept⟩
    rw [State.takeCommand_stream_of_not_member hlost, State.enterLost_stream (by rw [hstreams]; exact hn)]
    obtain ⟨hdefn, hevent, hends, hclosed⟩ := (LostFrom.close st).issue
    exact ⟨_, rfl, hdefn, hevent, hends, hclosed⟩
  | leaving =>
    have hlose : u.lose = u.enterOffline.raise .lost := if_pos (hmembership.trans hm)
    rw [hlose] at htrunk ⊢
    have hoffline : (u.enterOffline.raise .lost).membership ≠ .member := nofun
    obtain ⟨hslots, hpeers, hqueue, hwins, hchosen, hveto, hdrive, hcues, hopen⟩ :=
      (MembershipEnded.enterOffline u).takes hoffline
    obtain ⟨hraised, hleft⟩ := State.lost_events (s := u) hoffline
      (congrArg (· ||| StationEvent.mask .lost) u.enterOffline_events)
    rw [if_neg (by decide), if_neg (by decide)]
    refine ⟨htrunk.membership, hslots, hpeers, hqueue, hwins, hchosen, hveto, hdrive, hcues, hopen,
      fun _ => ?_, nofun, hraised, hleft, htrunk.damageCount⟩
    apply Vector.ext
    intro n hn
    refine (State.takeCommand_stream_of_not_member hoffline ⟨n, hn⟩).trans ?_
    rw [State.raise_streams, State.enterOffline_streams]
    simp
  | _ => rw [hm] at hd; cases hd

end Sys2Proof.Machine
end

section
/-! PROOFS. The choice of words at a header (R65, R124, R126, R128, R129). -/

namespace Sys2Proof.Machine

open Sys2Proof

/-! ### The choice of one stream -/

/-- The stream sends words now: RUNNING or REPAIRING, and not awaiting a cue (R124). -/
def Stream.SendsNow (st : Stream) : Prop :=
  (st.state = .running ∨ st.state = .repairing) ∧ st.awaiting = false

theorem Stream.sending_iff (st : Stream) : st.sending = true ↔ st.SendsNow := by
  simp [Stream.sending, Stream.SendsNow]

/-- What keeps a stream's words back at a header: STALL for one of its slots at an intact one, and damage itself,
of the streams that are PACED (R65, R128). -/
def StallHolds (header : HeaderRx) (f : Frame) (k : Station) (old new : Vector Slot 24) (st : Stream) : Prop :=
  match header with
  | .intact bits => st.defn.cls = .paced ∧ st.SendsNow ∧ ∃ i : Fin 24,
      (headerFields f bits).stall.getLsbD i.val = true
        ∧ (HeldAs old k st.defn.label i ∨ HeldAs new k st.defn.label i)
  | .damaged _ => st.defn.cls = .paced

theorem Stream.stallSeen_iff (k : Station) (old new : Vector Slot 24) (stall : BitVec 24) (st : Stream) :
    st.stallSeen k old new stall = true ↔ ∃ i : Fin 24, stall.getLsbD i.val = true
      ∧ (HeldAs old k st.defn.label i ∨ HeldAs new k st.defn.label i) := by
  simp only [Stream.stallSeen, List.any_eq_true, List.mem_append, mem_ownHoldings]
  exact exists_congr fun i => and_comm

theorem Stream.heldByStall_iff {f : Frame} {bits : HeaderBits} {k : Station} {old new : Vector Slot 24}
    {st : Stream} (hs : st.isSend = true) :
    st.heldByStall k old new (headerFields f bits).stall = true
      ↔ StallHolds (.intact bits) f k old new st := by
  simp [Stream.heldByStall, hs, StallHolds, Stream.stallSeen_iff, Stream.sending_iff, and_assoc]

/-- The words and the discards that a send stream has chosen for an ordinary frame, where `stall` tells whether
its words are kept back (R124, R126). -/
def Stream.WordsChosen (k : Station) (slots : Vector Slot 24) (stall : Prop) (st : Stream) : Prop :=
  (st.SendsNow → ¬ stall → st.chosen = (usableSlots k slots st.defn.label).take st.ready.length)
  ∧ (¬ st.SendsNow ∨ stall → st.chosen = [])
  ∧ (st.defn.cls = .lossy ∧ (st.state = .repairing ∨ st.state = .suspended) ∧ st.awaiting = false →
      st.discards = min (st.defn.width - st.chosen.length) (st.ready.length - st.chosen.length))
  ∧ (st.defn.cls = .paced ∨ st.state = .running → st.discards = 0)

theorem Stream.discarding_iff (st : Stream) : st.discarding = true
    ↔ st.defn.cls = .lossy ∧ (st.state = .repairing ∨ st.state = .suspended) ∧ st.awaiting = false := by
  simp [Stream.discarding, and_assoc]

theorem Stream.choiceCount_of_held {st : Stream} {k : Station} {slots : Vector Slot 24} {hold : Bool}
    (h : ¬ st.SendsNow ∨ st.defn.cls = .paced ∧ hold = true) : st.choiceCount k slots hold = 0 := by
  refine if_neg fun hc => ?_
  simp only [Bool.and_eq_true, Bool.not_eq_true', Bool.and_eq_false_iff, beq_eq_false_iff_ne,
    Stream.sending_iff] at hc
  obtain ⟨⟨-, hsends⟩, hfree⟩ := hc
  rcases h with h | ⟨hpaced, hhold⟩
  · exact h hsends
  · rcases hfree with hfree | hfree
    · exact hfree hpaced
    · rw [hhold] at hfree
      cases hfree

theorem Stream.choiceCount_of_free {st : Stream} {k : Station} {slots : Vector Slot 24} {hold : Bool}
    (hs : st.isSend = true) (hsends : st.SendsNow) (hfree : ¬ (st.defn.cls = .paced ∧ hold = true)) :
    st.choiceCount k slots hold = min (usableSlots k slots st.defn.label).length st.ready.length := by
  refine if_pos ?_
  have hsending := st.sending_iff.2 hsends
  rw [hs, hsending]
  simpa [imp_iff_not_or] using hfree

/-- A choice takes ready words for the lowest usable slots, and plans discards for what is missing of the
width (R124, R126). -/
theorem Stream.chooseWords_chosen {k : Station} {slots : Vector Slot 24} {hold : Bool} {stall : Prop}
    {st : Stream} (hs : st.isSend = true) (hstall : st.defn.cls = .paced ∧ hold = true ↔ stall) :
    (st.chooseWords k slots hold).WordsChosen k slots stall := by
  have hlength : ((usableSlots k slots st.defn.label).take (st.choiceCount k slots hold)).length
      = st.choiceCount k slots hold := by
    rw [List.length_take, min_eq_left]
    unfold Stream.choiceCount
    split
    · exact min_le_left _ _
    · exact Nat.zero_le _
  refine ⟨fun hsends hfree => ?_, fun hheld => ?_, fun hlossy => ?_, fun hother => ?_⟩
  · have hcount : st.choiceCount k slots hold = _ :=
      Stream.choiceCount_of_free hs hsends fun h => hfree (hstall.1 h)
    change (usableSlots k slots st.defn.label).take (st.choiceCount k slots hold) = _
    rw [hcount, min_comm, ← List.take_take, List.take_length]
    rfl
  · have hcount : st.choiceCount k slots hold = 0 :=
      Stream.choiceCount_of_held (hheld.imp id fun h => hstall.2 h)
    change (usableSlots k slots st.defn.label).take (st.choiceCount k slots hold) = _
    rw [hcount, List.take_zero]
  · have hdiscarding : st.discarding = true := st.discarding_iff.2 hlossy
    change (if st.isSend && st.discarding then _ else 0) = min (_ - ((usableSlots k slots
      st.defn.label).take (st.choiceCount k slots hold)).length) (_ - ((usableSlots k slots
      st.defn.label).take (st.choiceCount k slots hold)).length)
    rw [hs, hdiscarding, hlength]
    rfl
  · have hdiscarding : st.discarding = false := by
      rw [Bool.eq_false_iff, Ne, Stream.discarding_iff]
      rintro ⟨hlossy, hstate, -⟩
      rcases hother with h | h
      · exact absurd (hlossy.symm.trans h) (by decide)
      · rcases hstate with hr | hr <;> exact absurd (h.symm.trans hr) (by decide)
    change (if st.isSend && st.discarding then _ else 0) = 0
    rw [hs, hdiscarding]
    rfl

/-- What a header has made a stream choose: nothing for a census frame, its words for an ordinary one; and what an
intact header of an ordinary frame shows as STALLED (R124, R128, R129). -/
def HeaderChose (header : HeaderRx) (f : Frame) (s : State) (slots : Vector Slot 24) (st : Stream) : Prop :=
  (∀ bits, header = .intact bits → f.census = false →
    (st.stalled = true ↔ StallHolds header f s.number s.slots slots st)
      ∧ (st.stalled = false → st.stallRun = false))
  ∧ (f.census = false → s.index = 255 → st.chosen = [] ∧ st.discards = 0)
  ∧ (f.census = true ∨ s.index ≠ 255 →
    st.WordsChosen s.number slots (StallHolds header f s.number s.slots slots st))

theorem State.nextOrdinary_iff (s : State) (f : Frame) :
    s.nextOrdinary f = true ↔ f.census = true ∨ s.index ≠ 255 := by simp [State.nextOrdinary]

theorem HeaderChose.unheard {s y : State} {f : Frame} {arb : List Halves} {v : Stream} (hs : v.isSend = true)
    (hindex : y.index = s.index) : HeaderChose (.damaged arb) f s y.slots
      (if y.nextOrdinary f then v.chooseWords s.number y.slots true else v.chooseNone) := by
  refine ⟨nofun, fun hc hi => ?_, fun hnext => ?_⟩
  · rw [if_neg (by rw [State.nextOrdinary_iff, hindex]; simp [hc, hi])]
    exact ⟨rfl, rfl⟩
  · rw [if_pos ((State.nextOrdinary_iff y f).2 (by rwa [hindex]))]
    exact Stream.chooseWords_chosen hs (and_iff_left rfl)

theorem HeaderChose.heard {s y : State} {f : Frame} {bits : HeaderBits} {v : Stream} (hs : v.isSend = true)
    (hindex : y.index = s.index) : HeaderChose (.intact bits) f s y.slots
      (let st := if f.census then v else v.noteStall s.number s.slots y.slots (headerFields f bits).stall
       if y.nextOrdinary f then
         st.chooseWords s.number y.slots (st.heldByStall s.number s.slots y.slots (headerFields f bits).stall)
       else st.chooseNone) := by
  obtain ⟨w, hw⟩ : ∃ w, w = if f.census then v
    else v.noteStall s.number s.slots y.slots (headerFields f bits).stall := ⟨_, rfl⟩
  have hws : w.isSend = true := by
    rw [hw]
    split
    · exact hs
    · rwa [Stream.isSend_congr (Stream.placing_eq_iff.1 (Stands.noteStall _ _ _ _ v).placing).1]
  dsimp only
  rw [← hw]
  have hheld := Stream.heldByStall_iff (f := f) (bits := bits) (k := s.number) (old := s.slots)
    (new := y.slots) hws
  refine ⟨fun b hb hc => ?_, fun hc hi => ?_, fun hnext => ?_⟩
  · cases hb
    have hnoted : w.stalled = w.heldByStall s.number s.slots y.slots (headerFields f bits).stall
        ∧ (w.stalled = false → w.stallRun = false) := by
      rw [hw, if_neg (by rw [hc]; decide), Stream.noteStall, if_pos hs]
      exact ⟨rfl, fun h => (congrArg (v.stallRun && ·) h).trans (Bool.and_false _)⟩
    split
    · exact ⟨(Bool.eq_iff_iff.1 hnoted.1).trans hheld, hnoted.2⟩
    · exact ⟨(Bool.eq_iff_iff.1 hnoted.1).trans hheld, hnoted.2⟩
  · rw [if_neg (by rw [State.nextOrdinary_iff, hindex]; simp [hc, hi])]
    exact ⟨rfl, rfl⟩
  · rw [if_pos ((State.nextOrdinary_iff y f).2 (by rwa [hindex]))]
    exact Stream.chooseWords_chosen hws ((and_iff_right_of_imp fun h => (hheld.1 h).1).trans hheld)

/-! ### The rest of the header -/

/-- Every stream that is open in `t` stands there as in `s` but for its bus operation, and the slots held under its
label are in the release intent in `t` as in `s` (R49, R52). -/
structure ChoiceStands (s t : State) : Prop where
  trunk : SameTrunk s t
  streams : ∀ (n : Fin 16) (st : Stream) (l : Label), t.streams[n] = some st → st.openLabel = some l →
    ∃ x, s.streams[n] = some x ∧ Sys2Proof.Stream.still st = Sys2Proof.Stream.still x
      ∧ ∀ i : Fin 24, HeldAs s.slots s.number l i → t.slots[i].intent = s.slots[i].intent

theorem ChoiceStands.refl (s : State) : ChoiceStands s s :=
  ⟨.refl s, fun _ st _ hn _ => ⟨st, hn, rfl, fun _ _ => rfl⟩⟩

theorem Stream.openLabel_of_still {st x : Stream}
    (h : Sys2Proof.Stream.still st = Sys2Proof.Stream.still x) : st.openLabel = x.openLabel := by
  have hlabel := congrArg Stream.openLabel h
  exact hlabel

theorem ChoiceStands.trans {s t u : State} (a : ChoiceStands s t) (b : ChoiceStands t u) :
    ChoiceStands s u := by
  refine ⟨a.trunk.trans b.trunk, fun n st l hn hl => ?_⟩
  obtain ⟨x, hx, hstill, hintent⟩ := b.streams n st l hn hl
  obtain ⟨v, hv, hstill', hintent'⟩ := a.streams n x l hx ((Stream.openLabel_of_still hstill).symm.trans hl)
  refine ⟨v, hv, hstill.trans hstill', fun i hi => (hintent i ?_).trans (hintent' i hi)⟩
  rwa [HeldAs, a.trunk.entries, a.trunk.number]

/-- An operation that touches neither the map nor a stream. -/
theorem ChoiceStands.of_same {s t : State} (trunk : SameTrunk s t) (slots : t.slots = s.slots)
    (streams : t.streams = s.streams) : ChoiceStands s t :=
  ⟨trunk, fun _ st _ hn _ => ⟨st, by rw [← streams]; exact hn, rfl, fun _ _ => by rw [slots]⟩⟩

theorem ChoiceStands.mapStreams (s : State) {g : Fin 16 → Stream → Stream}
    (hg : ∀ n x l, (g n x).openLabel = some l →
      Sys2Proof.Stream.still (g n x) = Sys2Proof.Stream.still x) : ChoiceStands s (s.mapStreams g) := by
  refine ⟨.mapStreams s g, fun n st l hn hl => ?_⟩
  rw [Fin.getElem_fin, State.mapStreams_get] at hn
  obtain ⟨x, hx, rfl⟩ := Option.map_eq_some_iff.1 hn
  exact ⟨x, hx, hg _ x l hl, fun i _ => by rw [State.mapStreams_slots]⟩

theorem Stream.openLabel_eq_some {st : Stream} {l : Label} (h : st.openLabel = some l) :
    st.isSend = true ∧ st.state.openSend = true ∧ st.defn.label = l := by
  unfold Stream.openLabel at h
  split at h
  · rename_i ho
    rw [Bool.and_eq_true] at ho
    exact ⟨ho.1, ho.2, Option.some.inj h⟩
  · cases h

/-- A closure of one stream asks no slot into the release intent that another open stream holds (R52). -/
theorem ChoiceStands.closeOne (s : State) (n : Fin 16) : ChoiceStands s (s.closeOne .labelClash n) := by
  refine ⟨.closeOne s _ n, fun m st l hm hl => ?_⟩
  obtain ⟨hs, ho, hlabel⟩ := Stream.openLabel_eq_some hl
  have hst : s.streams[m] = some st := by
    rw [State.closeOne_stream] at hm
    split at hm
    · obtain ⟨x, -, rfl⟩ := Option.map_eq_some_iff.1 hm
      exact absurd (Stream.isOpen_of_openSend hs ho) (by simp [Stream.close_isOpen])
    · exact hm
  refine ⟨st, hst, rfl, ?_⟩
  rintro i ⟨h, damage, he, hk, hh⟩
  rw [Bool.eq_iff_iff, State.closeOne_intent, he]
  constructor
  · rintro ⟨-, hi | ⟨h', damage', he', -, hnone⟩⟩
    · exact hi
    · cases he'
      exact absurd (hlabel.trans hh.symm) (hnone m st hm hs ho)
  · exact fun hi => ⟨.inl ⟨h, damage, rfl, hk⟩, .inl hi⟩

theorem ChoiceStands.dropChosen (s : State) (b : Option ChosenBid) :
    ChoiceStands s { s with chosenBid := b } :=
  .of_same ⟨fun _ => rfl, rfl, rfl, rfl, rfl, rfl, rfl, rfl, rfl, rfl⟩ rfl rfl

theorem ChoiceStands.chooseAtHeader (s : State) (f : Frame) : ChoiceStands s (s.chooseAtHeader f) := by
  unfold State.chooseAtHeader
  split
  · exact State.chooseBid_keeps (ChoiceStands s) (fun _ _ h => h.trans (.closeOne _ _))
      (fun _ b h => h.trans (.dropChosen _ b)) s (.refl s)
  · exact .dropChosen s none

theorem ChoiceStands.headerEnd (s : State) (f : Frame) : ChoiceStands s (s.headerEnd f) := by
  have hdriven : ChoiceStands s { s with bidDriven := none } :=
    .of_same ⟨fun _ => rfl, rfl, rfl, rfl, rfl, rfl, rfl, rfl, rfl, rfl⟩ rfl rfl
  have hclosed : ChoiceStands s ({ s with bidDriven := none } : State).finishClosing :=
    hdriven.trans (.mapStreams _ fun _ x l hl =>
      congrArg _ (Stream.finishClosing_of_open (Stream.openLabel_eq_some hl).2.1))
  unfold State.headerEnd
  dsimp only
  split
  · exact hclosed
  · refine hclosed.trans (.mapStreams _ fun _ x _ _ => ?_)
    unfold Stream.pollRingEnd
    split <;> rfl

theorem ChoiceStands.pump (s : State) : ChoiceStands s s.pump := by
  refine ⟨.pump s, fun n st l hn _ => ?_⟩
  rw [State.pump_get] at hn
  obtain ⟨x, hx, rfl⟩ := Option.map_eq_some_iff.1 hn
  exact ⟨x, hx, x.issue_still, fun i _ => by rw [State.pump_slots]⟩

/-- The slots that an open stream may use are those it could use when it chose (R48). -/
theorem usableSlots_congr {k : Station} {v w : Vector Slot 24} {l : Label}
    (entries : ∀ i : Fin 24, w[i].entry = v[i].entry)
    (intent : ∀ i : Fin 24, HeldAs v k l i → w[i].intent = v[i].intent) :
    usableSlots k w l = usableSlots k v l := by
  rw [usableSlots, usableSlots, ownHoldings_congr entries]
  refine List.filter_congr fun i hi => ?_
  rw [intent i ((mem_ownHoldings v k l i).1 hi)]

/-! ### The whole header -/

/-- What the end of a header keeps of the choice: the streams that are then open, each with the choice it made by a
map of the same entries and of the same usable slots. -/
def ChoiceShown (header : HeaderRx) (f : Frame) (s t : State) : Prop :=
  ∀ (n : Fin 16) (st : Stream), t.streams[n] = some st → st.isSend = true → st.state.openSend = true →
    ∃ slots : Vector Slot 24, (∀ i : Fin 24, t.slots[i].entry = slots[i].entry)
      ∧ usableSlots s.number t.slots st.defn.label = usableSlots s.number slots st.defn.label
      ∧ HeaderChose header f s slots st

/-- A choice of every stream is shown at the end of the header. -/
theorem ChoiceStands.shown {header : HeaderRx} {f : Frame} {s y t : State} {g : Stream → Stream}
    (number : y.number = s.number) (stands : ∀ v, Stands v (g v))
    (chose : ∀ v : Stream, v.isSend = true → HeaderChose header f s y.slots (g v))
    (h : ChoiceStands (y.mapStreams fun _ => g) t) : ChoiceShown header f s t := by
  intro n st hn hs ho
  obtain ⟨x, hx, hstill, hintent⟩ := h.streams n st st.defn.label hn (by simp [Stream.openLabel, hs, ho])
  rw [Fin.getElem_fin, State.mapStreams_get] at hx
  obtain ⟨v, -, rfl⟩ := Option.map_eq_some_iff.1 hx
  have hsend : v.isSend = true := by
    rw [← Stream.isSend_congr (Stream.placing_eq_iff.1 (stands v).placing).1]
    exact (congrArg Stream.isSend hstill).symm.trans hs
  have hchose : HeaderChose header f s y.slots (Sys2Proof.Stream.still (g v)) := chose v hsend
  rw [← hstill] at hchose
  rw [State.mapStreams_number, number] at hintent
  refine ⟨y.slots, fun i => (h.trunk.entries i).trans (by rw [State.mapStreams_slots]), ?_, hchose⟩
  rw [State.mapStreams_slots] at hintent
  exact usableSlots_congr (fun i => (h.trunk.entries i).trans (by rw [State.mapStreams_slots])) hintent

/-- A station that the header takes to OFFLINE has no stream (R101). -/
theorem ChoiceShown.checkLeft {header : HeaderRx} {f : Frame} {s t : State}
    (h : ChoiceShown header f s t.pump) : ChoiceShown header f s t.checkLeft.pump := by
  unfold State.checkLeft
  split
  · intro n st hn
    rw [State.pump_get, State.raise_streams, State.enterOffline_streams] at hn
    simp at hn
  · exact h

theorem State.judgeHeader_shown (s : State) (x : HeaderStatus) (bits : HeaderBits) (f : Frame) :
    ChoiceShown (.intact bits) f s ((s.setHeader x).judgeHeader bits f).pump := by
  obtain ⟨h, hh⟩ : ∃ h, h = headerFields f bits := ⟨_, rfl⟩
  obtain ⟨w, hw⟩ : ∃ w, w = (s.setHeader x).countWin (arbitrationRead bits) := ⟨_, rfl⟩
  have hmapped := (w.mapHeader_rest h _ fun _ => rfl).1.trans
    ((SameTrunk.commandAndCell (w.mapHeader h) f).trans (.heedCues _ h.cue (w.mapHeader h).commandedStream))
  have hindex := hmapped.index.trans (show w.index = s.index by rw [hw]; rfl)
  have hnumber := hmapped.number.trans (show w.number = s.number by rw [hw]; rfl)
  rw [State.judgeHeader_eq, ← hh, ← hw]
  refine ChoiceShown.checkLeft ?_
  unfold State.afterMap
  generalize ((w.mapHeader h).commandAndCell f).heedCues h.cue (w.mapHeader h).commandedStream = y at *
  have hstands := ((ChoiceStands.chooseAtHeader (y.chooseAll s.slots h.stall f) f).trans
    (.headerEnd _ f)).trans (.pump _)
  unfold State.chooseAll at hstands
  refine ChoiceStands.shown hnumber (fun v => ?_) (fun v hv => ?_) hstands
  · dsimp only
    split
    · split
      · exact .chooseWords _ _ _ _
      · exact (Stands.noteStall _ _ _ _ v).trans (.chooseWords _ _ _ _)
    · split
      · exact .chooseNone _
      · exact (Stands.noteStall _ _ _ _ v).trans (.chooseNone _)
  · rw [hnumber, hh]
    exact HeaderChose.heard hv hindex

theorem State.missHeader_shown {s u : State} (hindex : u.index = s.index) (hnumber : u.number = s.number)
    (arb : List Halves) (f : Frame) : ChoiceShown (.damaged arb) f s (u.missHeader arb f).pump := by
  have hmissed := (u.missMap_rest arb _ fun _ => rfl).1
  have hy := SameTrunk.commandAndCell (u.missMap arb).oweVeto f
  have howed := (u.missMap arb).oweVeto_trunk.1
  have hyindex := ((hy.index.trans howed.index).trans hmissed.index).trans hindex
  have hynumber := ((hy.number.trans howed.number).trans hmissed.number).trans hnumber
  rw [State.missHeader_eq]
  refine ChoiceShown.checkLeft ?_
  unfold State.afterMiss
  generalize (u.missMap arb).oweVeto.commandAndCell f = y at *
  have hstands := (ChoiceStands.headerEnd (y.chooseUnheard f) f).trans (.pump _)
  unfold State.chooseUnheard at hstands
  refine ChoiceStands.shown hynumber (fun v => ?_) (fun v hv => ?_) hstands
  · split
    · exact .chooseWords _ _ _ _
    · exact .chooseNone _
  · rw [hynumber]
    exact HeaderChose.unheard hv hyindex

theorem State.takeHeader_shown {s : State} {f : Frame} (header : HeaderRx) (hj : s.membership.judges = true)
    (hd : s.membership.drives = true → s.damageCount < 4) (hf : s.frame = some f) (hh : f.header = .due)
    (hexpected : ∀ bits, header = .intact bits → f.unexpected = false) :
    ChoiceShown header f s (s.takeHeader header).pump := by
  cases header with
  | intact bits =>
    rw [State.takeHeader_intact hj hf hh (hexpected bits rfl)]
    exact State.judgeHeader_shown s _ bits f
  | damaged arb =>
    rw [State.takeHeader_damaged hj hd hf hh]
    exact State.missHeader_shown rfl rfl arb f

/-- What keeps words back reads the entries of the map alone. -/
theorem stallHolds_congr {f : Frame} {k : Station} {old v w : Vector Slot 24} {st : Stream}
    (entries : ∀ i : Fin 24, w[i].entry = v[i].entry) (header : HeaderRx) :
    StallHolds header f k old w st ↔ StallHolds header f k old v st := by
  cases header with
  | intact bits => simp only [StallHolds, HeldAs, entries]
  | damaged arb => exact Iff.rfl

/-- Settles O27: each stream that is open at the end of the header shows the choice it made. -/
theorem headerChoosesTheWords : Obligations.HeaderChoosesTheWords := by
  intro header s f hj hd hf hh hexpected
  refine ⟨_, exec_header header s, fun n st hn hs ho => ?_⟩
  obtain ⟨slots, hentries, husable, hstall, hnone, hwords⟩ :=
    State.takeHeader_shown header hj hd hf hh hexpected n st hn hs ho
  rw [← propext (stallHolds_congr hentries header)] at hwords
  have hstall' := fun bits hb hc => (hstall bits hb hc).imp_left
    fun h => h.trans (stallHolds_congr hentries header).symm
  have husables := usableSlots_usable (s.takeHeader header).pump.slots s.number st.defn.label
  refine ⟨hstall', hnone, fun hnext => ?_⟩
  obtain ⟨hsends, hheld, hdiscards, hfree⟩ := hwords hnext
  exact ⟨fun h h' => ⟨_, husables, (hsends h h').trans (by rw [husable])⟩, hheld, hdiscards, hfree⟩

end Sys2Proof.Machine
end

section
/-! PROOFS. Power-on, RESET and the RSTn pin, and what START and LEAVE do in each membership state (R80, R95,
R101, R103, R182, R184, R193). -/

namespace Sys2Proof.Machine

open Sys2Proof

/-! ### Writes of the host (R182) -/

/-- While RSTn is low a write is ignored (R182). -/
theorem State.hostWriteAt_of_low {s : State} (h : s.rstnLow = true) (offset bytes : Nat) (v : Word) :
    s.hostWriteAt offset bytes v = s := if_pos (.inl h)

theorem State.hostWriteAt_of_high {s : State} (h : s.rstnLow = false) (offset : Nat) (v : Word) :
    s.hostWriteAt offset 4 v = s.writeRegister offset v := if_neg (by simp [h])

/-- A write to STATION CONTROL that does not take a MEMBER to LEAVING is its request alone (R184). -/
theorem State.hostWriteAt_control {s : State} (hr : s.rstnLow = false) (v : Word)
    (h : s.membership = .member →
      (s.writeControl (v.getLsbD 0) (v.getLsbD 1) (v.getLsbD 2)).membership ≠ .leaving) :
    s.hostWriteAt 0x004 4 v = s.writeControl (v.getLsbD 0) (v.getLsbD 1) (v.getLsbD 2) := by
  rw [State.hostWriteAt_of_high hr, State.writeRegister, if_pos rfl, State.writeStationControl]
  exact if_neg fun ⟨hm, hl⟩ => h hm hl

/-! ### START, LEAVE and RESET (R103) -/

/-- START is heard in OFFLINE and REFUSED alone (R103). -/
theorem State.requestStart_of_member {s : State} (h : s.membership = .member) : s.requestStart = s := by
  simp only [State.requestStart, h]

theorem exec_start {s : State} (hr : s.rstnLow = false) : exec .start s = .next s.requestStart :=
  congrArg Host.Outcome.next (State.hostWriteAt_control hr 1 fun hm =>
    show s.requestStart.membership ≠ .leaving by rw [State.requestStart_of_member hm, hm]; decide)

theorem exec_leave_of_not_member {s : State} (hr : s.rstnLow = false) (hm : s.membership ≠ .member) :
    exec .leave s = .next s.requestLeave :=
  congrArg Host.Outcome.next (State.hostWriteAt_control hr 2 fun h => absurd h hm)

/-- A RESET bit is obeyed whatever else the write carries (R184). -/
theorem exec_reset {s : State} (hr : s.rstnLow = false) (startBit leaveBit : Bool) :
    exec (.reset startBit leaveBit) s = .next s.resetValues := by
  have hbit : (placeBit 0 startBit ||| placeBit 1 leaveBit ||| 4 : Word).getLsbD 2 = true := by
    cases startBit <;> cases leaveBit <;> decide
  have hreset : ∀ a b, s.writeControl a b
      ((placeBit 0 startBit ||| placeBit 1 leaveBit ||| 4 : Word).getLsbD 2) = s.resetValues := fun a b => by
    rw [hbit]
    rfl
  refine congrArg Host.Outcome.next ((State.hostWriteAt_control hr _ fun _ => ?_).trans (hreset _ _))
  rw [hreset]
  exact nofun

theorem State.checkLeft_eq_of_left {s : State} (h : s.membership = .leaving ∧ s.hasPart = false) :
    s.checkLeft = s.enterOffline.raise .left := if_pos h

/-- What the START column of R193 keeps (R95). -/
theorem State.enterLoading_keeps (s : State) :
    s.enterLoading.profileAddress = s.profileAddress ∧ s.enterLoading.commandArgument = s.commandArgument
      ∧ s.enterLoading.command = s.command ∧ s.enterLoading.rejected = s.rejected
      ∧ s.enterLoading.lastResult = s.lastResult ∧ s.enterLoading.events = s.events
      ∧ s.enterLoading.eventEnable = s.eventEnable
      ∧ s.enterLoading.streamEventEnable = s.streamEventEnable ∧ s.enterLoading.cueOut = s.cueOut := by
  simp [State.enterLoading, State.clearMap, State.clearPeers, State.dropStreams, State.dropClaims,
    State.emptyArbiter, State.stopTrunk, State.unalign]

/-- What R193's second column keeps beside EVENTS (R95). -/
theorem State.enterOffline_keeps (s : State) :
    s.enterOffline.profileAddress = s.profileAddress ∧ s.enterOffline.cueOut = s.cueOut := by
  simp [State.enterOffline, State.clearMap, State.clearPeers, State.dropStreams, State.dropClaims,
    State.emptyArbiter, State.stopTrunk, State.unalign]

/-- LEAVE in MEMBER with no part in the map leads through LEAVING to OFFLINE, with LEFT raised (R101). -/
theorem State.requestLeave_of_no_part {s : State} (hm : s.membership = .member) (hp : s.hasPart = false) :
    ∃ u : State, s.requestLeave = u.enterOffline.raise .left ∧ u.events = s.events
      ∧ u.profileAddress = s.profileAddress ∧ u.cueOut = s.cueOut := by
  obtain ⟨u, hu⟩ : ∃ u : State, u = { s with membership := .leaving, chosenBid := none } := ⟨_, rfl⟩
  have hpart : u.hasPart = false := by rw [hu]; exact hp
  have hleft : (u.closeEvery .leave).checkLeft = (u.closeEvery .leave).enterOffline.raise .left := by
    refine State.checkLeft_eq_of_left ⟨?_, (SameTrunk.closeEvery u .leave).hasPart.trans hpart⟩
    rw [State.closeEvery_membership, hu]
  refine ⟨u.closeEvery .leave, ?_, by simp [State.closeEvery, hu], by simp [State.closeEvery, hu],
    by simp [State.closeEvery, hu]⟩
  rw [← hleft, hu]
  simp only [State.requestLeave, hm, State.leaveMember]

/-- Where LEAVE leads to OFFLINE it gives the values of R193's second column, and raises LEFT for a MEMBER
alone (R101, R103). -/
theorem exec_leave_to_offline {s : State} (hr : s.rstnLow = false)
    (h : s.membership = .loading ∨ s.membership = .listening ∨ s.membership = .announcing
      ∨ s.membership = .member ∧ s.hasPart = false) :
    ∃ u : State, exec .leave s = .next { u.enterOffline with
        events := if s.membership = .member then s.events ||| 0x008 else s.events }
      ∧ u.profileAddress = s.profileAddress ∧ u.cueOut = s.cueOut := by
  have hbefore : s.membership ≠ .member → s.requestLeave = s.enterOffline →
      exec .leave s = .next { s.enterOffline with
        events := if s.membership = .member then s.events ||| 0x008 else s.events } := fun hm hl => by
    rw [exec_leave_of_not_member hr hm, if_neg hm, hl, ← s.enterOffline_events]
  rcases h with hm | hm | hm | ⟨hm, hp⟩
  · exact ⟨s, hbefore (by rw [hm]; decide) (by simp only [State.requestLeave, hm]), rfl, rfl⟩
  · exact ⟨s, hbefore (by rw [hm]; decide) (by simp only [State.requestLeave, hm]), rfl, rfl⟩
  · exact ⟨s, hbefore (by rw [hm]; decide) (by simp only [State.requestLeave, hm]), rfl, rfl⟩
  · obtain ⟨u, hleave, hevents, haddress, hcueOut⟩ := State.requestLeave_of_no_part hm hp
    refine ⟨u, ?_, haddress, hcueOut⟩
    have hwrite : s.hostWriteAt 0x004 4 2 = s.requestLeave :=
      State.hostWriteAt_control hr 2 fun _ => show s.requestLeave.membership ≠ .leaving by
        rw [hleave]
        exact nofun
    rw [if_pos hm, ← hevents, ← u.enterOffline_events]
    exact congrArg Host.Outcome.next (hwrite.trans hleave)

/-! ### The table of R103 -/

/-- Settles O3: RESET and the pin leave `resetValues`, and a write while the pin is low is ignored. -/
theorem resetCommandsGiveResetValues : Obligations.ResetCommandsGiveResetValues := by
  intro startBit leaveBit s
  refine ⟨rfl, fun hr => ?_, rfl, fun hr => ?_, fun hr => ?_, fun c hr hc => ?_⟩
  · rw [exec_reset hr, State.resetValues, State.powerUp, hr]
    rfl
  · exact congrArg Host.Outcome.next (if_pos hr)
  · exact congrArg Host.Outcome.next (if_neg (by simp [hr]))
  · cases c with
    | start | leave | reset | openCmd | closeCmd | standingCmd | profileAddressWrite | eventsWrite
    | streamEventsWrite | eventEnableWrite | streamEventEnableWrite | registerWrite | commandCodeUnknown =>
      exact congrArg Host.Outcome.next (State.hostWriteAt_of_low hr _ _ _)
    | _ => cases hc

/-- Settles O4, by the membership state in which each request comes. -/
theorem requestsFollowTheTable : Obligations.RequestsFollowTheTable := by
  intro s hr
  refine ⟨⟨_, exec_start hr, ?_⟩, ?_, fun startBit leaveBit => ⟨_, exec_reset hr startBit leaveBit, rfl, rfl⟩,
    ⟨_, rfl, rfl, rfl⟩⟩
  · obtain ⟨-, -, -, -, -, hevents, -⟩ := s.enterLoading_keeps
    cases hm : s.membership with
    | offline | refused =>
      simp only [State.requestStart, hm]
      exact ⟨rfl, hevents⟩
    | _ => simp only [State.requestStart, hm]
  · have hignored : s.membership ≠ .member → s.requestLeave = s → exec .leave s = .next s := fun hm hl =>
      (exec_leave_of_not_member hr hm).trans (congrArg Host.Outcome.next hl)
    have hleft := exec_leave_to_offline hr
    cases hm : s.membership with
    | loading | listening | announcing =>
      obtain ⟨u, hexec, -⟩ := hleft (by simp [hm])
      exact ⟨_, hexec, rfl, if_neg (by simp [hm])⟩
    | member =>
      cases hp : s.hasPart with
      | true => exact ⟨_, exec_leave_of_part hr hm hp, by simp⟩
      | false =>
        obtain ⟨u, hexec, -⟩ := hleft (by simp [hm, hp])
        exact ⟨_, hexec, rfl⟩
    | _ => exact ⟨s, hignored (by simp [hm]) (by simp only [State.requestLeave, hm]), rfl⟩

/-- Settles O5: the values are those of `enterLoading` and `enterOffline`. -/
theorem startAndLeaveGiveTheirValues : Obligations.StartAndLeaveGiveTheirValues := by
  refine ⟨fun s hr hm => ⟨s.enterLoading, ?_, ?_⟩, fun s hr hm => ?_⟩
  · rw [exec_start hr]
    rcases hm with hm | hm <;> simp only [State.requestStart, hm]
  · exact ⟨rfl, rfl, rfl, rfl, rfl, rfl, rfl, rfl, rfl, rfl, rfl, rfl, rfl, rfl, rfl, rfl, rfl, rfl, rfl, rfl,
      rfl, s.enterLoading_keeps⟩
  · obtain ⟨u, hexec, haddress, hcueOut⟩ := exec_leave_to_offline hr hm
    obtain ⟨haddress', hcueOut'⟩ := u.enterOffline_keeps
    exact ⟨_, hexec, rfl, rfl, rfl, rfl, rfl, rfl, rfl, rfl, rfl, rfl, rfl, rfl, rfl, rfl, rfl, rfl, rfl, rfl,
      rfl, rfl, rfl, rfl, rfl, rfl, rfl, rfl, rfl, haddress'.trans haddress,
      hcueOut'.trans hcueOut, rfl⟩

end Sys2Proof.Machine
end

section
/-! PROOFS. The load completion of a valid profile (R80, R96, R120, R121, R185, R186). -/

namespace Sys2Proof.Machine

open Sys2Proof

/-! ### The checks of a profile (R186) -/

/-- No stream of `n` and up to `fuel` of them fails a check. -/
theorem firstStreamFault_eq_none_iff (ws : List Word) (fuel n : Nat) :
    firstStreamFault ws fuel n = none ↔ ∀ m, n ≤ m → m < n + fuel → streamFault ws m = .none := by
  induction fuel generalizing n with
  | zero => exact iff_of_true rfl fun m hm hlt => absurd hlt (not_lt.2 hm)
  | succ fuel ih =>
    have hsplit : (∀ m, n ≤ m → m < n + (fuel + 1) → streamFault ws m = .none)
        ↔ streamFault ws n = .none ∧ ∀ m, n + 1 ≤ m → m < n + 1 + fuel → streamFault ws m = .none := by
      refine ⟨fun h => ⟨h n le_rfl (by omega), fun m hm hlt => h m (by omega) (by omega)⟩,
        fun ⟨hn, h⟩ m hm hlt => ?_⟩
      rcases hm.eq_or_lt with rfl | hm
      · exact hn
      · exact h m hm (by omega)
    rw [hsplit, ← ih (n + 1), firstStreamFault]
    cases hf : streamFault ws n <;> simp

/-- A profile that passes every check. -/
theorem profileCheck_of_valid {ws : List Word} (header : headerFault ws = .none) (sum : profileSum ws = 0)
    (station : profileStation ws ≤ 31) (streams : ∀ n < profileCount ws, streamFault ws n = .none) :
    profileCheck ws = (.none, 0) := by
  have hfirst : firstStreamFault ws (profileCount ws) 0 = none :=
    (firstStreamFault_eq_none_iff ws _ 0).2 fun m _ hm => streams m (by omega)
  simp [profileCheck, header, sum, not_lt.2 station, hfirst]

/-! ### The load completion (R96) -/

/-- The read that completes a profile which passes its checks is the load completion (R96, R185). -/
theorem State.profileRead_completes {s : State} {words : List Word} (hm : s.membership = .loading)
    (hne : s.fetched ++ words ≠ [])
    (length : (s.fetched ++ words).length = profileLength (s.fetched ++ words))
    (header : headerFault (s.fetched ++ words) = .none)
    (check : profileCheck (s.fetched ++ words) = (.none, 0)) :
    s.profileRead words
      = ({ s with fetched := s.fetched ++ words } : State).loadComplete (s.fetched ++ words) := by
  have hwhole : ¬ (s.fetched ++ words).length < profileLength (s.fetched ++ words) := length.not_lt
  have htake : (s.fetched ++ words).take (profileLength (s.fetched ++ words)) = s.fetched ++ words := by
    rw [← length, List.take_length]
  rw [State.profileRead, if_pos hm, State.checkFetch]
  simp only [hne, header, hwhole, htake, check, ne_eq, not_true_eq_false, if_false]

/-- A stream that the profile defines is fresh (R121), and no other is defined (R120). -/
theorem profileStreams_get (ws : List Word) (n : Fin 16) :
    (profileStreams ws)[n] = if n.val < profileCount ws then some (Stream.fresh (profileStream ws n.val))
      else none := by simp [profileStreams]

/-- Settles O40: a valid profile passes `profileCheck`, so its last read is the load completion. -/
theorem validProfileLoads : Obligations.ValidProfileLoads := by
  intro words s hm hne hlength hheader hsum hstation hstreams
  have hload := State.profileRead_completes hm hne hlength hheader
    (profileCheck_of_valid hheader hsum hstation hstreams)
  refine ⟨_, congrArg Host.Outcome.next hload, rfl, rfl, rfl, rfl, rfl, ?_, fun pin => ?_, fun n hn => ?_,
    fun n hn => ?_, rfl, rfl, rfl⟩
  · have hfits : profileStation (s.fetched ++ words) < 2 ^ 5 := by omega
    exact (BitVec.toNat_ofNat _ _).trans (Nat.mod_eq_of_lt hfits)
  · simp [State.loadComplete]
  · exact (profileStreams_get _ n).trans (if_neg (not_lt.2 hn))
  · exact ⟨_, (profileStreams_get _ n).trans (if_pos hn), rfl, rfl, rfl, rfl, rfl, rfl, rfl, rfl⟩

end Sys2Proof.Machine
end

section
/-! PROOFS. The steps of reconciliation, each over the heard set: the peer table, the labels, the slots (R82 to
R89). -/

namespace Sys2Proof.Machine

open Sys2Proof

/-! ### The heard set (R82) -/

theorem Census.arrival_eq_intact (c : Census) (k : Station) (cell : CensusCell) :
    c.arrival k = .intact cell ↔ c.rx[k.toNat]? = some (.intact cell) := by
  rw [Census.arrival, List.getD_eq_getElem?_getD]
  cases c.rx[k.toNat]? <;> simp

/-- A station is heard by an intact cell, unless it is this station and its readback was damaged (R82). -/
theorem Census.heard_eq_some_iff (c : Census) (self k : Station) (cell : CensusCell) :
    c.heard self k = some cell
      ↔ c.rx[k.toNat]? = some (.intact cell) ∧ (k = self → c.own ≠ some false) := by
  rw [← Census.arrival_eq_intact, Census.heard]
  cases c.arrival k with
  | intact x =>
    by_cases hown : k = self ∧ c.own = some false
    · simp only [if_pos hown]
      exact iff_of_false nofun fun h => h.2 hown.1 hown.2
    · simp only [if_neg hown]
      simpa using fun _ hk ho => hown ⟨hk, ho⟩
  | _ => simp

/-- The number of a station, in the five bits it has. -/
theorem stationNumber_toNat (k : Fin 32) : (BitVec.ofNat 5 k.val).toNat = k.val := by
  have := k.isLt
  rw [BitVec.toNat_ofNat]
  omega

theorem Census.not_heard_of_not_intact {c : Census} {k : Fin 32}
    (h : c.rx.getD k.val .silent = .damaged ∨ c.rx.getD k.val .silent = .silent) (self : Station) :
    c.heard self (BitVec.ofNat 5 k.val) = none := by
  rw [Option.eq_none_iff_forall_ne_some]
  intro cell hcell
  obtain ⟨hintact, -⟩ := (c.heard_eq_some_iff _ _ _).1 hcell
  rw [stationNumber_toNat] at hintact
  simp [List.getD_eq_getElem?_getD, hintact] at h

/-! ### The peer step (R83, R84) -/

theorem reconcilePeers_get (c : Census) (self : Station) (listening : Bool) (ps : Vector Peer 32)
    (k : Fin 32) : (reconcilePeers c self listening ps)[k]
      = match c.heard self (BitVec.ofNat 5 k.val) with
        | some cell => Peer.hear cell
        | none => ps[k].miss listening :=
  (tabulate_get _ ps k.val k.isLt).trans rfl

/-- The entry of a station that is not heard changes by its state (R84). -/
theorem Peer.miss_eq (listening : Bool) (p : Peer) : p.miss listening =
    match p.state, listening with
    | .present, _ => ⟨.missing, 1, p.lastHeard, p.standing⟩
    | .missing, _ => ⟨.absent, 2, p.lastHeard, p.standing⟩
    | .unheard, true => ⟨.unheard, 1, p.lastHeard, p.standing⟩
    | .unheard, false => ⟨.absent, 2, p.lastHeard, p.standing⟩
    | .absent, _ => ⟨.absent, 2, p.lastHeard, p.standing⟩ := by
  obtain ⟨state, unheard, lastHeard, standing⟩ := p
  cases state <;> cases listening <;> rfl

/-! ### The declarations, and the label step (R85) -/

theorem Census.mem_declared (c : Census) (self : Station) (d : Declared) : d ∈ c.declared self
    ↔ ∃ cell, c.heard self d.station = some cell ∧ d.decl ∈ cell.meaningful := by
  rw [Census.declared, List.mem_flatMap]
  constructor
  · rintro ⟨k, -, hd⟩
    cases hk : c.heard self k with
    | none => simp [hk] at hd
    | some cell =>
      simp only [hk, List.mem_map] at hd
      obtain ⟨x, hx, rfl⟩ := hd
      exact ⟨cell, hk, hx⟩
  · rintro ⟨cell, hcell, hd⟩
    refine ⟨d.station, mem_allStations _, ?_⟩
    simp only [hcell, List.mem_map]
    exact ⟨d.decl, hd, rfl⟩

theorem allStations_ascending : allStations.Pairwise fun j k => j.toNat < k.toNat := by
  rw [allStations, List.pairwise_map]
  refine (List.pairwise_lt_finRange 32).imp fun h => ?_
  rw [stationNumber_toNat, stationNumber_toNat]
  exact h

/-- One declarer stands no later than another in ascending station order. -/
def Declared.NotAfter (d x : Declared) : Prop := d.station.toNat ≤ x.station.toNat

/-- The declarations come by station, the lowest-numbered first. -/
theorem Census.declared_ascending (c : Census) (self : Station) :
    (c.declared self).Pairwise Declared.NotAfter := by
  have hstation : ∀ k, ∀ d ∈ (match c.heard self k with
      | some cell => cell.meaningful.map fun x => (⟨k, x⟩ : Declared)
      | none => []), d.station = k := fun k d hd => by
    cases hk : c.heard self k with
    | none => simp [hk] at hd
    | some cell =>
      simp only [hk, List.mem_map] at hd
      obtain ⟨x, -, rfl⟩ := hd
      rfl
  rw [Census.declared, List.pairwise_flatMap]
  refine ⟨fun k _ => ?_, allStations_ascending.imp fun h d hd d' hd' => ?_⟩
  · refine List.Pairwise.imp_of_mem (R := fun _ _ => True) (fun {d d'} hd hd' _ => ?_) ?_
    · rw [Declared.NotAfter, hstation k d hd, hstation k d' hd']
    · exact List.pairwise_of_forall fun _ _ => trivial
  · rw [Declared.NotAfter, hstation _ d hd, hstation _ d' hd']
    exact h.le

/-- A declaration ranks no lower than another: by priority, then by station number (R85, R86). -/
def Declared.Beats (b x : Declared) : Prop :=
  x.decl.priority.toNat < b.decl.priority.toNat
    ∨ x.decl.priority = b.decl.priority ∧ b.station.toNat ≤ x.station.toNat

/-- Of declarations in ascending station order, the best ranks no lower than any (R85, R86). -/
theorem bestDeclared_beats {ds : List Declared} (order : ds.Pairwise Declared.NotAfter) {b : Declared}
    (hb : bestDeclared ds = some b) : b ∈ ds ∧ ∀ x ∈ ds, b.Beats x := by
  refine ⟨bestBy_mem _ _ _ hb, fun x hx => ?_⟩
  rcases (bestBy_ge _ _ _ hb x hx).lt_or_eq with hlt | heq
  · exact .inl hlt
  · refine .inr ⟨BitVec.eq_of_toNat_eq heq, ?_⟩
    rcases bestBy_first _ _ _ order _ hb x hx heq with rfl | hfirst
    · exact le_rfl
    · exact hfirst

theorem exists_bestDeclared {ds : List Declared} {d : Declared} (h : d ∈ ds) :
    ∃ b, bestDeclared ds = some b := by
  cases hb : bestDeclared ds with
  | some b => exact ⟨b, rfl⟩
  | none =>
    rw [(bestBy_eq_none _ _).1 hb] at h
    cases h

/-- Two declarations neither of which ranks below the other are of one station. -/
theorem Declared.Beats.station_eq {b d : Declared} (h : b.Beats d) (h' : d.Beats b) :
    b.station = d.station := by
  apply BitVec.eq_of_toNat_eq
  rcases h with h | ⟨hp, h⟩ <;> rcases h' with h' | ⟨hp', h'⟩
  · omega
  · rw [hp'] at h
    omega
  · rw [hp] at h'
    omega
  · omega

/-- The declarations that remain are those of each label's best declarer (R85). -/
theorem mem_remaining {ds : List Declared} (order : ds.Pairwise Declared.NotAfter) (d : Declared) :
    d ∈ remaining ds ↔ d ∈ ds ∧ ∃ b ∈ ds, b.station = d.station ∧ b.decl.label = d.decl.label
      ∧ ∀ x ∈ ds, x.decl.label = d.decl.label → b.Beats x := by
  rw [remaining, List.mem_filter, beq_iff_eq, labelWinner]
  refine and_congr_right fun hd => ?_
  obtain ⟨ls, hls⟩ : ∃ ls, ls = ds.filter fun x => x.decl.label == d.decl.label := ⟨_, rfl⟩
  have hmem : ∀ x, x ∈ ls ↔ x ∈ ds ∧ x.decl.label = d.decl.label := fun x => by simp [hls]
  have horder : ls.Pairwise Declared.NotAfter := hls ▸ order.filter _
  obtain ⟨b, hb⟩ := exists_bestDeclared ((hmem d).2 ⟨hd, rfl⟩)
  obtain ⟨hbls, hbeats⟩ := bestDeclared_beats horder hb
  obtain ⟨hbds, hblabel⟩ := (hmem b).1 hbls
  rw [← hls, hb, Option.map_some, Option.some_inj]
  refine ⟨fun hstation => ⟨b, hbds, hstation, hblabel, fun x hx hl => hbeats x ((hmem x).2 ⟨hx, hl⟩)⟩, ?_⟩
  rintro ⟨a, hads, hstation, halabel, habeats⟩
  rw [← hstation]
  exact (hbeats a ((hmem a).2 ⟨hads, halabel⟩)).station_eq (habeats b hbds hblabel)

/-! ### What the slot step reads (R87, R88) -/

theorem Reconcile.isHeard_iff (r : Reconcile) (k : Station) :
    r.isHeard k = true ↔ ∃ cell, r.census.heard r.self k = some cell := Option.isSome_iff_exists

theorem Reconcile.gone_iff (r : Reconcile) (k : Station) : r.gone k = true
    ↔ (r.before[k.toNat]'k.isLt).state = .absent ∨ (r.after[k.toNat]'k.isLt).state = .absent := by
  simp [Reconcile.gone]

theorem declaredByOther_iff (ds : List Declared) (l : Label) (k : Station) :
    declaredByOther ds l k = true ↔ ∃ d ∈ ds, d.decl.label = l ∧ d.station ≠ k := by
  simp [declaredByOther]

theorem Reconcile.mem_staying (r : Reconcile) (cs : List Claimant) (x : Claimant) : x ∈ r.staying cs
    ↔ x ∈ cs ∧ r.gone x.station ≠ true ∧ declaredByOther r.left x.label x.station ≠ true := by
  simp [Reconcile.staying]

/-! ### The slot step (R86 to R89) -/

/-- A slot that a remaining declaration names is HELD by its best declarer (R86). -/
theorem Reconcile.slot_of_best {r : Reconcile} (order : r.left.Pairwise Declared.NotAfter) {i : Fin 24}
    {d : Declared} (hd : d ∈ r.left) (hi : d.decl.slot.toNat = i.val)
    (best : ∀ x ∈ r.left, x.decl.slot.toNat = i.val → x = d
      ∨ x.decl.priority.toNat < d.decl.priority.toNat
      ∨ x.decl.priority = d.decl.priority ∧ d.station.toNat < x.station.toNat) (e : Entry) :
    r.slot i e = e.declare d := by
  have hmem : ∀ x, x ∈ declaredFor r.left i ↔ x ∈ r.left ∧ x.decl.slot.toNat = i.val := fun x => by
    simp [declaredFor]
  obtain ⟨b, hb⟩ := exists_bestDeclared ((hmem d).2 ⟨hd, hi⟩)
  obtain ⟨hbmem, hbeats⟩ := bestDeclared_beats (order.filter _) hb
  obtain ⟨hbleft, hbi⟩ := (hmem b).1 hbmem
  have hbd : b = d := by
    rcases hbeats d ((hmem d).2 ⟨hd, hi⟩) with hlt | ⟨heq, hle⟩
    · rcases best b hbleft hbi with h | h | ⟨h, -⟩
      · exact h
      · omega
      · rw [h] at hlt
        omega
    · rcases best b hbleft hbi with h | h | ⟨-, h⟩
      · exact h
      · rw [heq] at h
        omega
      · omega
  rw [Reconcile.slot, hb, hbd]

theorem Reconcile.slot_of_undeclared {r : Reconcile} {i : Fin 24}
    (h : ∀ d ∈ r.left, d.decl.slot.toNat ≠ i.val) (e : Entry) : r.slot i e = r.undeclared e := by
  have hnone : bestDeclared (declaredFor r.left i) = none := by
    refine (bestBy_eq_none _ _).2 (List.filter_eq_nil_iff.2 fun d hd => ?_)
    simpa using h d hd
  rw [Reconcile.slot, hnone]

/-- A HELD entry that nothing declares is lost when its holder was heard or has departed, or its label remains
with another station (R87). -/
theorem Reconcile.undeclared_held (r : Reconcile) (h : Claimant) (damage : Nat) :
    (r.isHeard h.station = true ∨ r.gone h.station = true
        ∨ declaredByOther r.left h.label h.station = true → r.undeclared (.held h damage) = .free)
      ∧ (r.isHeard h.station ≠ true → r.gone h.station ≠ true →
        declaredByOther r.left h.label h.station ≠ true →
          r.undeclared (.held h damage) = .held h damage) := by
  have hloses : r.loses h = true ↔ r.isHeard h.station = true ∨ r.gone h.station = true
      ∨ declaredByOther r.left h.label h.station = true := by simp [Reconcile.loses, or_assoc]
  refine ⟨fun hl => if_pos (hloses.2 hl), fun hh hg he => if_neg fun hl => ?_⟩
  rcases hloses.1 hl with hl | hl | hl
  · exact hh hl
  · exact hg hl
  · exact he hl

/-- An UNSURE entry that nothing declares is FREE when every candidate that stays was heard, else UNSURE with
those (R88). -/
theorem Reconcile.undeclared_unsure (r : Reconcile) (cs : List Claimant) :
    ((∀ x ∈ r.staying cs, r.isHeard x.station = true) → r.undeclared (.unsure cs) = .free)
      ∧ ((∃ x ∈ r.staying cs, r.isHeard x.station ≠ true) →
        r.undeclared (.unsure cs) = .unsure (r.staying cs)) :=
  ⟨fun h => if_pos (List.all_eq_true.2 h),
    fun ⟨x, hx, hn⟩ => if_neg fun h => hn (List.all_eq_true.1 h x hx)⟩

theorem Census.anyDamaged_iff (c : Census) :
    c.anyDamaged = true ↔ .damaged ∈ c.rx ∨ c.own = some false := by
  simp [Census.anyDamaged]

/-- An UNKNOWN entry that nothing declares is FREE outside LISTENING when no census cell arrived damaged
(R89). -/
theorem Reconcile.undeclared_unknown (r : Reconcile) :
    (r.listening = true ∨ .damaged ∈ r.census.rx ∨ r.census.own = some false →
        r.undeclared .unknown = .unknown)
      ∧ (r.listening ≠ true → .damaged ∉ r.census.rx → r.census.own ≠ some false →
        r.undeclared .unknown = .free) := by
  have hcond : (r.listening || r.census.anyDamaged) = true
      ↔ r.listening = true ∨ .damaged ∈ r.census.rx ∨ r.census.own = some false := by
    rw [Bool.or_eq_true, Census.anyDamaged_iff]
  refine ⟨fun h => if_pos (hcond.2 h), fun hl hd ho => if_neg fun h => ?_⟩
  rcases hcond.1 h with h | h | h
  · exact hl h
  · exact hd h
  · exact ho h

/-- Settles O37: the heard set, the peer step, the label step, then the slot step by the state of the entry. -/
theorem reconciliationFollowsTheHeardSet : Obligations.ReconciliationFollowsTheHeardSet := by
  refine ⟨Census.heard_eq_some_iff, fun c self listening ps k => ⟨fun cell hk => ?_, fun hk => ?_,
    fun h => Census.not_heard_of_not_intact h self⟩, fun s c => ?_⟩
  · rw [reconcilePeers_get, hk]
    rfl
  · rw [reconcilePeers_get, hk]
    exact Peer.miss_eq _ _
  · intro r ds heard gone elsewhere
    have hheard : ∀ k, r.isHeard k = true ↔ heard k := r.isHeard_iff
    have hgone : ∀ k, r.gone k = true ↔ gone k := r.gone_iff
    have helsewhere : ∀ l k, declaredByOther r.left l k = true ↔ elsewhere l k := declaredByOther_iff r.left
    have hlistening : r.listening = true ↔ s.membership = .listening := beq_iff_eq
    have horder : ds.Pairwise Declared.NotAfter := c.declared_ascending s.number
    refine ⟨c.mem_declared s.number, mem_remaining horder, fun i e => ⟨fun d hd hi best => ?_, fun hno => ?_⟩⟩
    · rw [Reconcile.slot_of_best (horder.filter _) hd hi best]
      cases e <;> rfl
    · rw [Reconcile.slot_of_undeclared hno]
      simp only [← hheard, ← hgone, ← helsewhere, ← hlistening, ne_eq]
      cases e with
      | held h damage => exact r.undeclared_held h damage
      | unsure cs =>
        exact ⟨r.staying cs, List.filter_sublist, r.mem_staying cs, r.undeclared_unsure cs⟩
      | unknown => exact r.undeclared_unknown
      | _ => rfl

end Sys2Proof.Machine
end

section
/-! PROOFS. The transitions at census completion: how LISTENING and ANNOUNCING end, and how damaged readbacks of
the own cell end membership (R72, R76, R81, R89, R97 to R99, R101, R102). -/

namespace Sys2Proof.Machine

open Sys2Proof

/-! ### From the last census cell to the state it leaves -/

/-- The census that the last census cell of a frame completes (R18, R82). -/
def State.lastCensus (s : State) (f : Frame) (bits : CensusBits) : Census :=
  ⟨f.heard ++ [classifyCensus 31 bits],
    (s.censusReadback 31 (classifyCensus 31 bits)).or f.ownReadback⟩

/-- What a census completion does after its transition: the choice, the end of CLOSING streams, the check of
R101, and the engines. -/
def State.afterTransition (s : State) : State := s.chooseBid.finishClosing.checkLeft.pump

theorem State.completeCensus_pump {s : State} (hm : s.membership.maps = true) (c : Census) :
    (s.completeCensus c).pump = ((s.reconcile c).censusTransition c).afterTransition :=
  congrArg State.pump (if_pos hm)

/-- Census cell 31 completes the census (R82). -/
theorem State.censusArrives_last {s : State} {f : Frame} (hm : s.membership.maps = true)
    (hf : s.frame = some f) (hc : f.census = true) (hh : f.header ≠ .due) (ha : f.arrived = 31)
    (bits : CensusBits) : ∃ u : State, (∃ g : Frame, u = { s with frame := some g })
      ∧ (s.censusArrives bits).pump = ((u.reconcile (s.lastCensus f bits)).censusTransition
          (s.lastCensus f bits)).afterTransition := by
  have hlt : f.arrived < 32 := by omega
  obtain ⟨u, hu⟩ : ∃ u : State, u = { s with frame := some (f.addCensus (classifyCensus 31 bits)
    (s.censusReadback 31 (classifyCensus 31 bits))) } := ⟨_, rfl⟩
  rw [State.censusArrives_eq (Membership.receives_of_maps hm) hf hc hh hlt, State.takeCensus_of_last s ha, ha,
    ← hu]
  exact ⟨u, ⟨_, hu⟩, State.completeCensus_pump (by rw [hu]; exact hm) (s.lastCensus f bits)⟩

/-! ### What follows the transition -/

@[simp] theorem State.closeOne_censusRun (s : State) (reason : CloseReason) (n : Fin 16) :
    (s.closeOne reason n).censusRun = s.censusRun := by simp [State.closeOne]

@[simp] theorem State.closeOne_joinAttempts (s : State) (reason : CloseReason) (n : Fin 16) :
    (s.closeOne reason n).joinAttempts = s.joinAttempts := by simp [State.closeOne]

@[simp] theorem State.chooseBid_censusRun (s : State) : s.chooseBid.censusRun = s.censusRun :=
  State.chooseBid_keeps (fun t => t.censusRun = s.censusRun)
    (fun t n h => (State.closeOne_censusRun t _ n).trans h) (fun _ _ h => h) s rfl

@[simp] theorem State.chooseBid_joinAttempts (s : State) : s.chooseBid.joinAttempts = s.joinAttempts :=
  State.chooseBid_keeps (fun t => t.joinAttempts = s.joinAttempts)
    (fun t n h => (State.closeOne_joinAttempts t _ n).trans h) (fun _ _ h => h) s rfl

/-- What follows the transition touches neither the trunk protocol nor the counts nor EVENTS. -/
structure TransitionStands (q t : State) : Prop where
  trunk : SameTrunk q t
  events : t.events = q.events
  censusRun : t.censusRun = q.censusRun
  joinAttempts : t.joinAttempts = q.joinAttempts

/-- Nothing but the check of R101 can change what the transition has left. -/
theorem State.afterTransition_cases (q : State) : TransitionStands q q.afterTransition
    ∨ q.membership = .leaving ∧ q.afterTransition.membership = .offline
      ∧ q.afterTransition.events.getLsbD 3 = true := by
  have htrunk := (SameTrunk.chooseBid q).trans (.finishClosing _)
  by_cases hl : q.chooseBid.finishClosing.membership = .leaving ∧ q.chooseBid.finishClosing.hasPart = false
  · obtain ⟨hoffline, hleft⟩ := State.checkLeft_of_left hl
    refine .inr ⟨htrunk.membership.symm.trans hl.1, ?_, ?_⟩
    · rw [State.afterTransition, State.pump_membership, hoffline]
    · rw [State.afterTransition, State.pump_events, hleft]
  · rw [State.afterTransition, State.checkLeft_of_stays hl]
    have hevents := ((StreamsKept.chooseBid q).trans (.finishClosing _)).trans (.pump _)
    exact .inl ⟨htrunk.trans (.pump _), hevents.events, by simp, by simp⟩

theorem State.afterTransition_stands {q : State} (h : q.membership ≠ .leaving) :
    TransitionStands q q.afterTransition :=
  q.afterTransition_cases.resolve_right fun ⟨hl, _⟩ => h hl

/-- Outside MEMBER and LEAVING no bid is chosen and nothing is left to check. -/
theorem State.afterTransition_outside {q : State} (hm : q.membership ≠ .member) (hl : q.membership ≠ .leaving) :
    q.afterTransition = ({ q with chosenBid := none } : State).finishClosing.pump := by
  have hchoose : q.chooseBid = { q with chosenBid := none } := if_neg fun h => hm h.1
  have hstays : ¬ (q.chooseBid.finishClosing.membership = .leaving
      ∧ q.chooseBid.finishClosing.hasPart = false) := fun h => hl (by simpa using h.1)
  rw [State.afterTransition, State.checkLeft_of_stays hstays, hchoose]

/-- There the chosen bid is dropped, and the streams and the port act. -/
theorem State.afterTransition_eq {q : State} (hm : q.membership ≠ .member) (hl : q.membership ≠ .leaving) :
    q.afterTransition = { q with chosenBid := none, streams := q.afterTransition.streams
                                 portServing := q.afterTransition.portServing } := by
  rw [State.afterTransition_outside hm hl]
  exact State.pump_eq _

/-- There no stream comes from none. -/
theorem State.afterTransition_streams {q : State} (hm : q.membership ≠ .member)
    (hl : q.membership ≠ .leaving) (h : q.streams = Vector.replicate 16 none) :
    q.afterTransition.streams = Vector.replicate 16 none := by
  rw [State.afterTransition_outside hm hl]
  refine Vector.ext fun n hn => (State.pump_get _ ⟨n, hn⟩).trans ?_
  simp [State.finishClosing, h]

/-! ### REFUSED (R102) -/

/-- A station that has been refused for a reason (R98, R102). -/
structure RefusedFor (reason : RefusalReason) (s : State) : Prop where
  membership : s.membership = .refused
  refusalReason : s.refusalReason = reason
  event : s.events.getLsbD 1 = true
  slots : s.slots = Vector.replicate 24 Slot.reset
  timer : s.timer = .stopped
  streams : s.streams = Vector.replicate 16 none
  drive : s.drive = Drive.nothing

/-- Entry to REFUSED, whatever command it takes, leaves the join attempts (R102, R187). -/
theorem State.enterRefused_refuses (s : State) (reason : RefusalReason) :
    RefusedFor reason (s.enterRefused reason) ∧ (s.enterRefused reason).joinAttempts = s.joinAttempts := by
  obtain ⟨u, hu⟩ : ∃ u : State, u = ({ s.clearMap.dropStreams.dropClaims.stopTrunk with
    membership := .refused, refusalReason := reason, censusRun := 0 } : State) := ⟨_, rfl⟩
  have hnot : (u.raise .refused).membership ≠ .member := by rw [hu]; exact nofun
  obtain ⟨standing, result, events, htaken, hevents⟩ := State.takeCommand_of_not_member hnot
  have hraised := (hevents .refused (by decide)).trans (u.raise_bit .refused .refused)
  have hentered : s.enterRefused reason = (u.raise .refused).takeCommand := by rw [hu]; rfl
  have hjoin : u.joinAttempts = s.joinAttempts := by
    rw [hu]
    simp [State.clearMap, State.dropStreams, State.dropClaims, State.emptyArbiter, State.stopTrunk]
  rw [hentered, htaken]
  refine ⟨⟨?_, ?_, hraised.trans (Bool.or_true _), ?_, ?_, ?_, ?_⟩, hjoin⟩
  all_goals rw [hu]; rfl

theorem RefusedFor.afterTransition {reason : RefusalReason} {q : State} (h : RefusedFor reason q) :
    RefusedFor reason q.afterTransition := by
  have hm : q.membership ≠ .member := by rw [h.membership]; decide
  have hl : q.membership ≠ .leaving := by rw [h.membership]; decide
  have hstreams := State.afterTransition_streams hm hl h.streams
  rw [State.afterTransition_eq hm hl, hstreams]
  exact ⟨h.membership, h.refusalReason, h.event, h.slots, h.timer, rfl, h.drive⟩

/-! ### What reconciliation leaves for the transition -/

@[simp] theorem State.reconcile_number (s : State) (c : Census) : (s.reconcile c).number = s.number :=
  (s.reconcile_intent c).number

@[simp] theorem State.raiseIf_joinAttempts (s : State) (b : Bool) (e : StationEvent) :
    (s.raiseIf b e).joinAttempts = s.joinAttempts := by cases b <;> rfl

@[simp] theorem State.reconcile_joinAttempts (s : State) (c : Census) :
    (s.reconcile c).joinAttempts = s.joinAttempts := by
  have hadopt : ∀ u : State, (u.adoptCycle c).joinAttempts = u.joinAttempts := fun u => by
    unfold State.adoptCycle
    split <;> simp
  simp [State.reconcile, State.reconcileTables, hadopt]

theorem State.anyUnknown_iff (s : State) :
    s.anyUnknown = true ↔ ∃ i : Fin 24, s.slots[i].entry = .unknown := by
  simp only [State.anyUnknown, List.any_eq_true, Vector.mem_toList_iff, Vector.mem_iff_getElem, beq_iff_eq]
  constructor
  · rintro ⟨_, ⟨i, hi, rfl⟩, he⟩
    exact ⟨⟨i, hi⟩, he⟩
  · rintro ⟨i, he⟩
    exact ⟨_, ⟨i.val, i.isLt, rfl⟩, he⟩

/-- An entry is UNKNOWN after the slot step only if it was, in LISTENING or after a damaged census cell
(R89). -/
theorem Reconcile.slot_ne_unknown {r : Reconcile} (hl : r.listening ≠ true) (hd : .damaged ∉ r.census.rx)
    (ho : r.census.own ≠ some false) (i : Fin 24) (e : Entry) : r.slot i e ≠ .unknown := by
  rcases r.slot_cases i e with ⟨d, -, -, hslot⟩ | hslot
  · obtain ⟨damage, hheld⟩ := e.declare_held d
    rw [hslot, hheld]
    exact nofun
  · rw [hslot]
    cases e with
    | unknown =>
      rw [r.undeclared_unknown.2 hl hd ho]
      exact nofun
    | held h damage | unsure cs =>
      simp only [Reconcile.undeclared]
      split <;> exact nofun
    | _ => exact nofun

/-! ### LISTENING (R97) -/

theorem State.censusTransition_listening {s : State} (hm : s.membership = .listening) (c : Census) :
    (s.reconcile c).censusTransition c = (s.reconcile c).endListening c := by
  simp only [State.censusTransition, State.reconcile_membership, hm]

/-- A duplicate of the own number refuses a LISTENING station (R97). -/
theorem State.endListening_duplicate {s : State} {c : Census} {cell : CensusCell}
    (h : c.arrival s.number = .intact cell) : s.endListening c = s.enterRefused .duplicate := by
  simp only [State.endListening, h]

theorem State.endListening_alone {s : State} {c : Census} (h : ∀ cell, c.arrival s.number ≠ .intact cell) :
    s.endListening c = { s with membership := .announcing } := by
  unfold State.endListening
  split
  · rename_i cell hcell
    exact absurd hcell (h cell)
  · rfl

/-! ### ANNOUNCING (R81, R98, R99) -/

theorem State.censusTransition_announcing {s : State} (hm : s.membership = .announcing) (c : Census) :
    (s.reconcile c).censusTransition c = (s.reconcile c).endAnnouncing c.own := by
  simp only [State.censusTransition, State.reconcile_membership, hm]

theorem State.endAnnouncing_of_unknown {s : State} (h : ∃ i : Fin 24, s.slots[i].entry = .unknown) :
    s.endAnnouncing (some true) = s := if_pos (s.anyUnknown_iff.2 h)

theorem State.endAnnouncing_of_known {s : State} (h : ¬ ∃ i : Fin 24, s.slots[i].entry = .unknown) :
    s.endAnnouncing (some true) = s.enterMember := if_neg fun hu => h (s.anyUnknown_iff.1 hu)

theorem State.endAnnouncing_damaged {s : State} (h : s.joinAttempts < 2) :
    s.endAnnouncing (some false) = { s with joinAttempts := s.joinAttempts + 1 } :=
  if_neg (show ¬ 3 ≤ s.joinAttempts + 1 by omega)

theorem State.endAnnouncing_third {s : State} (h : s.joinAttempts = 2) :
    s.endAnnouncing (some false)
      = ({ s with joinAttempts := s.joinAttempts + 1 } : State).enterRefused .duplicate :=
  if_pos (show 3 ≤ s.joinAttempts + 1 by omega)

/-- JOINED is raised at entry to MEMBER (R99). -/
theorem State.enterMember_joined (s : State) : s.enterMember.events.getLsbD 0 = true :=
  (State.raise_bit _ .joined .joined).trans (Bool.or_true _)

theorem State.enterMember_joinAttempts (s : State) : s.enterMember.joinAttempts = s.joinAttempts := rfl

/-! ### MEMBER and LEAVING (R72, R76, R81) -/

theorem State.censusTransition_drives {s : State} (hd : s.membership.drives = true) (c : Census) :
    (s.reconcile c).censusTransition c = (s.reconcile c).endMember c.own := by
  unfold State.censusTransition
  rw [State.reconcile_membership]
  cases hm : s.membership with
  | member | leaving => rfl
  | _ => rw [hm] at hd; cases hd

/-- The readback run that a completion below the limit leaves (R81). -/
def readbackRunAfter (own : Option Bool) (run : Nat) : Nat :=
  match own with
  | some true => 0
  | some false => 1
  | none => run

/-- Below the limit the readback run is all that changes (R81). -/
theorem State.endMember_below {s : State} {own : Option Bool} (h : own = some false → s.censusRun = 0) :
    s.endMember own = { s with censusRun := readbackRunAfter own s.censusRun } := by
  cases own with
  | none => rfl
  | some ok =>
    cases ok with
    | true => rfl
    | false =>
      have hzero := h rfl
      have hbelow : ¬ 2 ≤ s.censusRun + 1 := by omega
      refine (if_neg hbelow).trans ?_
      rw [hzero]
      rfl

theorem State.endMember_limit {s : State} (h : s.censusRun = 1) :
    s.endMember (some false) = ({ s with censusRun := s.censusRun + 1 } : State).lose :=
  if_pos (show 2 ≤ s.censusRun + 1 by omega)

/-- A station that has met a loss condition, from MEMBER or from LEAVING (R72, R76). -/
structure LostMembership (s t : State) : Prop where
  membership : t.membership = if s.membership = .member then .lost else .offline
  event : t.events.getLsbD 2 = true
  censusRun : t.censusRun = 0
  slots : t.slots = Vector.replicate 24 Slot.reset
  peers : t.peers = Vector.replicate 32 Peer.never
  drive : t.drive = Drive.nothing

theorem State.lose_loses {s : State} (hd : s.membership.drives = true) : LostMembership s s.lose := by
  have hraised : ∀ u : State, (u.raise .lost).events.getLsbD 2 = true := fun u =>
    (State.raise_bit u .lost .lost).trans (Bool.or_true _)
  cases hm : s.membership with
  | member =>
    have hlose : s.lose = s.enterLost := if_neg (by rw [hm]; decide)
    obtain ⟨hslots, hpeers, -, -, -, -, hdrive, -, -⟩ := MembershipEnded.enterLost s
    rw [hlose]
    exact ⟨by rw [hm]; rfl, hraised _, rfl, hslots, hpeers, hdrive⟩
  | leaving =>
    have hlose : s.lose = s.enterOffline.raise .lost := if_pos hm
    rw [hlose]
    exact ⟨by rw [hm]; rfl, hraised _, rfl, rfl, rfl, rfl⟩
  | _ => rw [hm] at hd; cases hd

theorem LostMembership.afterTransition {s q : State} (h : LostMembership s q) :
    LostMembership s q.afterTransition := by
  obtain ⟨hmembership, hevent, hrun, hslots, hpeers, hdrive⟩ := h
  have hm : q.membership ≠ .member := by rw [hmembership]; split <;> exact nofun
  have hl : q.membership ≠ .leaving := by rw [hmembership]; split <;> exact nofun
  rw [State.afterTransition_eq hm hl]
  exact ⟨hmembership, hevent, hrun, hslots, hpeers, hdrive⟩

/-! ### The readback of the own cell at the last census cell -/

/-- The last census cell of a frame completes a census with a damaged own readback (R81). -/
theorem State.of_ownDamagedAt {s : State} {bits : CensusBits} (h : s.ownDamagedAt bits = true) :
    ∃ f : Frame, s.frame = some f ∧ f.census = true ∧ f.header ≠ .due ∧ f.arrived = 31
      ∧ (s.lastCensus f bits).own = some false := by
  rw [State.ownDamagedAt, Option.any_eq_true] at h
  obtain ⟨f, hdue, hlast⟩ := h
  simp only [State.censusDue, Option.filter_eq_some_iff, Bool.and_eq_true, bne_iff_ne, ne_eq] at hdue
  obtain ⟨hf, ⟨⟨-, hc⟩, hh⟩, -⟩ := hdue
  simp only [Bool.and_eq_true, beq_iff_eq, Frame.addCensus_eq, Config.censusCellCount] at hlast
  obtain ⟨harrived, hown⟩ := hlast
  have ha : f.arrived = 31 := by omega
  rw [ha] at hown
  exact ⟨f, hf, hc, hh, ha, hown⟩

/-! ### Census completions -/

/-- What the first completion does in LISTENING, by the arrival of the own number's cell (R97). -/
theorem State.listening_completes {s : State} (hm : s.membership = .listening) (c : Census) :
    let t := ((s.reconcile c).censusTransition c).afterTransition
    (∀ cell, c.arrival s.number = .intact cell → RefusedFor .duplicate t)
      ∧ ((∀ cell, c.arrival s.number ≠ .intact cell) → t.membership = .announcing ∧ t.number = s.number) := by
  dsimp only
  rw [State.censusTransition_listening hm, ← State.reconcile_number s c]
  refine ⟨fun cell hcell => ?_, fun halone => ?_⟩
  · rw [State.endListening_duplicate hcell]
    exact (State.enterRefused_refuses _ _).1.afterTransition
  · rw [State.endListening_alone halone]
    have hstands := State.afterTransition_stands (q := { s.reconcile c with membership := .announcing }) nofun
    exact ⟨hstands.trunk.membership, hstands.trunk.number⟩

/-- A census completion by which an ANNOUNCING station becomes MEMBER (R99). -/
structure BecomesMember (s : State) (c : Census) (t : State) : Prop where
  membership : t.membership = .member
  event : t.events.getLsbD 0 = true
  damageCount : t.damageCount = 0
  censusRun : t.censusRun = 0
  joinAttempts : t.joinAttempts = s.joinAttempts
  entries : ∀ i : Fin 24, t.slots[i].entry = (s.reconcileWith c).slot i s.slots[i].entry

/-- A completion in ANNOUNCING after which the station is ANNOUNCING as before. -/
structure StaysAnnouncing (s t : State) : Prop where
  membership : t.membership = .announcing
  joinAttempts : t.joinAttempts = s.joinAttempts

theorem BecomesMember.of_stands {s t : State} {c : Census}
    (h : TransitionStands (s.reconcile c).enterMember t) : BecomesMember s c t := by
  obtain ⟨htrunk, hevents, hrun, hjoin⟩ := h
  refine ⟨htrunk.membership, ?_, htrunk.damageCount, hrun, ?_, fun i => ?_⟩
  · rw [hevents, State.enterMember_joined]
  · rw [hjoin, State.enterMember_joinAttempts, State.reconcile_joinAttempts]
  · rw [htrunk.entries i, (TransitionKeeps.enterMember _).slots, State.reconcile_entry]

theorem StaysAnnouncing.of_stands {s t : State} {c : Census} (hm : s.membership = .announcing)
    (h : TransitionStands (s.reconcile c) t) : StaysAnnouncing s t :=
  ⟨h.trunk.membership.trans (by rw [State.reconcile_membership, hm]),
    h.joinAttempts.trans (State.reconcile_joinAttempts s c)⟩

/-- What a completion in ANNOUNCING with an intact readback does (R98, R99). -/
theorem State.announcing_joins {s : State} {c : Census} (hm : s.membership = .announcing)
    (hown : c.own = some true) :
    let t := ((s.reconcile c).censusTransition c).afterTransition
    ((∃ i : Fin 24, (s.reconcileWith c).slot i s.slots[i].entry = .unknown) → StaysAnnouncing s t)
      ∧ ((¬ ∃ i : Fin 24, (s.reconcileWith c).slot i s.slots[i].entry = .unknown) →
        BecomesMember s c t) := by
  dsimp only
  rw [State.censusTransition_announcing hm, hown]
  simp only [← State.reconcile_entry]
  refine ⟨fun hu => ?_, fun hu => ?_⟩
  · rw [State.endAnnouncing_of_unknown hu]
    exact .of_stands hm (State.afterTransition_stands (by rw [State.reconcile_membership, hm]; decide))
  · rw [State.endAnnouncing_of_known hu]
    exact .of_stands (State.afterTransition_stands nofun)

/-- What a completion in ANNOUNCING with a damaged readback does (R81, R98). -/
theorem State.announcing_fails {s : State} {c : Census} (hm : s.membership = .announcing)
    (hown : c.own = some false) :
    let t := ((s.reconcile c).censusTransition c).afterTransition
    (s.joinAttempts < 2 → t.membership = .announcing ∧ t.joinAttempts = s.joinAttempts + 1)
      ∧ (s.joinAttempts = 2 → RefusedFor .duplicate t ∧ t.joinAttempts = 3) := by
  dsimp only
  rw [State.censusTransition_announcing hm, hown, ← State.reconcile_joinAttempts s c]
  have hreconciled : (s.reconcile c).membership = .announcing := by rw [State.reconcile_membership, hm]
  generalize s.reconcile c = r at hreconciled ⊢
  refine ⟨fun hj => ?_, fun hj => ?_⟩
  · rw [State.endAnnouncing_damaged hj]
    have hstands := State.afterTransition_stands (q := { r with joinAttempts := r.joinAttempts + 1 })
      (show r.membership ≠ .leaving by rw [hreconciled]; decide)
    exact ⟨hstands.trunk.membership.trans hreconciled, hstands.joinAttempts⟩
  · rw [State.endAnnouncing_third hj, hj]
    obtain ⟨hrefused, hjoin⟩ := ({ r with joinAttempts := 2 + 1 } : State).enterRefused_refuses .duplicate
    have hstands := State.afterTransition_stands
      (q := ({ r with joinAttempts := 2 + 1 } : State).enterRefused .duplicate)
      (by rw [hrefused.membership]; decide)
    exact ⟨hrefused.afterTransition, hstands.joinAttempts.trans hjoin⟩

/-- With no cell of its own driven a completion changes nothing in ANNOUNCING (R98). -/
theorem State.announcing_silent {s : State} {c : Census} (hm : s.membership = .announcing)
    (hown : c.own = none) :
    StaysAnnouncing s ((s.reconcile c).censusTransition c).afterTransition := by
  rw [State.censusTransition_announcing hm, hown]
  exact .of_stands hm (State.afterTransition_stands
    (show (s.reconcile c).membership ≠ .leaving by rw [State.reconcile_membership, hm]; decide))

/-- The second damaged readback in a row ends membership (R72, R76). -/
theorem State.driving_loses {s : State} {c : Census} (hd : s.membership.drives = true)
    (hown : c.own = some false) (hrun : s.censusRun = 1) :
    LostMembership s ((s.reconcile c).censusTransition c).afterTransition := by
  have hrun' : (s.reconcile c).censusRun = 1 := by rw [State.reconcile_censusRun, hrun]
  have hmembership := State.reconcile_membership s c
  rw [State.censusTransition_drives hd, hown, State.endMember_limit hrun']
  generalize s.reconcile c = r at hmembership ⊢
  have hlost := (State.lose_loses (s := { r with censusRun := r.censusRun + 1 })
    (show r.membership.drives = true by rw [hmembership, hd])).afterTransition
  exact ⟨hlost.membership.trans (by rw [hmembership]), hlost.event, hlost.censusRun, hlost.slots, hlost.peers,
    hlost.drive⟩

/-- Below that a completion in MEMBER or LEAVING leaves the readback run of R81, and a LEAVING station with no
part left in the map has gone OFFLINE (R81, R101). -/
theorem State.driving_stays {s : State} {c : Census} (hd : s.membership.drives = true)
    (hbelow : c.own = some false → s.censusRun = 0) :
    let t := ((s.reconcile c).censusTransition c).afterTransition
    (t.membership = s.membership ∧ t.censusRun = readbackRunAfter c.own s.censusRun)
      ∨ s.membership = .leaving ∧ t.membership = .offline ∧ t.events.getLsbD 3 = true := by
  dsimp only
  rw [State.censusTransition_drives hd, State.endMember_below (by rwa [State.reconcile_censusRun])]
  rw [← State.reconcile_membership s c, ← State.reconcile_censusRun s c]
  generalize s.reconcile c = r
  refine (State.afterTransition_cases { r with censusRun := readbackRunAfter c.own r.censusRun }).imp_left
    fun hstands => ?_
  exact ⟨hstands.trunk.membership, hstands.censusRun⟩

/-! ### The statements -/

/-- Settles O35, through what a completion does in LISTENING and in ANNOUNCING (`listening_completes`,
`announcing_joins`, `announcing_fails`, `announcing_silent`). -/
theorem censusEndsListeningAndAnnouncing : Obligations.CensusEndsListeningAndAnnouncing := by
  refine ⟨fun bits s f hm hf hc hh ha => ?_, fun bits s f hm hf hc hh ha hintact hown => ?_,
    fun bits s f c hm hf hc hh ha hrx hown => ?_⟩
  · obtain ⟨u, ⟨g, hu⟩, hlast⟩ := State.censusArrives_last (by rw [hm]; rfl) hf hc hh ha bits
    refine ⟨_, congrArg Host.Outcome.next hlast, ?_⟩
    have hm' : u.membership = .listening := by rw [hu, ← hm]
    have hnumber : u.number = s.number := by rw [hu]
    obtain ⟨hduplicate, halone⟩ := State.listening_completes hm' (s.lastCensus f bits)
    rw [hnumber] at hduplicate halone
    split
    · rename_i cell hcell
      obtain ⟨hmembership, hreason, hevent, hslots, htimer, -, -⟩ := hduplicate cell hcell
      exact ⟨hmembership, hreason, hevent, hslots, htimer⟩
    · rename_i hnone
      exact halone hnone
  · obtain ⟨u, ⟨g, hu⟩, hlast⟩ := State.censusArrives_last (by rw [hm]; rfl) hf hc hh ha bits
    refine ⟨_, congrArg Host.Outcome.next hlast, ?_⟩
    have hm' : u.membership = .announcing := by rw [hu, ← hm]
    have hown' : (s.lastCensus f bits).own = some true := hown
    have hknown : ∀ i : Fin 24, (u.reconcileWith (s.lastCensus f bits)).slot i u.slots[i].entry ≠ .unknown :=
      fun i => Reconcile.slot_ne_unknown (by simp [State.reconcileWith, hm']) (fun hd => hintact _ hd rfl)
        (show (s.lastCensus f bits).own ≠ some false by rw [hown']; decide) i _
    obtain ⟨hmembership, hevent, hdamage, hrun, hjoin, hentries⟩ :=
      (State.announcing_joins hm' hown').2 fun ⟨i, hi⟩ => hknown i hi
    refine ⟨hmembership, hevent, hdamage, hrun, hjoin.trans (by rw [hu]), fun i => ?_⟩
    rw [hentries i]
    exact hknown i
  · obtain ⟨u, ⟨g, hu⟩, hlast⟩ := State.censusArrives_last (by rw [hm]; rfl) hf hc hh ha bits
    have hcensus : s.lastCensus f bits = c := by
      obtain ⟨rx, own⟩ := c
      exact congrArg₂ Census.mk hrx.symm hown.symm
    rw [hcensus] at hlast
    refine ⟨_, congrArg Host.Outcome.next hlast, ?_⟩
    have hm' : u.membership = .announcing := by rw [hu, ← hm]
    have hjoin : u.joinAttempts = s.joinAttempts := by rw [hu]
    have hentry : ∀ i : Fin 24, (s.reconcileWith c).slot i s.slots[i].entry
        = (u.reconcileWith c).slot i u.slots[i].entry := by rw [hu]; exact fun _ => rfl
    rw [← hjoin]
    simp only [hentry]
    refine ⟨fun hintact => ?_, fun hdamaged => (State.announcing_fails hm' hdamaged).1, fun hsilent => ?_⟩
    · obtain ⟨hunknown, hknown⟩ := State.announcing_joins hm' hintact
      by_cases hun : ∃ i : Fin 24, (u.reconcileWith c).slot i u.slots[i].entry = .unknown
      · obtain ⟨hstays, hattempts⟩ := hunknown hun
        exact ⟨iff_of_true hstays hun, fun hne => absurd hstays hne, hattempts⟩
      · obtain ⟨hmember, -, -, -, hattempts, -⟩ := hknown hun
        exact ⟨iff_of_false (by rw [hmember]; decide) hun, fun _ => hmember, hattempts⟩
    · obtain ⟨hstays, hattempts⟩ := State.announcing_silent hm' hsilent
      exact ⟨hstays, hattempts⟩

/-- Settles O38: at the limits `announcing_fails` and `driving_loses`, below them `driving_stays`. -/
theorem ownReadbackLimits : Obligations.OwnReadbackLimits := by
  refine ⟨fun bits s hdamaged => ⟨fun hm hj => ?_, fun hd hrun => ?_⟩,
    fun bits s f own hd hf hc hh ha hown hbelow => ?_⟩
  · obtain ⟨f, hf, hc, hh, ha, hown⟩ := State.of_ownDamagedAt hdamaged
    obtain ⟨u, ⟨g, hu⟩, hlast⟩ := State.censusArrives_last (by rw [hm]; rfl) hf hc hh ha bits
    have hlimit : s.membership = .announcing ∧ 3 ≤ s.joinAttempts + 1 ∧ s.ownDamagedAt bits = true :=
      ⟨hm, by omega, hdamaged⟩
    refine ⟨_, congrArg Host.Outcome.next ((if_pos hlimit).trans hlast), ?_⟩
    obtain ⟨⟨hmembership, hreason, hevent, hslots, htimer, hstreams, hdrive⟩, hjoin⟩ :=
      (State.announcing_fails (s := u) (by rw [hu, ← hm]) hown).2 (by rw [hu, ← hj])
    exact ⟨hmembership, hreason, hjoin, hevent, hslots, htimer, hstreams, hdrive⟩
  · obtain ⟨f, hf, hc, hh, ha, hown⟩ := State.of_ownDamagedAt hdamaged
    obtain ⟨u, ⟨g, hu⟩, hlast⟩ := State.censusArrives_last (Membership.maps_of_drives hd) hf hc hh ha bits
    have hlimit : s.membership.drives = true ∧ 2 ≤ s.censusRun + 1 ∧ s.ownDamagedAt bits = true :=
      ⟨hd, by omega, hdamaged⟩
    refine ⟨_, congrArg Host.Outcome.next ((if_pos hlimit).trans hlast), ?_⟩
    obtain ⟨hmembership, hevent, hzero, hslots, hpeers, hdrive⟩ :=
      State.driving_loses (s := u) (by rw [hu, ← hd]) hown (by rw [hu, ← hrun])
    exact ⟨hmembership.trans (by rw [hu]), hevent, hzero, hslots, hpeers, hdrive⟩
  · obtain ⟨u, ⟨g, hu⟩, hlast⟩ := State.censusArrives_last (Membership.maps_of_drives hd) hf hc hh ha bits
    refine ⟨_, congrArg Host.Outcome.next hlast, ?_⟩
    have hmembership : u.membership = s.membership := by rw [hu]
    have hcensusRun : u.censusRun = s.censusRun := by rw [hu]
    have hown' : (s.lastCensus f bits).own = own := hown.symm
    have hends := State.driving_stays (s := u) (c := s.lastCensus f bits) (by rw [hmembership, hd])
      (by rwa [hown', hcensusRun])
    rw [hown', hmembership, hcensusRun] at hends
    rcases hends with ⟨hstays, hrun⟩ | ⟨hleaving, hoffline, hleft⟩
    · exact ⟨fun hm => hstays.trans hm, fun hl => .inl (hstays.trans hl), fun _ => hrun⟩
    · refine ⟨fun hm => ?_, fun _ => .inr ⟨hoffline, hleft⟩, fun h => ?_⟩
      · rw [hleaving] at hm
        cases hm
      · rw [hoffline, hleaving] at h
        cases h

end Sys2Proof.Machine
end

section
/-! PROOFS. The target of a candidate: the lowest FREE slot, or the weakest slot of a peer (R113, R114). -/

namespace Sys2Proof.Machine

open Sys2Proof

/-- There is a FREE target exactly where the map holds a FREE entry (R113). -/
theorem freeTarget_eq_none_iff (slots : Vector Slot 24) :
    freeTarget slots = none ↔ ∀ j : Fin 24, slots[j].entry ≠ .free := by
  simp [freeTarget, List.head?_eq_none_iff, indicesWhere_eq_nil]

theorem freeTarget_entry {slots : Vector Slot 24} {i : Fin 24} (h : freeTarget slots = some i) :
    slots[i].entry = .free := by
  have hmem := (mem_indicesWhere _ i).1 (List.mem_of_mem_head? (Option.mem_def.2 h))
  exact beq_iff_eq.1 hmem

/-- The FREE target is the lowest FREE slot (R113). -/
theorem freeTarget_of_lowest {slots : Vector Slot 24} {i : Fin 24} (hi : slots[i].entry = .free)
    (lowest : ∀ j : Fin 24, j < i → slots[j].entry ≠ .free) : freeTarget slots = some i :=
  indicesWhere_head _ i (beq_iff_eq.2 hi) fun j hj => beq_eq_false_iff_ne.2 (lowest j hj)

/-- The slots that a candidate may preempt: HELD by another station at a lower priority (R114). -/
theorem preemptable_iff (slots : Vector Slot 24) (k : Station) (p : Priority) (i : Fin 24) :
    preemptable slots k p i = true ↔ ∃ h x, slots[i].entry = .held h x ∧ h.station ≠ k
      ∧ h.priority.toNat < p.toNat := by
  unfold preemptable
  cases slots[i].entry <;> simp [Entry.holder]

theorem heldPriority_of_held {slots : Vector Slot 24} {i : Fin 24} {h : Claimant} {x : Nat}
    (hi : slots[i].entry = .held h x) : heldPriority slots i = h.priority.toNat := by
  rw [heldPriority, hi]
  rfl

theorem preemptTarget_preemptable {slots : Vector Slot 24} {k : Station} {p : Priority} {i : Fin 24}
    (h : preemptTarget slots k p = some i) : preemptable slots k p i = true :=
  (mem_indicesWhere _ i).1 (List.mem_reverse.1 (bestBy_mem _ _ i h))

theorem preemptTarget_eq_none_iff (slots : Vector Slot 24) (k : Station) (p : Priority) :
    preemptTarget slots k p = none ↔ ∀ i, preemptable slots k p i = false := by
  rw [preemptTarget, bestBy_eq_none, List.reverse_eq_nil_iff, indicesWhere_eq_nil]

/-- The preempt target is the slot of lowest priority, and of those the highest (R114). -/
theorem preemptTarget_of_weakest {slots : Vector Slot 24} {k : Station} {p : Priority} {i : Fin 24}
    {h : Claimant} {x : Nat} (hi : slots[i].entry = .held h x) (hk : h.station ≠ k)
    (hp : h.priority.toNat < p.toNat)
    (weakest : ∀ (j : Fin 24) (g : Claimant) (y : Nat), slots[j].entry = .held g y → g.station ≠ k →
      g.priority.toNat < p.toNat → h.priority.toNat < g.priority.toNat ∨ h.priority = g.priority ∧ j ≤ i) :
    preemptTarget slots k p = some i := by
  have hmem := (preemptable_iff slots k p i).2 ⟨h, x, hi, hk, hp⟩
  have hlist : i ∈ (indicesWhere (preemptable slots k p)).reverse :=
    List.mem_reverse.2 ((mem_indicesWhere _ i).2 hmem)
  cases ht : preemptTarget slots k p with
  | none =>
    rw [(preemptTarget_eq_none_iff slots k p).1 ht i] at hmem
    cases hmem
  | some j =>
    obtain ⟨g, y, hj, hgk, hgp⟩ := (preemptable_iff slots k p j).1 (preemptTarget_preemptable ht)
    have hrank := bestBy_ge _ _ j ht i hlist
    have hfirst := bestBy_first _ (fun a b => b < a) _
      (List.pairwise_reverse.2 (indicesWhere_ascending _)) j ht i hlist
    rw [heldPriority_of_held hi, heldPriority_of_held hj] at hrank hfirst
    have hbelow := weakest j g y hj hgk hgp
    have hheight := h.priority.isLt
    have hgheight := g.priority.isLt
    rcases hbelow with hlt | ⟨hsame, hle⟩
    · omega
    · rw [hsame] at hfirst
      rcases hfirst rfl with heq | hlt
      · rw [heq]
      · exact absurd hlt (not_lt.2 hle)

/-- With no FREE entry a candidate's target is the preempt target, if it may preempt (R113, R114). -/
theorem target_of_none_free {slots : Vector Slot 24} (hfree : ∀ j : Fin 24, slots[j].entry ≠ .free)
    (k : Station) (d : StreamDef) : target slots k d
      = if d.startMode = .preempt then (preemptTarget slots k d.priority).map fun i => (i, true)
        else none := by
  rw [target, (freeTarget_eq_none_iff slots).2 hfree]

/-- What is a target: a FREE slot, without the preempt flag, or one to preempt, with it (R113, R114). -/
theorem target_cases {slots : Vector Slot 24} {k : Station} {d : StreamDef} {t : Fin 24 × Bool}
    (h : target slots k d = some t) : slots[t.1].entry = .free ∧ t.2 = false
      ∨ preemptable slots k d.priority t.1 = true ∧ t.2 = true := by
  unfold target at h
  split at h
  · rename_i i hi
    cases h
    exact .inl ⟨freeTarget_entry hi, rfl⟩
  · split at h
    · obtain ⟨i, hi, rfl⟩ := Option.map_eq_some_iff.1 h
      exact .inr ⟨preemptTarget_preemptable hi, rfl⟩
    · cases h

/-- Where no slot of a peer is below the candidate's priority there is none to preempt (R114). -/
theorem preemptTarget_of_none_below {slots : Vector Slot 24} {k : Station} {p : Priority}
    (h : ∀ (i : Fin 24) (c : Claimant) (x : Nat), slots[i].entry = .held c x → c.station ≠ k →
      p.toNat ≤ c.priority.toNat) : preemptTarget slots k p = none := by
  refine (preemptTarget_eq_none_iff slots k p).2 fun i => ?_
  rw [← Bool.not_eq_true, preemptable_iff]
  rintro ⟨c, x, hi, hk, hlow⟩
  exact absurd hlow (not_lt.2 (h i c x hi hk))

/-- Settles O52. -/
theorem targetsAreChosenInOrder : Obligations.TargetsAreChosenInOrder := by
  refine ⟨fun slots k d i hi lowest => ?_, fun slots k d hfree => ⟨fun hw => ?_, fun hp => ?_⟩⟩
  · rw [target, freeTarget_of_lowest hi lowest]
  · rw [target_of_none_free hfree, if_neg (by rw [hw]; decide)]
  · rw [target_of_none_free hfree, if_pos hp]
    refine ⟨fun i h x hi hk hlow weakest => ?_, fun hnone => ?_, fun hzero => ?_⟩
    · rw [preemptTarget_of_weakest hi hk hlow weakest]
      rfl
    · rw [preemptTarget_of_none_below hnone]
      rfl
    · rw [preemptTarget_of_none_below fun _ _ _ _ _ => by rw [hzero]; exact Nat.zero_le _]
      rfl

end Sys2Proof.Machine
end

section
/-! PROOFS. What an OPEN sets up (R104, R121, R123, R135, R188). -/

namespace Sys2Proof.Machine

open Sys2Proof

/-- An OPEN is answered DONE in MEMBER, for a CLOSED stream, while the open queue has room for one that
sends (R188). -/
theorem State.judgeOpen_of_closed {s : State} {n : Fin 16} {st : Stream} (hm : s.membership = .member)
    (hst : s.streams[n] = some st) (hc : st.state = .closed)
    (hq : st.isSend = true → s.openQueue.length < 8) : s.judgeOpen n = .done := by
  have hroom : (st.isSend && decide (Config.openQueueLimit ≤ s.openQueue.length)) = false := by
    cases hs : st.isSend with
    | false => rfl
    | true => simpa using hq hs
  simp [State.judgeOpen, hm, hst, hc, hroom]

/-- An OPEN for a CLOSED stream is answered DONE and opens it (R188). -/
theorem State.takeCommand_open {s : State} {n : BitVec 4} {st : Stream} (hm : s.membership = .member)
    (hc : s.command = some ⟨.openStream, n⟩) (hst : s.streams[n.toFin] = some st)
    (hclosed : st.state = .closed) (hq : st.isSend = true → s.openQueue.length < 8) : s.takeCommand
      = { s.openOne n.toFin st with command := none, lastResult := .done }.raise .commandDone := by
  have hdone : s.judgeCommand ⟨.openStream, n⟩ = .done := State.judgeOpen_of_closed hm hst hclosed hq
  have hperform : s.performCommand ⟨.openStream, n⟩ = s.openOne n.toFin st := by
    unfold State.performCommand
    dsimp only
    rw [hst]
  rw [State.takeCommand, hc]
  dsimp only
  rw [State.takeThis, hdone, ← hperform]
  rfl

/-- What a rule of state leaves of a stream that has just been set up: it may set the state of the stream, and
whether it has been full (R122, R134). -/
theorem Stream.opened_eq (k : Station) (slots : Vector Slot 24) (st : Stream) : st.opened k slots
    = { st.setUp with state := (st.opened k slots).state, everFull := (st.opened k slots).everFull } := by
  unfold Stream.opened Stream.standing Stream.listenRule
  repeat' split
  all_goals rfl

/-- A stream that is opened is open (R123, R135). -/
theorem Stream.opened_isOpen (k : Station) (slots : Vector Slot 24) (st : Stream) :
    (st.opened k slots).isOpen = true := by
  have hsend : (st.opened k slots).isSend = st.isSend :=
    Stream.isSend_congr (by rw [Stream.opened_eq]; rfl)
  rw [Stream.isOpen, hsend]
  cases hs : st.isSend with
  | true =>
    have hset : { st.setUp with state := StreamState.claiming }.isSend = true := hs
    simp only [Stream.opened, Stream.standing, hs, if_true, hset]
    repeat' split
    all_goals rfl
  | false =>
    have hset : { st.setUp with state := StreamState.seeking }.isSend = false := hs
    simp only [Stream.opened, Stream.listenRule, hs, hset, Bool.false_eq_true, if_false]
    repeat' split
    all_goals rfl

/-- A send stream with no slot and no candidacy is CLAIMING when it is opened (R122, R123). -/
theorem Stream.opened_claiming {k : Station} {slots : Vector Slot 24} {st : Stream} (hs : st.isSend = true)
    (hw : 1 ≤ st.defn.width) (hslots : ownHoldings slots k st.defn.label = [])
    (hcandidacy : candidacyUnder slots k st.defn.label = []) :
    (st.opened k slots).state = .claiming ∧ (st.opened k slots).everFull = false := by
  have hdefn : st.setUp.defn = st.defn := rfl
  have hlt : 0 < st.defn.width := hw
  have hfull : st.setUp.everFull = false := rfl
  simp [Stream.opened, hs, Stream.standing, hdefn, hslots, hcandidacy, hlt, hfull,
    StreamState.openSend]

/-- Settles O9. -/
theorem openSetsUpTheStream : Obligations.OpenSetsUpTheStream := by
  intro n s st hm hc hst hclosed hq
  have hopened : (s.openOne n.toFin st).streams[n.toFin] = some (st.opened s.number s.slots) := by
    refine (State.onStream_get_self s n.toFin _).trans ?_
    rw [hst]
    rfl
  rw [State.takeCommand_open hm hc hst hclosed hq]
  refine ⟨rfl, rfl, rfl, rfl, fun m hmn => ?_, rfl, _, hopened, Stream.opened_isOpen _ _ st, ?_⟩
  · exact State.onStream_get_other s n.toFin m _ hmn
  · have hclaims := @Stream.opened_claiming s.number s.slots st
    rw [Stream.opened_eq] at hclaims ⊢
    exact ⟨rfl, rfl, rfl, rfl, rfl, rfl, rfl, rfl, rfl, rfl, rfl, rfl, rfl, rfl, rfl, rfl, rfl, hclaims⟩

end Sys2Proof.Machine
end

section
/-! PROOFS. The win list and the bits of a bid at a header arrival, intact or damaged (R12, R13, R108). -/

namespace Sys2Proof.Machine

open Sys2Proof

/-! ### The bits of the bid that was driven (R12) -/

/-- What drives a census cell leaves the bits of a bid, and nothing else of a header touches them. -/
theorem State.commandAndCell_bidBits (s : State) (f : Frame) :
    (s.commandAndCell f).drive.bidBits = s.drive.bidBits := by
  unfold State.commandAndCell
  repeat' split
  all_goals simp [State.driveCensus]

theorem State.heedCues_drive (s : State) (bits : BitVec 4) (n : Option (Fin 16)) :
    (s.heedCues bits n).drive = s.drive := by
  unfold State.heedCues
  split <;> simp

theorem State.oweVeto_drive (s : State) : s.oweVeto.drive = s.drive := by
  unfold State.oweVeto
  split <;> simp

theorem State.chooseAtHeader_drive (s : State) (f : Frame) : (s.chooseAtHeader f).drive = s.drive := by
  unfold State.chooseAtHeader
  split
  · exact State.chooseBid_keeps (fun t => t.drive = s.drive)
      (fun t n ht => by simpa [State.closeOne] using ht) (fun _ _ ht => ht) s rfl
  · rfl

theorem State.headerEnd_drive (s : State) (f : Frame) : (s.headerEnd f).drive = s.drive := by
  rw [State.headerEnd_eq]

theorem State.afterMap_bidBits (s : State) (h : Header) (old : Vector Slot 24) (f : Frame) :
    (s.afterMap h old f).drive.bidBits = s.drive.bidBits := by
  rw [State.afterMap, State.headerEnd_drive, State.chooseAtHeader_drive, State.chooseAll,
    State.mapStreams_drive, State.heedCues_drive, State.commandAndCell_bidBits]

theorem State.afterMiss_bidBits (s : State) (f : Frame) :
    (s.afterMiss f).drive.bidBits = s.drive.bidBits := by
  rw [State.afterMiss, State.headerEnd_drive, State.chooseUnheard, State.mapStreams_drive,
    State.commandAndCell_bidBits, State.oweVeto_drive]

/-! ### The win list (R108) -/

/-- A header of arbitration bits `read` has been counted: the win list has aged, and the bits driven of the bid are
known (R12, R108). -/
structure HeaderCounted (read : List (Option Bool)) (s t : State) : Prop where
  wins : t.wins = ageWins (s.wonHeader read) s.wins
  bidBits : t.drive.bidBits = s.bidDriven.elim [] fun b => bidBitsDriven read b.bid

/-- A header is counted in the state `t`, or has taken the station to OFFLINE, with no record (R101, R108). -/
def CountedOrGone (read : List (Option Bool)) (s t : State) : Prop :=
  t.membership = s.membership ∧ HeaderCounted read s t ∨ t.membership = .offline ∧ t.wins = []

theorem CountedOrGone.checkLeft {read : List (Option Bool)} {s t : State}
    (membership : t.membership = s.membership) (h : HeaderCounted read s t) :
    CountedOrGone read s t.checkLeft.pump := by
  unfold State.checkLeft
  split
  · exact .inr ⟨rfl, rfl⟩
  · exact .inl ⟨(State.pump_membership t).trans membership, (State.pump_wins t).trans h.wins,
      (congrArg Drive.bidBits (State.pump_drive t)).trans h.bidBits⟩

theorem State.judgeHeader_counted (s : State) (x : HeaderStatus) (bits : HeaderBits) (f : Frame) :
    CountedOrGone (arbitrationRead bits) s ((s.setHeader x).judgeHeader bits f).pump := by
  obtain ⟨w, hw⟩ : ∃ w, w = (s.setHeader x).countWin (arbitrationRead bits) := ⟨_, rfl⟩
  have htrunk := (w.mapHeader_rest (headerFields f bits) _ fun _ => rfl).1.trans
    (.afterMap (w.mapHeader (headerFields f bits)) (headerFields f bits) s.slots f)
  have hdrive : (w.mapHeader (headerFields f bits)).drive = w.drive := by
    simp [State.mapHeader, State.handleHeader]
  rw [State.judgeHeader_eq, ← hw]
  refine CountedOrGone.checkLeft (htrunk.membership.trans (by rw [hw]; rfl)) ⟨htrunk.wins.trans ?_, ?_⟩
  · rw [hw]
    rfl
  · refine (State.afterMap_bidBits _ _ s.slots f).trans ?_
    rw [hdrive, hw]
    rfl

theorem State.missHeader_counted {s u : State} (membership : u.membership = s.membership)
    (wins : u.wins = s.wins) (bidDriven : u.bidDriven = s.bidDriven) (arb : List Halves) (f : Frame) :
    CountedOrGone (arb.map bitOfHalves) s (u.missHeader arb f).pump := by
  have htrunk := (u.missMap_rest arb _ fun _ => rfl).1
  have hafter := SameTrunk.afterMiss (u.missMap arb) f
  have hdrive : (u.missMap arb).drive = (u.countWin (arb.map bitOfHalves)).drive := by
    simp [State.missMap]
  rw [State.missHeader_eq]
  refine CountedOrGone.checkLeft ((hafter.membership.trans htrunk.membership).trans membership)
    ⟨(hafter.wins.trans htrunk.wins).trans ?_, ?_⟩
  · rw [← wins, State.wonHeader, ← bidDriven]
    rfl
  · rw [State.afterMiss_bidBits, hdrive, ← bidDriven]
    rfl

/-- The arbitration part as a header arrival reads it: nothing of it in a frame that opened unexpectedly, unless the
header came damaged (R5, R6, R12). -/
def readIn (f : Frame) (header : HeaderRx) : List (Option Bool) :=
  if f.unexpected then (match header with
    | .intact _ => []
    | .damaged arb => arb.map bitOfHalves) else header.read

theorem State.takeHeader_counted {s : State} {f : Frame} (header : HeaderRx) (hj : s.membership.judges = true)
    (hd : s.membership.drives = true → s.damageCount < 4) (hf : s.frame = some f) (hh : f.header = .due) :
    CountedOrGone (readIn f header) s (s.takeHeader header).pump := by
  have hdamaged : ∀ arb, CountedOrGone (arb.map bitOfHalves) s (s.takeHeader (.damaged arb)).pump := fun arb => by
    rw [State.takeHeader_damaged hj hd hf hh arb]
    exact State.missHeader_counted (s := s) (u := { s.setHeader .damaged with
      damageCount := if s.membership.drives then s.damageCount + 1 else s.damageCount }) rfl rfl rfl arb f
  unfold readIn
  cases header with
  | damaged arb =>
    rw [show (if f.unexpected then arb.map bitOfHalves else HeaderRx.read (.damaged arb))
      = arb.map bitOfHalves from ite_self _]
    exact hdamaged arb
  | intact bits =>
    cases hu : f.unexpected with
    | true =>
      rw [State.takeHeader_unexpected hf hu]
      exact hdamaged []
    | false =>
      rw [State.takeHeader_intact hj hf hh hu]
      exact State.judgeHeader_counted s _ bits f

/-- A win list that loses a record by age does not grow by a win (R108). -/
theorem ageWins_length_le {won : Bool} {wins : List Nat} (h : ∃ a ∈ wins, 30 ≤ a) :
    (ageWins won wins).length ≤ wins.length := by
  obtain ⟨a, ha, hold⟩ := h
  have hlost : ((wins.map (· + 1)).filter (· < Config.winAge)).length < (wins.map (· + 1)).length := by
    refine List.length_filter_lt_length_iff_exists.2 ⟨a + 1, List.mem_map_of_mem ha, ?_⟩
    simp only [Config.winAge, decide_eq_true_eq]
    omega
  rw [List.length_map] at hlost
  rw [ageWins, List.length_append]
  cases won <;> simp only [List.length_nil, List.length_singleton, if_true, Bool.false_eq_true, if_false] <;>
    omega

theorem State.winExpires_iff (s : State) : s.winExpires = true ↔ ∃ a ∈ s.wins, 30 ≤ a := by
  simp [State.winExpires, Config.winAge]

/-- Settles O26. -/
theorem headerAgesTheWins : Obligations.HeaderAgesTheWins := by
  intro header s f hj hd hf hh
  have hcounted := State.takeHeader_counted header hj hd hf hh
  refine ⟨_, exec_header header s, fun hm => ?_, fun hm => ?_, fun hold => ⟨?_, ?_⟩, fun hyoung => ?_⟩
  · rcases hcounted with ⟨-, hwins, hbits⟩ | ⟨hoffline, -⟩
    · exact ⟨hwins, hbits⟩
    · rw [← hm, hoffline] at hj
      cases hj
  · rcases hcounted with ⟨hsame, -⟩ | ⟨-, hnone⟩
    · exact absurd hsame hm
    · exact hnone
  · rcases hcounted with ⟨-, hwins, -⟩ | ⟨-, hnone⟩
    · rw [hwins]
      exact ageWins_length_le hold
    · rw [hnone]
      exact Nat.zero_le _
  · exact congrArg Host.Outcome.next (if_pos ((State.winExpires_iff s).2 hold))
  · have hno : ¬ s.winExpires = true := by
      rw [State.winExpires_iff]
      rintro ⟨a, ha, hold⟩
      exact absurd (hyoung a ha) (not_lt.2 hold)
    exact congrArg Host.Outcome.next (if_neg hno)

end Sys2Proof.Machine
end

section
/-! PROOFS. A CLOSING stream is left as it is by all that an arrival does, until the pass at its end (R115, R130,
R132, R133). -/

namespace Sys2Proof.Machine

open Sys2Proof

/-! ### The part a stream has in the map (R130) -/

theorem ChosenBid.ofStream_iff (n : Fin 16) (o : Option ChosenBid) :
    ChosenBid.ofStream n o = true ↔ ∃ b, o = some b ∧ b.stream = n := by
  simp [ChosenBid.ofStream, Option.any_eq_true]

/-- A stream has a part in the map through an entry, or through a bid chosen for it or driven (R130). -/
theorem State.streamHasPart_iff (s : State) (n : Fin 16) (st : Stream) : s.streamHasPart n st = true
    ↔ (∃ i : Fin 24, s.slots[i].entry.hasPartUnder s.number st.defn.label = true)
      ∨ (∃ b, s.chosenBid = some b ∧ b.stream = n) ∨ ∃ b, s.bidDriven = some b ∧ b.stream = n := by
  rw [State.streamHasPart, Bool.or_eq_true, Bool.or_eq_true, slots_any_iff, ChosenBid.ofStream_iff,
    ChosenBid.ofStream_iff, or_assoc]

/-- The part of a stream in the map is read from its label, the map and the bids (R130). -/
theorem State.streamHasPart_congr {s t : State} (n : Fin 16) {st x : Stream} (defn : x.defn = st.defn)
    (slots : t.slots = s.slots := by simp) (number : t.number = s.number := by simp)
    (chosenBid : t.chosenBid = s.chosenBid := by simp) (bidDriven : t.bidDriven = s.bidDriven := by simp) :
    t.streamHasPart n x = s.streamHasPart n st := by
  simp only [State.streamHasPart, defn, slots, number, chosenBid, bidDriven]

/-! ### A stream that is still CLOSING -/

/-- The CLOSING send stream `st` is still CLOSING as `x`, with the event and the close reason that it had. -/
structure StillClosing (st x : Stream) : Prop where
  defn : x.defn = st.defn
  isSend : x.isSend = true
  state : x.state = .closing
  event : x.event = st.event
  closeReason : x.closeReason = st.closeReason

section
variable {st x y : Stream}

theorem StillClosing.trans (h : StillClosing st x) (h' : StillClosing x y) : StillClosing st y :=
  ⟨h'.defn.trans h.defn, h'.isSend, h'.state, h'.event.trans h.event, h'.closeReason.trans h.closeReason⟩

/-- A CLOSING stream whose event, state and reason an operation does not touch. -/
theorem StillClosing.of_same (hs : st.isSend = true) (hc : st.state = .closing)
    (same : (x.defn, x.state, x.event, x.closeReason) = (st.defn, st.state, st.event, st.closeReason)) :
    StillClosing st x := by
  simp only [Prod.mk.injEq] at same
  obtain ⟨hdefn, hstate, hevent, hreason⟩ := same
  exact ⟨hdefn, (Stream.isSend_congr hdefn).trans hs, hstate.trans hc, hevent, hreason⟩

theorem StillClosing.refl (hs : st.isSend = true) (hc : st.state = .closing) : StillClosing st st :=
  .of_same hs hc rfl

/-- A CLOSING stream is not open (R121). -/
theorem Stream.isOpen_of_closing (hs : st.isSend = true) (hc : st.state = .closing) : st.isOpen = false := by
  rw [Stream.isOpen, if_pos hs, hc]
  rfl

theorem Stream.hearCell_of_send (hs : st.isSend = true) (i : Nat) (rx : CellRx) (slots : Vector Slot 24)
    (now : Stamp) : st.hearCell i rx slots now = st := by
  cases rx <;> simp [Stream.hearCell, Stream.accepts, hs]

theorem Stream.heedCue_of_not_open (ho : st.isOpen = false) (bits : BitVec 4) (skip : Bool) (k : Station)
    (slots : Vector Slot 24) : st.heedCue bits skip k slots = st := by
  have hlatch : st.consumeLatch = st := by simp [Stream.consumeLatch, ho]
  simp [Stream.heedCue, hlatch, ho]

theorem StillClosing.noteStall (hs : st.isSend = true) (hc : st.state = .closing) (k : Station)
    (old new : Vector Slot 24) (stall : BitVec 24) : StillClosing st (st.noteStall k old new stall) := by
  rw [Stream.noteStall, if_pos hs]
  exact .of_same hs hc rfl

/-- The stall run of a CLOSING stream is not examined (R129). -/
theorem Stream.noteStallRun_of_closing (hc : st.state = .closing) : st.noteStallRun = st := by
  simp [Stream.noteStallRun, hc, StreamState.openSend]

/-- A listener's cue action that waits on a send stream does nothing to its state (R179). -/
theorem StillClosing.applyCue (hs : st.isSend = true) (hc : st.state = .closing) (slots : Vector Slot 24) :
    StillClosing st (st.applyCue slots) := by
  have hrule : ∀ v : Stream, v.isSend = true → v.listenRule slots = v := fun v hv => by
    simp [Stream.listenRule, hv]
  have hstop : ∀ v : Stream, (v.stopHandBack.state, v.stopHandBack.event, v.stopHandBack.closeReason)
      = (v.state, v.event, v.closeReason) := fun v => by
    unfold Stream.stopHandBack Stream.handBackCurrent Stream.checkListenStarved
    repeat' split
    all_goals rfl
  have hdefn := Stream.applyCue_defn slots st
  refine .of_same hs hc (Prod.ext hdefn ?_)
  unfold Stream.applyCue
  dsimp only
  split
  · rfl
  · rw [hrule { st with cueAction := none, awaiting := false, expectation := none } hs]
  · refine (hstop _).trans ?_
    rw [hrule { st with cueAction := none, awaiting := true } hs]
  · rfl
  · rfl

/-- A CLOSING stream drives no word and discards none (R124, R126). -/
theorem StillClosing.spendWords (hs : st.isSend = true) (hc : st.state = .closing) (s : State)
    (expected : Bool) : StillClosing st (s.spendWords expected st) := by
  have hdrives : s.slotsToDrive expected st = [] := by simp [State.slotsToDrive, Stream.sending, hc]
  have hdiscards : st.discardsToMake expected 0 = 0 := by
    simp [Stream.discardsToMake, Stream.discarding, hc]
  have hspent : s.spendWords expected st = st.chooseNone := by
    rw [State.spendWords, if_pos hs, hdrives]
    dsimp only [List.length_nil]
    rw [hdiscards]
    rfl
  rw [hspent]
  exact .of_same hs hc rfl

end

/-! ### The CLOSING streams of a state -/

/-- Every CLOSING send stream of the state `s` is still CLOSING in the state `t`. -/
def ClosingKept (s t : State) : Prop :=
  ∀ (n : Fin 16) (st : Stream), s.streams[n] = some st → st.isSend = true → st.state = .closing →
    ∃ x, t.streams[n] = some x ∧ StillClosing st x

section
variable {s t u : State}

theorem ClosingKept.of_streams (streams : t.streams = s.streams) : ClosingKept s t :=
  fun n st hn hs hc => ⟨st, by rw [streams]; exact hn, .refl hs hc⟩

theorem ClosingKept.refl (s : State) : ClosingKept s s := .of_streams rfl

theorem ClosingKept.trans (h : ClosingKept s t) (h' : ClosingKept t u) : ClosingKept s u := by
  intro n st hn hs hc
  obtain ⟨x, hx, hstill⟩ := h n st hn hs hc
  obtain ⟨y, hy, hstill'⟩ := h' n x hx hstill.isSend hstill.state
  exact ⟨y, hy, hstill.trans hstill'⟩

theorem ClosingKept.mapStreams (s : State) {g : Fin 16 → Stream → Stream}
    (hg : ∀ n st, st.isSend = true → st.state = .closing → StillClosing st (g n st)) :
    ClosingKept s (s.mapStreams g) := by
  intro n st hn hs hc
  refine ⟨g n st, ?_, hg n st hs hc⟩
  rw [Fin.getElem_fin, State.mapStreams_get, show s.streams[n.val] = some st from hn]
  rfl

/-- An operation that leaves every stream that is not open as it is. -/
theorem ClosingKept.mapOpen (s : State) {g : Fin 16 → Stream → Stream}
    (hg : ∀ n st, st.isOpen = false → g n st = st) : ClosingKept s (s.mapStreams g) :=
  .mapStreams s fun n st hs hc => by
    rw [hg n st (Stream.isOpen_of_closing hs hc)]
    exact .refl hs hc

theorem ClosingKept.mapReport (s : State) (closes : Fin 16 → Bool) (old : Vector Slot 24) :
    ClosingKept s (s.mapReport closes old) := by
  refine (ClosingKept.mapOpen s fun n st ho => ?_).trans (.of_streams (State.cleanQueue_streams _))
  rw [Stream.report_of_not_open ho, ite_self]

/-- A CLOSE of a CLOSING stream, or a label clash, leaves it as it is (R133). -/
theorem ClosingKept.closeOne (s : State) {reason : CloseReason} (n : Fin 16)
    (h : ∀ st : Stream, st.closeAgain reason = st) : ClosingKept s (s.closeOne reason n) := by
  intro m st hm hs hc
  refine ⟨st, ?_, .refl hs hc⟩
  rw [State.closeOne_stream]
  split
  · rename_i hmn
    rw [← hmn, hm, Option.map_some, Stream.close_of_closing hs hc, h]
  · exact hm

/-- An OPEN of a CLOSING stream is refused (R188). -/
theorem ClosingKept.openOne {n : Fin 16} {st : Stream} (hst : s.streams[n] = some st)
    (hclosed : st.state = .closed) : ClosingKept s (s.openOne n st) := by
  intro m x hm hs hc
  have hmn : m ≠ n := fun he => by
    rw [he, hst] at hm
    cases hm
    rw [hclosed] at hc
    cases hc
  exact ⟨x, (State.onStream_get_other s n m _ hmn).trans hm, .refl hs hc⟩

theorem ClosingKept.takeCommand (s : State) : ClosingKept s s.takeCommand := by
  unfold State.takeCommand
  split
  · exact .refl s
  · rename_i c _
    unfold State.takeThis
    dsimp only
    split
    · rename_i hdone
      refine ClosingKept.trans ?_ (t := s.performCommand c) (.of_streams rfl)
      obtain ⟨code, stream⟩ := c
      cases code with
      | openStream =>
        obtain ⟨st, hst, hclosed⟩ := State.judgeOpen_done hdone
        unfold State.performCommand
        dsimp only
        rw [hst]
        exact .openOne hst hclosed
      | closeStream => exact .closeOne s _ fun _ => rfl
      | setStanding => exact .of_streams rfl
    · exact .of_streams rfl

theorem ClosingKept.commandAndCell (s : State) (f : Frame) : ClosingKept s (s.commandAndCell f) :=
  (ClosingKept.takeCommand s).trans (.of_streams (s.commandAndCell_takes f).1)

theorem ClosingKept.heedCues (s : State) (bits : BitVec 4) (n : Option (Fin 16)) :
    ClosingKept s (s.heedCues bits n) := by
  unfold State.heedCues
  split
  · refine ClosingKept.trans (.trans (t := { s with cueOut := s.cueOut ||| bits }) (.of_streams rfl)
      (.mapOpen _ fun m st ho => Stream.heedCue_of_not_open ho _ _ _ _))
      (.of_streams (State.cleanQueue_streams _))
  · exact .refl s

theorem ClosingKept.oweVeto (s : State) : ClosingKept s s.oweVeto := by
  unfold State.oweVeto
  split
  · exact .trans (t := { s with vetoOwed := true }) (.of_streams rfl)
      (.mapOpen _ fun _ st ho => Stream.missCue_of_unbound (.inl ho))
  · exact .refl s

theorem ClosingKept.chooseAll (s : State) (old : Vector Slot 24) (stall : BitVec 24) (f : Frame) :
    ClosingKept s (s.chooseAll old stall f) := by
  refine .mapStreams s fun _ st hs hc => ?_
  have hnote : StillClosing st (if f.census then st else st.noteStall s.number old s.slots stall) := by
    split
    · exact .refl hs hc
    · exact .noteStall hs hc _ _ _ _
  refine hnote.trans ?_
  dsimp only
  generalize (if f.census then st else st.noteStall s.number old s.slots stall) = x at hnote ⊢
  split <;> exact .of_same hnote.isSend hnote.state rfl

theorem ClosingKept.chooseUnheard (s : State) (f : Frame) : ClosingKept s (s.chooseUnheard f) := by
  refine .mapStreams s fun _ st hs hc => ?_
  split <;> exact .of_same hs hc rfl

theorem ClosingKept.chooseBid (s : State) : ClosingKept s s.chooseBid :=
  State.chooseBid_keeps (ClosingKept s) (fun t n h => h.trans (.closeOne t n fun _ => rfl))
    (fun _ _ h => h.trans (.of_streams rfl)) s (.refl s)

theorem ClosingKept.chooseAtHeader (s : State) (f : Frame) : ClosingKept s (s.chooseAtHeader f) := by
  unfold State.chooseAtHeader
  split
  · exact .chooseBid s
  · exact .of_streams rfl

/-! ### The pass at the end of an arrival (R132) -/

theorem ClosingKept.follows (h : ClosingKept s t) (h' : ClosingFollows t u) : ClosingFollows s u := by
  intro n st hn hs hc
  obtain ⟨x, hx, hdefn, hsend, hstate, hevent, hreason⟩ := h n st hn hs hc
  obtain ⟨st', hst', hstate', hevent', hreason'⟩ := h' n x hx hsend hstate
  rw [State.streamHasPart_congr n hdefn rfl rfl rfl rfl] at hstate' hevent'
  exact ⟨st', hst', hstate', by rw [hevent', hevent], hreason'.trans hreason⟩

theorem ClosingKept.finishClosing (h : ClosingKept s t) : ClosingFollows s t.finishClosing :=
  h.follows t.finishClosing_follows

/-- What follows the pass may change every stream, but for its state, its event and its reason. -/
theorem closingFollows_mapStreams (h : ClosingFollows s t) {g : Fin 16 → Stream → Stream}
    (hg : ∀ n x, ((g n x).state, (g n x).event, (g n x).closeReason) = (x.state, x.event, x.closeReason)) :
    ClosingFollows s (t.mapStreams g) := by
  intro n st hn hs hc
  obtain ⟨x, hx, hstate, hevent, hreason⟩ := h n st hn hs hc
  have hsame := hg n x
  simp only [Prod.mk.injEq] at hsame
  obtain ⟨hstate', hevent', hreason'⟩ := hsame
  rw [State.streamHasPart_congr (s := t) n rfl]
  refine ⟨g n x, ?_, hstate'.trans hstate, hevent'.trans hevent, hreason'.trans hreason⟩
  rw [Fin.getElem_fin, State.mapStreams_get, show t.streams[n.val] = some x from hx]
  rfl

theorem closingFollows_pump (h : ClosingFollows s t) : ClosingFollows s t.pump := by
  have hissued : ClosingFollows s t.issueAll := closingFollows_mapStreams h fun _ x => by rw [Stream.issue_eq]
  intro n st hn hs hc
  rw [State.streamHasPart_congr (s := t.issueAll) n rfl, State.pump_streams]
  exact hissued n st hn hs hc

theorem ClosingKept.headerEnd (h : ClosingKept s t) (f : Frame) : ClosingFollows s (t.headerEnd f) := by
  have hclosed := (h.trans (u := { t with bidDriven := none }) (.of_streams rfl)).finishClosing
  unfold State.headerEnd
  dsimp only
  split
  · exact hclosed
  · refine closingFollows_mapStreams hclosed fun _ x => ?_
    unfold Stream.pollRingEnd
    split <;> rfl


/-! ### A header (R37, R64) -/

theorem ClosingKept.mapHeader (s : State) (h : Header) : ClosingKept s (s.mapHeader h) := by
  have hhandled : ClosingKept s (s.handleHeader h) := .of_streams (by simp [State.handleHeader])
  exact (hhandled.trans (.mapReport _ _ _)).trans (.of_streams (State.refreshIntent_streams _))

theorem ClosingKept.missMap (s : State) (arb : List Halves) : ClosingKept s (s.missMap arb) := by
  obtain ⟨u, hu⟩ : ∃ u : State, u = { s.countWin (arb.map bitOfHalves) with chosenBid := none } := ⟨_, rfl⟩
  have hunsettled : ClosingKept s u.unsettleAll := .of_streams (by simp [hu, State.countWin])
  rw [State.missMap, ← hu]
  exact (hunsettled.trans (.mapReport _ _ _)).trans (.of_streams (State.refreshIntent_streams _))

theorem ClosingKept.afterMap (h : ClosingKept s t) (x : Header) (old : Vector Slot 24) (f : Frame) :
    ClosingFollows s (t.afterMap x old f) :=
  ClosingKept.headerEnd (h.trans ((((ClosingKept.commandAndCell t f).trans (.heedCues _ _ _)).trans
    (.chooseAll _ _ _ f)).trans (.chooseAtHeader _ f))) f

theorem ClosingKept.afterMiss (h : ClosingKept s t) (f : Frame) : ClosingFollows s (t.afterMiss f) :=
  ClosingKept.headerEnd (h.trans (((ClosingKept.oweVeto t).trans (.commandAndCell _ f)).trans
    (.chooseUnheard _ f))) f

/-- At an intact header the CLOSING streams follow R132. -/
theorem State.judgeHeader_closing (s : State) (bits : HeaderBits) (f : Frame)
    (hm : (s.judgeHeader bits f).membership ≠ .offline) : ClosingFollows s (s.judgeHeader bits f) := by
  rw [State.judgeHeader_eq] at hm ⊢
  rw [State.checkLeft_of_membership hm]
  exact ClosingKept.afterMap ((ClosingKept.of_streams (t := s.countWin _) rfl).trans (.mapHeader _ _)) _ _ f

/-- At a damaged header the CLOSING streams follow R132. -/
theorem State.missHeader_closing (s : State) (arb : List Halves) (f : Frame)
    (hm : (s.missHeader arb f).membership ≠ .offline) : ClosingFollows s (s.missHeader arb f) := by
  rw [State.missHeader_eq] at hm ⊢
  rw [State.checkLeft_of_membership hm]
  exact ClosingKept.afterMiss (.missMap s arb) f

/-- A damaged header after which the map still acts is handled as one below the limit (R70). -/
theorem State.damagedHeader_of_maps {s : State} (hj : s.membership.judges = true) (arb : List Halves)
    (f : Frame) (hm : (s.damagedHeader arb f).membership.maps = true) :
    ∃ c : Nat, s.damagedHeader arb f
      = ({ s.setHeader .damaged with damageCount := c } : State).missHeader arb f := by
  unfold State.damagedHeader at hm ⊢
  dsimp only at hm ⊢
  split at hm
  · rename_i hd
    rw [if_pos hd]
    split at hm
    · rw [State.takeCommand_membership, State.lose_maps] at hm
      cases hm
    · rename_i hlimit
      rw [if_neg hlimit]
      exact ⟨_, rfl⟩
  · rename_i hd
    rw [if_neg hd, if_pos (show (s.setHeader .damaged).membership.judges = true from hj)]
    exact ⟨_, rfl⟩

theorem State.damagedHeader_closing {s : State} (hj : s.membership.judges = true) (arb : List Halves)
    (f : Frame) (hm : (s.damagedHeader arb f).membership = s.membership) :
    ClosingFollows s (s.damagedHeader arb f) := by
  have hmaps : (s.damagedHeader arb f).membership.maps = true := by
    rw [hm]
    exact Membership.maps_of_judges hj
  obtain ⟨c, hc⟩ := State.damagedHeader_of_maps hj arb f hmaps
  rw [hc] at hmaps ⊢
  exact State.missHeader_closing _ arb f fun ho => by
    rw [ho] at hmaps
    cases hmaps

/-- At a header that leaves the membership as it is the CLOSING streams follow R132. -/
theorem State.takeHeader_closing (header : HeaderRx) {s : State} {f : Frame} (hj : s.membership.judges = true)
    (hf : s.frame = some f) (hh : f.header = .due)
    (hm : (s.takeHeader header).membership = s.membership) : ClosingFollows s (s.takeHeader header) := by
  have hdamaged : ∀ arb, s.takeHeader (.damaged arb) = s.damagedHeader arb f := fun arb => by
    simp only [State.takeHeader,
      State.headerDue_eq (Membership.receives_of_maps (Membership.maps_of_judges hj)) hf hh]
  cases header with
  | damaged arb =>
    rw [hdamaged] at hm ⊢
    exact State.damagedHeader_closing hj arb f hm
  | intact bits =>
    cases hu : f.unexpected with
    | true =>
      rw [State.takeHeader_unexpected hf hu, hdamaged] at hm ⊢
      exact State.damagedHeader_closing hj [] f hm
    | false =>
      rw [State.takeHeader_intact hj hf hh hu] at hm ⊢
      refine State.judgeHeader_closing (s.setHeader _) bits f fun ho => ?_
      rw [ho] at hm
      rw [← hm] at hj
      cases hj

/-! ### A cell and a census completion (R27, R82) -/

theorem ClosingKept.cellMap (s : State) (i : Nat) (rx : CellRx) : ClosingKept s (s.cellMap i rx) :=
  fun n st hn hs hc => ⟨st, by rw [State.cellMap_stream, hn, Option.map_some, Stream.hearCell_of_send hs],
    .refl hs hc⟩

/-- At a cell the CLOSING streams follow R132. -/
theorem State.cellDone_closing (s : State) (i : Nat) (rx : CellRx) : ClosingFollows s (s.cellDone i rx) :=
  ClosingKept.finishClosing (((ClosingKept.cellMap s i rx).trans (.mapReport _ _ _)).trans
    (.of_streams (State.refreshIntent_streams _)))

theorem ClosingKept.reconcile (s : State) (c : Census) : ClosingKept s (s.reconcile c) := by
  have htables : ClosingKept s ((s.reconcileTables c).adoptCycle c) :=
    .of_streams (by simp [State.reconcileTables])
  refine ((htables.trans (.mapReport _ (fun _ => s.losesAt c.own) s.slots)).trans
    (.of_streams (State.refreshIntent_streams _))).trans (.mapStreams _ fun _ st hs hc => ?_)
  rw [Stream.noteStallRun_of_closing hc]
  exact .refl hs hc

/-- At a census completion the CLOSING streams follow R132. -/
theorem State.completeCensus_closing {s : State} {c : Census} (hm : s.membership.maps = true)
    (ht : (s.completeCensus c).membership.maps = true) : ClosingFollows s (s.completeCensus c) := by
  obtain ⟨q, hq, hcomplete⟩ := State.completeCensus_of_maps hm ht
  rw [hcomplete]
  exact ClosingKept.finishClosing (((ClosingKept.reconcile s c).trans (.of_streams hq.streams)).trans
    (.chooseBid q))

/-! ### A frame start (R1, R115) -/

theorem ClosingKept.opening (s : State) (mark : Bool) : ClosingKept s (s.opening mark) :=
  (ClosingKept.of_streams (t := (s.startFrame mark).endLost mark) (State.endLost_streams _ _)).trans
    (.mapStreams _ fun _ _ hs hc => .applyCue hs hc _)

theorem ClosingKept.driveFrame (s : State) (f : Frame) : ClosingKept s (s.driveFrame f) := by
  refine ClosingKept.trans (.of_streams rfl) (.mapStreams _ fun n st hs hc => ?_)
  have hspent := StillClosing.spendWords hs hc s (!f.census && !f.unexpected)
  have hstall : ∀ slots, (s.spendWords (!f.census && !f.unexpected) st).listenStall slots
      = s.spendWords (!f.census && !f.unexpected) st := fun _ => if_pos hspent.isSend
  dsimp only
  rw [hstall, ite_self]
  exact hspent

/-- At a frame start of a station that drives the CLOSING streams follow R132: a bid that is dropped there ends
their part (R115). -/
theorem State.openFrame_closing {s : State} (hd : s.membership.drives = true) (mark : Bool)
    (hm : (s.openFrame mark).membership ≠ .offline) : ClosingFollows s (s.openFrame mark) := by
  have hframe : (s.opening mark).frame = some (s.newFrame mark) := by
    simp [State.opening, State.applyCues, State.startFrame]
  have hopen : s.openFrame mark
      = ((s.opening mark).driveFrame (s.newFrame mark)).finishClosing.checkLeft := by
    unfold State.openFrame
    dsimp only
    rw [show ((s.startFrame mark).endLost mark).applyCues = s.opening mark from rfl, hframe]
    dsimp only
    rw [if_pos (by rw [State.opening_drives]; exact hd)]
  rw [hopen] at hm ⊢
  rw [State.checkLeft_of_membership hm]
  exact ClosingKept.finishClosing ((ClosingKept.opening s mark).trans (.driveFrame _ _))

end

/-- The part of this station in an entry under a label (R130). -/
theorem Entry.hasPartUnder_iff (e : Entry) (k : Station) (l : Label) : e.hasPartUnder k l = true ↔ match e with
    | .held h _ => h.station = k ∧ h.label = l
    | .releasePending h => h.station = k ∧ h.label = l
    | .claimPending c prior => ∃ h ∈ c.bidder :: prior.toList, h.station = k ∧ h.label = l
    | .unsure cs => ∃ h ∈ cs, h.station = k ∧ h.label = l
    | _ => False := by
  rcases e with _ | _ | _ | ⟨c, _ | h⟩ | _ | _ <;> simp [Entry.hasPartUnder, Claimant.is]

/-- Settles O29, by the pass at the end of each of the arrivals: what comes before it leaves a CLOSING stream as
it is, and what comes after it neither its state nor its event. -/
theorem closingStreamsPassToClosed : Obligations.ClosingStreamsPassToClosed := by
  refine ⟨fun s n st => ?_, fun header s f hj hf hh => ?_, fun bits s f hm hf hc hh ha => ?_,
    fun bits s f hm hf hc hh ha => ?_, fun mark arb s u hr hu hd => ?_⟩
  · rw [State.streamHasPart_iff]
    exact or_congr (exists_congr fun i => Entry.hasPartUnder_iff _ _ _) Iff.rfl
  · refine ⟨_, exec_header header s, fun ht => ?_⟩
    rw [State.pump_membership] at ht
    exact closingFollows_pump (State.takeHeader_closing header hj hf hh ht)
  · refine ⟨_, rfl, fun ht => ?_⟩
    rw [State.pump_membership, State.cellArrives_eq (Membership.receives_of_maps hm) hf hc hh ha,
      State.takeCell_of_maps hm] at ht
    rw [State.cellArrives_eq (Membership.receives_of_maps hm) hf hc hh ha, State.takeCell_of_maps hm,
      State.checkLeft_of_membership (by rw [ht]; rintro ho; rw [ho] at hm; cases hm)]
    exact closingFollows_pump (State.cellDone_closing s.countCell _ _)
  · refine ⟨_, rfl, fun ht => ?_⟩
    rw [State.pump_membership, State.censusArrives_eq (Membership.receives_of_maps hm) hf hc hh (by omega),
      State.takeCensus_of_last s ha] at ht
    rw [State.censusArrives_eq (Membership.receives_of_maps hm) hf hc hh (by omega), State.takeCensus_of_last s ha]
    exact closingFollows_pump (State.completeCensus_closing (s := { s with frame := some _ }) hm ht)
  · have hmaps := Membership.maps_of_drives hd
    subst hu
    refine ⟨_, exec_frameStart_of_receives hr mark arb (Membership.receives_of_maps hmaps), fun ht => ?_⟩
    rw [State.pump_membership] at ht
    exact closingFollows_pump (State.openFrame_closing hd _ fun ho => by
      rw [← ht, ho] at hd
      cases hd)

end Sys2Proof.Machine
end

section
/-! PROOFS. The arbiter's choice: a chosen bid is fit to bid, and the state after an arrival shows the choice that
was made in it (R105, R107, R109, R111 to R115). -/

namespace Sys2Proof.Machine

open Sys2Proof

/-! ### A bid that is fit to bid (R111 to R115) -/

/-- The bid `b` is one that the station of the state `s` is free to make: below the holding limit, for a label that
no other station uses and for one of its streams, and for a target that is FREE, or to preempt (R111 to R115). -/
structure FitBid (s : State) (b : ChosenBid) : Prop where
  station : b.bid.station = s.number
  below : holdingCount s.slots s.number < 8
  unused : ∀ k ∈ labelUsers s.slots b.bid.label, k = s.number
  stream : ∃ st, s.streams[b.stream] = some st ∧ b.bid.label = st.defn.label
    ∧ b.bid.priority = st.defn.priority
  target : ∃ i : Fin 24, b.bid.slot.toNat = i.val
    ∧ (s.slots[i].entry = .free ∧ b.bid.preempt = false
      ∨ ∃ h x, s.slots[i].entry = .held h x ∧ h.station ≠ s.number ∧ b.bid.preempt = true
          ∧ h.priority.toNat < b.bid.priority.toNat)

/-- The holding count is read from the entries (R24). -/
theorem holdingCount_congr {slots slots' : Vector Slot 24}
    (h : ∀ i : Fin 24, slots'[i].entry = slots[i].entry) (k : Station) :
    holdingCount slots' k = holdingCount slots k := by
  simp only [holdingCount, h]

/-- Who uses a label is read from the entries (R25). -/
theorem mem_labelUsers_congr {slots slots' : Vector Slot 24}
    (h : ∀ i : Fin 24, slots'[i].entry = slots[i].entry) (l : Label) (k : Station) :
    k ∈ labelUsers slots' l ↔ k ∈ labelUsers slots l := by
  simp only [mem_labelUsers_iff, h]

/-- Every stream of `t` is defined as the stream of that number of `s`. -/
def DefinedAs (s t : State) : Prop :=
  ∀ (n : Fin 16) (x : Stream), t.streams[n] = some x → ∃ st, s.streams[n] = some st ∧ x.defn = st.defn

theorem DefinedAs.trans {s t u : State} (h : DefinedAs s t) (h' : DefinedAs t u) : DefinedAs s u := by
  intro n x hx
  obtain ⟨y, hy, hxy⟩ := h' n x hx
  obtain ⟨st, hst, hyst⟩ := h n y hy
  exact ⟨st, hst, hxy.trans hyst⟩

theorem DefinedAs.refl (s : State) : DefinedAs s s := fun _ x hx => ⟨x, hx, rfl⟩

/-- A closure leaves every definition (R120). -/
theorem DefinedAs.closeOne (s : State) (reason : CloseReason) (n : Fin 16) :
    DefinedAs s (s.closeOne reason n) := by
  intro m x hx
  rw [State.closeOne_stream] at hx
  split at hx
  · rename_i hmn
    obtain ⟨st, hst, rfl⟩ := Option.map_eq_some_iff.1 hx
    exact ⟨st, by rw [hmn]; exact hst, Stream.close_defn _ _ st⟩
  · exact ⟨x, hx, rfl⟩

/-- Whether a bid is fit is read from the entries, the number and the definitions of the streams. -/
theorem FitBid.of_trunk {s u : State} {b : ChosenBid} (h : FitBid u b) (htrunk : SameTrunk s u)
    (hdefined : DefinedAs s u) : FitBid s b := by
  obtain ⟨hstation, hbelow, hunused, ⟨x, hx, hlabel, hpriority⟩, htarget⟩ := h
  obtain ⟨st, hst, hdefn⟩ := hdefined _ x hx
  rw [htrunk.number] at hstation hbelow hunused htarget
  rw [holdingCount_congr htrunk.entries] at hbelow
  simp only [mem_labelUsers_congr htrunk.entries] at hunused
  simp only [htrunk.entries] at htarget
  exact ⟨hstation, hbelow, hunused, ⟨st, hst, by rw [hlabel, hdefn], by rw [hpriority, hdefn]⟩, htarget⟩

/-- The bid of a candidate whose label no other station uses is fit (R111 to R115). -/
theorem State.bidOf_fit {s : State} {n : Fin 16} {st : Stream} {b : ChosenBid} (hst : s.streams[n] = some st)
    (hunused : usedByOther s.slots st.defn.label s.number = false) (hb : s.bidOf n st = some b) :
    FitBid s b := by
  unfold State.bidOf at hb
  split at hb
  · cases hb
  · rename_i hlimit
    obtain ⟨⟨i, flag⟩, ht, rfl⟩ := Option.map_eq_some_iff.1 hb
    have hslot : (BitVec.ofNat 5 i.val).toNat = i.val := by
      have := i.isLt
      rw [BitVec.toNat_ofNat]
      omega
    refine ⟨rfl, not_le.1 hlimit, (usedByOther_eq_false_iff _ _ _).1 hunused, ⟨st, hst, rfl, rfl⟩, i,
      hslot, ?_⟩
    refine (target_cases ht).imp id fun ⟨hpreempt, hflag⟩ => ?_
    obtain ⟨h, x, he, hk, hp⟩ := (preemptable_iff _ _ _ _).1 hpreempt
    exact ⟨h, x, he, hk, hflag, hp⟩

/-- The own station judges a fit bid valid where it has itself in its peer table (R41). -/
theorem FitBid.valid {s : State} {b : ChosenBid} (h : FitBid s b) {i : Fin 24}
    (hi : s.slots[i].entry = .free ∧ b.bid.preempt = false
      ∨ ∃ h x, s.slots[i].entry = .held h x ∧ h.station ≠ s.number ∧ b.bid.preempt = true
          ∧ h.priority.toNat < b.bid.priority.toNat)
    (hpeer : (s.peer s.number).state = .present ∨ (s.peer s.number).state = .missing) :
    s.bidValid b.bid s.slots[i].entry = true := by
  generalize s.slots[i].entry = e at hi ⊢
  obtain ⟨hstation, hbelow, hunused, -, -⟩ := h
  have hstanding : s.hasStanding s.number = true :=
    (s.hasStanding_iff _).2 (hpeer.imp_right Or.inl)
  have htarget : b.bid.targetOk e = true :=
    (Bid.targetOk_iff _ _).2 (hi.imp And.left (by rw [hstation]; exact id))
  have hlabel := (usedByOther_eq_false_iff _ _ _).2 hunused
  have hlimit : holdingCount s.slots s.number < Config.holdingLimit := hbelow
  simp [State.bidValid, hstation, hstanding, htarget, hlabel, hlimit]

/-! ### What a choice finds (R107, R109, R110) -/

/-- The state `u` is one that the arbiter reaches in a choice that it began in `s`. -/
structure Choosing (s u : State) : Prop where
  trunk : SameTrunk s u
  defined : DefinedAs s u
  fit : ∀ b, u.chosenBid = some b → FitBid s b

theorem Choosing.start (s : State) : Choosing s { s with chosenBid := none } :=
  ⟨⟨fun _ => rfl, rfl, rfl, rfl, rfl, rfl, rfl, rfl, rfl, rfl⟩, .refl s, nofun⟩

theorem Choosing.tryCandidate {s u : State} (h : Choosing s u) (n : Fin 16) :
    Choosing s (u.tryCandidate n) := by
  obtain ⟨htrunk, hdefined, hfit⟩ := h
  unfold State.tryCandidate
  split
  · exact ⟨htrunk, hdefined, hfit⟩
  · rename_i st hst
    split
    · exact ⟨htrunk.trans (.closeOne u _ n), hdefined.trans (.closeOne u _ n), fun b hb =>
        hfit b ((State.closeOne_chosenBid u _ n).symm.trans hb)⟩
    · split
      · exact ⟨htrunk, hdefined, hfit⟩
      · rename_i hused
        refine ⟨htrunk.trans ⟨fun _ => rfl, rfl, rfl, rfl, rfl, rfl, rfl, rfl, rfl, rfl⟩, hdefined,
          fun b hb => ?_⟩
        exact (State.bidOf_fit hst (Bool.not_eq_true _ ▸ hused) hb).of_trunk htrunk hdefined

theorem Choosing.tryCandidates {s : State} (ns : List (Fin 16)) :
    ∀ u, Choosing s u → Choosing s (u.tryCandidates ns) := by
  induction ns with
  | nil => exact fun _ h => h
  | cons n ns ih =>
    intro u h
    unfold State.tryCandidates
    dsimp only
    split
    · exact h.tryCandidate n
    · exact ih _ (h.tryCandidate n)

/-- A choice finds no bid outside MEMBER (R107). -/
theorem State.chooseBid_of_not_member {s : State} (h : s.membership ≠ .member) :
    s.chooseBid = { s with chosenBid := none } := if_neg fun hm => h hm.1

/-- A choice finds no bid when the win budget is spent (R109). -/
theorem State.chooseBid_of_spent {s : State} (h : 0 ∈ s.wins ∨ 4 ≤ s.wins.length) :
    s.chooseBid = { s with chosenBid := none } := by
  have hspent : budgetSpent s.wins = true := by
    rcases h with h | h <;> simp [budgetSpent, Config.winLimit, h]
  exact if_neg fun hb => by
    rw [show budgetSpent s.wins = false from hb.2] at hspent
    cases hspent

theorem State.chooseBid_member {s : State} {b : ChosenBid} (h : s.chooseBid.chosenBid = some b) :
    s.membership = .member := by
  by_contra hm
  rw [State.chooseBid_of_not_member hm] at h
  cases h

theorem State.chooseBid_fit {s : State} {b : ChosenBid} (h : s.chooseBid.chosenBid = some b) : FitBid s b := by
  suffices hchoosing : Choosing s s.chooseBid from hchoosing.fit b h
  unfold State.chooseBid
  dsimp only
  split
  · exact .tryCandidates _ _ (.start s)
  · exact .start s

/-! ### The open queue (R105) -/

/-- The open queue of `t` is that of `s`, without the streams that have no place in it in `t` (R105). -/
def QueueFollows (s t : State) : Prop :=
  t.openQueue = s.openQueue.filter fun n => (t.streams[n]).any Stream.queued

/-- A stream's place in the open queue is read from what places it (R105). -/
theorem Stream.queued_of_placing {st x : Stream} (h : x.placing = st.placing) : x.queued = st.queued := by
  obtain ⟨hdefn, hstate, -, hfull⟩ := Stream.placing_eq_iff.1 h
  rw [Stream.queued, Stream.isSend_congr hdefn, hstate, hfull]
  rfl

section
variable {s t u : State}

theorem QueueFollows.mem (h : QueueFollows s t) {n : Fin 16} (hn : n ∈ t.openQueue) :
    ∃ st, t.streams[n] = some st ∧ st.isSend = true ∧ st.state.openSend = true ∧ st.everFull = false := by
  rw [h] at hn
  obtain ⟨st, hst, hqueued⟩ := (Option.any_eq_true _ _).1 (List.mem_filter.1 hn).2
  simp only [Stream.queued, Bool.and_eq_true, Bool.not_eq_true', and_assoc] at hqueued
  exact ⟨st, hst, hqueued⟩

/-- An operation that leaves the queue, and every stream the place it has in it. -/
theorem QueueFollows.of_queued (h : QueueFollows s t) (queue : u.openQueue = t.openQueue)
    (queued : ∀ n : Fin 16, (u.streams[n]).any Stream.queued = (t.streams[n]).any Stream.queued) :
    QueueFollows s u := by
  rw [QueueFollows, queue, funext queued]
  exact h

theorem QueueFollows.congr (h : QueueFollows s t) (queue : u.openQueue = t.openQueue)
    (streams : u.streams = t.streams) : QueueFollows s u :=
  h.of_queued queue fun _ => by rw [streams]

/-- The queue is cleaned twice: what is left has its place at the end (R105). -/
theorem QueueFollows.trans (h : QueueFollows s t) (h' : QueueFollows t u)
    (less : ∀ n : Fin 16, (u.streams[n]).any Stream.queued = true → (t.streams[n]).any Stream.queued = true) :
    QueueFollows s u := by
  rw [QueueFollows, h', h, List.filter_filter]
  refine List.filter_congr fun n _ => ?_
  cases hu : (u.streams[n]).any Stream.queued with
  | false => rfl
  | true => rw [less n hu]; rfl

/-- An operation that leaves every stream placed as it was leaves each its place in the queue. -/
theorem State.mapStreams_queued (s : State) {g : Fin 16 → Stream → Stream}
    (hg : ∀ n st, (g n st).placing = st.placing) (n : Fin 16) :
    ((s.mapStreams g).streams[n]).any Stream.queued = (s.streams[n]).any Stream.queued := by
  rw [Fin.getElem_fin, Fin.getElem_fin, State.mapStreams_get, Option.any_map]
  exact congrArg (fun p => Option.any p _) (funext fun st => Stream.queued_of_placing (hg _ st))

theorem QueueFollows.cleanQueue (h : t.openQueue = s.openQueue) : QueueFollows s t.cleanQueue := by
  rw [QueueFollows, State.cleanQueue_streams, ← h]
  rfl

theorem QueueFollows.mapReport (h : t.openQueue = s.openQueue) (closes : Fin 16 → Bool)
    (old : Vector Slot 24) : QueueFollows s (t.mapReport closes old) :=
  .cleanQueue ((State.mapStreams_openQueue _ _).trans h)

/-- An open send stream that has never been full has its place in the queue (R105). -/
theorem Stream.queued_of_openLabel {st x : Stream} (hlabel : x.openLabel = st.openLabel)
    (hfull : x.everFull = false → st.everFull = false) (h : x.queued = true) : st.queued = true := by
  simp only [Stream.queued, Bool.and_eq_true, Bool.not_eq_true'] at h ⊢
  obtain ⟨⟨hs, ho⟩, hf⟩ := h
  have hopen : st.openLabel = some x.defn.label := by
    rw [← hlabel, Stream.openLabel, hs, ho]
    rfl
  obtain ⟨hs', ho', -⟩ := Stream.openLabel_eq_some hopen
  exact ⟨⟨hs', ho'⟩, hfull hf⟩

/-- A stream that has been full stays one that has, until it is opened again (R122). -/
theorem Stream.everFull_of_standing {st : Stream} {k : Station} {slots : Vector Slot 24}
    (h : (st.standing k slots).everFull = false) : st.everFull = false := by
  unfold Stream.standing at h
  split at h
  · split at h
    · exact h
    · split at h
      · exact h
      · cases h
  · exact h

/-- No cue action clears it (R174 to R179). -/
theorem Stream.everFull_of_cueEvent {st : Stream} {k : Station} {slots : Vector Slot 24}
    (h : (st.cueEvent k slots).everFull = false) : st.everFull = false := by
  have hrelease : st.releaseHead.everFull = st.everFull := by
    unfold Stream.releaseHead
    split <;> rfl
  have hawait : ∀ b, (st.setAwaiting b k slots).everFull = false → st.everFull = false := fun b hb =>
    Stream.everFull_of_standing (st := { st with awaiting := b }) hb
  unfold Stream.cueEvent at h
  split at h
  · split at h
    · exact hawait _ h
    · exact h
  · split at h
    · split at h
      · exact hawait _ h
      · exact h
    · split at h
      · split at h
        · exact hrelease.symm.trans h
        · exact h
      · exact h

/-- The cues of a header put no stream back into the queue (R105, R173). -/
theorem Stream.queued_of_heedCue {st : Stream} {bits : BitVec 4} {skip : Bool} {k : Station}
    {slots : Vector Slot 24} (h : (st.heedCue bits skip k slots).queued = true) : st.queued = true := by
  have hlabel := Stream.heedCue_openLabel bits skip k slots st
  obtain ⟨-, -, -, hlatch⟩ := Stream.placing_eq_iff.1 (Stands.consumeLatch st).placing
  refine Stream.queued_of_openLabel hlabel (fun hfull => ?_) h
  unfold Stream.heedCue at hfull
  dsimp only at hfull
  rw [← hlatch]
  split at hfull
  · exact Stream.everFull_of_cueEvent hfull
  · exact hfull

/-- The queue after the cues of a header, in MEMBER and LEAVING (R105, R173). -/
theorem QueueFollows.heedCues (hd : s.membership.drives = true) (bits : BitVec 4) (n : Option (Fin 16)) :
    QueueFollows s (s.heedCues bits n) := by
  unfold State.heedCues
  rw [if_pos hd]
  exact .cleanQueue (State.mapStreams_openQueue _ _)

theorem State.heedCues_queued (s : State) (bits : BitVec 4) (n : Option (Fin 16)) (m : Fin 16)
    (h : ((s.heedCues bits n).streams[m]).any Stream.queued = true) :
    (s.streams[m]).any Stream.queued = true := by
  by_cases hd : s.membership.drives = true
  · have hstream : (s.heedCues bits n).streams[m]
        = (s.streams[m]).map fun st => st.heedCue bits (n == some m) s.number s.slots := by
      simp [State.heedCues, hd]
    rw [hstream, Option.any_map, Option.any_eq_true] at h
    obtain ⟨st, hst, hqueued⟩ := h
    exact (Option.any_eq_true _ _).2 ⟨st, hst, Stream.queued_of_heedCue hqueued⟩
  · rwa [show s.heedCues bits n = s from if_neg hd] at h

/-- The choice of words leaves every stream its place in the queue (R124). -/
theorem State.chooseAll_queued (s : State) (old : Vector Slot 24) (stall : BitVec 24) (f : Frame) (n : Fin 16) :
    ((s.chooseAll old stall f).streams[n]).any Stream.queued = (s.streams[n]).any Stream.queued := by
  refine s.mapStreams_queued (fun _ st => ?_) n
  have hnote : Stands st (if f.census then st else st.noteStall s.number old s.slots stall) := by
    split
    · exact .refl st
    · exact .noteStall _ _ _ _ st
  dsimp only
  generalize (if f.census then st else st.noteStall s.number old s.slots stall) = x at hnote ⊢
  split
  · exact (hnote.trans (.chooseWords _ _ _ _)).placing
  · exact (hnote.trans (.chooseNone _)).placing

/-- The queue after the map's part of an intact header (R34, R105). -/
theorem QueueFollows.mapHeader (s : State) (h : Header) : QueueFollows s (s.mapHeader h) := by
  have hqueue : (s.handleHeader h).openQueue = s.openQueue := by simp [State.handleHeader]
  exact (QueueFollows.mapReport hqueue s.closesPending s.slots).congr (State.refreshIntent_openQueue _)
    (State.refreshIntent_streams _)

/-- The queue after a reconciliation (R34, R105). -/
theorem QueueFollows.reconcile (s : State) (c : Census) :
    QueueFollows ((s.reconcileTables c).adoptCycle c) (s.reconcile c) := by
  obtain ⟨x, hx⟩ : ∃ x, x = (s.reconcileTables c).adoptCycle c := ⟨_, rfl⟩
  obtain ⟨y, hy⟩ : ∃ y, y = x.mapReport (fun _ => s.losesAt c.own) s.slots := ⟨_, rfl⟩
  have hreconcile : s.reconcile c
      = ({ y.refreshIntent with damageCount := 0 } : State).mapStreams fun _ st => st.noteStallRun := by
    rw [hy, hx]
    rfl
  have hreport : QueueFollows x y := by
    rw [hy]
    exact .mapReport rfl _ _
  rw [hreconcile, ← hx]
  exact (hreport.congr (u := { y.refreshIntent with damageCount := 0 }) (by simp) (by simp)).of_queued
    (State.mapStreams_openQueue _ _) (State.mapStreams_queued _ fun _ st => (Stands.noteStallRun st).placing)

/-! ### What an arrival leaves of a choice -/

theorem Stream.standingShown_of_stands {st x : Stream} (h : Stands st x) :
    Sys2Proof.Stream.standingShown x = Sys2Proof.Stream.standingShown st := by
  obtain ⟨hdefn, hstate, -, -⟩ := Stream.placing_eq_iff.1 h.placing
  rw [Sys2Proof.Stream.standingShown, hdefn, hstate, h.closeReason, Stream.isOpen_of_placing h.placing]
  rfl

/-- The pass of the CLOSING streams is not among what a choice shows: they are not open (R132). -/
theorem Stream.standingShown_finishClosing (st : Stream) (part : Bool) :
    Sys2Proof.Stream.standingShown (st.finishClosing part) = Sys2Proof.Stream.standingShown st := by
  cases ho : st.isOpen with
  | true => rw [Stream.finishClosing_of_isOpen ho]
  | false =>
    unfold Stream.finishClosing
    split
    · have hclosed : ({ st.signal true with state := .closed } : Stream).isOpen = false := by
        simp [Stream.isOpen, StreamState.openSend, StreamState.openListen]
      simp only [Sys2Proof.Stream.standingShown, ho, hclosed]
      rfl
    · rfl

/-- The state `t` keeps of `u` what a choice shows. -/
structure KeepsChoice (u t : State) : Prop where
  trunk : SameTrunk u t
  chosenBid : t.chosenBid = u.chosenBid
  openQueue : t.openQueue = u.openQueue
  standing : ∀ n : Fin 16, (t.streams[n]).map Sys2Proof.Stream.standingShown
    = (u.streams[n]).map Sys2Proof.Stream.standingShown

theorem KeepsChoice.trans (h : KeepsChoice s t) (h' : KeepsChoice t u) : KeepsChoice s u :=
  ⟨h.trunk.trans h'.trunk, h'.chosenBid.trans h.chosenBid, h'.openQueue.trans h.openQueue,
    fun n => (h'.standing n).trans (h.standing n)⟩

theorem KeepsChoice.mapStreams (s : State) {g : Fin 16 → Stream → Stream}
    (hg : ∀ n st, Sys2Proof.Stream.standingShown (g n st) = Sys2Proof.Stream.standingShown st) :
    KeepsChoice s (s.mapStreams g) := by
  refine ⟨.mapStreams s g, by simp, by simp, fun n => ?_⟩
  rw [Fin.getElem_fin, Fin.getElem_fin, State.mapStreams_get, Option.map_map]
  exact congrArg (fun p => Option.map p _) (funext fun st => hg _ st)

theorem KeepsChoice.finishClosing (s : State) : KeepsChoice s s.finishClosing :=
  .mapStreams s fun _ st => Stream.standingShown_finishClosing st _

theorem KeepsChoice.pump (s : State) : KeepsChoice s s.pump := by
  have hissued : KeepsChoice s s.issueAll :=
    .mapStreams s fun _ st => Stream.standingShown_of_stands (.issue st)
  refine ⟨.pump s, by simp, by simp, fun n => ?_⟩
  rw [State.pump_streams]
  exact hissued.standing n

theorem KeepsChoice.headerEnd (s : State) (f : Frame) : KeepsChoice s (s.headerEnd f) := by
  have hclosed : KeepsChoice s ({ s with bidDriven := none } : State).finishClosing :=
    KeepsChoice.trans (t := { s with bidDriven := none })
      ⟨⟨fun _ => rfl, rfl, rfl, rfl, rfl, rfl, rfl, rfl, rfl, rfl⟩, rfl, rfl, fun _ => rfl⟩ (.finishClosing _)
  unfold State.headerEnd
  dsimp only
  split
  · exact hclosed
  · exact hclosed.trans (.mapStreams _ fun _ st => Stream.standingShown_of_stands (.pollRingEnd st))

/-- A state that keeps what a choice of a MEMBER left, made when the queue had been cleaned, shows it. -/
theorem KeepsChoice.shows (hm : u.membership = .member) (hqueue : QueueFollows s u)
    (h : KeepsChoice u.chooseBid t) : ChoiceShows u t := by
  have htrunk := (SameTrunk.chooseBid u).trans h.trunk
  exact ⟨hm, htrunk.number.symm, htrunk.wins.symm, fun i => (htrunk.entries i).symm,
    fun _ hn => hqueue.mem hn, h.chosenBid, h.openQueue, h.standing⟩

/-- The check of R101 chooses no bid. -/
theorem State.checkLeft_chosenBid (h : s.chosenBid = none) : s.checkLeft.chosenBid = none := by
  unfold State.checkLeft
  split
  · rfl
  · exact h

theorem State.checkLeft_of_not_leaving (h : s.membership ≠ .leaving) : s.checkLeft = s :=
  if_neg fun hl => h hl.1

/-! ### The choice at an intact header (R105, R107) -/

/-- What an intact header does after the map and before the arbiter's choice; `old` is the map it met. -/
def State.beforeChoice (h : Header) (old : Vector Slot 24) (f : Frame) (s : State) : State :=
  ((s.commandAndCell f).heedCues h.cue s.commandedStream).chooseAll old h.stall f

theorem State.afterMap_eq (s : State) (h : Header) (old : Vector Slot 24) (f : Frame) :
    s.afterMap h old f = ((s.beforeChoice h old f).chooseAtHeader f).headerEnd f := rfl

theorem SameTrunk.beforeChoice (s : State) (h : Header) (old : Vector Slot 24) (f : Frame) :
    SameTrunk s (s.beforeChoice h old f) :=
  ((SameTrunk.commandAndCell s f).trans (.heedCues _ _ _)).trans (.chooseAll _ _ _ f)

/-- The queue that the choice of a header meets has been cleaned (R105). -/
theorem State.beforeChoice_queue (hd : s.membership.drives = true) (h : Header) (old : Vector Slot 24)
    (f : Frame) : QueueFollows (s.commandAndCell f) (s.beforeChoice h old f) :=
  (QueueFollows.heedCues (by rw [State.commandAndCell_membership, hd]) _ _).of_queued
    (State.mapStreams_openQueue _ _) (State.chooseAll_queued _ _ _ f)

/-- After the command no stream comes back into the queue before the choice (R105). -/
theorem State.beforeChoice_queued (s : State) (h : Header) (old : Vector Slot 24) (f : Frame) (n : Fin 16)
    (hn : ((s.beforeChoice h old f).streams[n]).any Stream.queued = true) :
    ((s.commandAndCell f).streams[n]).any Stream.queued = true :=
  State.heedCues_queued _ _ _ n ((State.chooseAll_queued _ _ _ f n).symm.trans hn)

end

/-- With no command pending an ordinary header leaves the streams and the queue to the cues (R187). -/
theorem State.commandAndCell_of_none {s : State} {f : Frame} (hc : f.census = false) (h : s.command = none) :
    s.commandAndCell f = s := by
  simp [State.commandAndCell, hc, State.takeCommand, h]

/-- An intact header leaves the chosen bid that the choice of it leaves, and the check of R101 none more. -/
theorem State.judgeHeader_chosenBid {s : State} (bits : HeaderBits) (f : Frame)
    (h : s.membership ≠ .member ∨ f.census = true ∨ s.index = 255) :
    (s.judgeHeader bits f).chosenBid = none := by
  rw [State.judgeHeader_eq]
  obtain ⟨x, hx⟩ : ∃ x, x = s.countWin (arbitrationRead bits) := ⟨_, rfl⟩
  obtain ⟨y, hy⟩ : ∃ y, y = (x.mapHeader (headerFields f bits)).beforeChoice (headerFields f bits) s.slots f :=
    ⟨_, rfl⟩
  rw [← hx, State.afterMap_eq, ← hy]
  have htrunk : SameTrunk (x.mapHeader (headerFields f bits)) y := by
    rw [hy]
    exact .beforeChoice _ _ _ f
  have hrest := (x.mapHeader_rest (headerFields f bits) _ fun _ => rfl).1.trans htrunk
  have hmembership : y.membership = s.membership := hrest.membership.trans (by rw [hx]; rfl)
  have hindex : y.index = s.index := hrest.index.trans (by rw [hx]; rfl)
  rw [← hmembership, ← hindex] at h
  refine State.checkLeft_chosenBid ?_
  rw [(State.headerEnd_pins _ f).2.1]
  unfold State.chooseAtHeader
  split
  · rename_i hordinary
    simp only [Bool.and_eq_true, Bool.not_eq_true', bne_iff_ne, ne_eq] at hordinary
    obtain ⟨hcensus, hlast⟩ := hordinary
    have hm : y.membership ≠ .member := by
      rcases h with hm | hc | hi
      · exact hm
      · rw [hcensus] at hc
        cases hc
      · exact absurd hi hlast
    rw [State.chooseBid_of_not_member hm]
  · rfl

/-- At an intact header of an ordinary frame of index 0 to 254 a MEMBER makes a choice, by the map, the streams, the
queue and the win list as the header leaves them (R105, R107). -/
theorem State.judgeHeader_chooses {s : State} (hm : s.membership = .member) {f : Frame} (hc : f.census = false)
    (hi : s.index ≠ 255) (bits : HeaderBits) : ∃ u, ChoiceShows u (s.judgeHeader bits f).pump
      ∧ (s.command = none → QueueFollows s u) := by
  rw [State.judgeHeader_eq]
  obtain ⟨x, hx⟩ : ∃ x, x = s.countWin (arbitrationRead bits) := ⟨_, rfl⟩
  obtain ⟨y, hy⟩ : ∃ y, y = x.mapHeader (headerFields f bits) := ⟨_, rfl⟩
  obtain ⟨u, hu⟩ : ∃ u, u = y.beforeChoice (headerFields f bits) s.slots f := ⟨_, rfl⟩
  rw [← hx, ← hy, State.afterMap_eq, ← hu]
  have hmapped := (x.mapHeader_rest (headerFields f bits) _ fun _ => rfl).1
  rw [← hy] at hmapped
  have hchosen : SameTrunk y u := by
    rw [hu]
    exact .beforeChoice _ _ _ f
  have hmember : y.membership = .member := hmapped.membership.trans (by rw [hx]; exact hm)
  have hmember' : u.membership = .member := hchosen.membership.trans hmember
  have hindex : u.index ≠ 255 := by
    rw [hchosen.index, hmapped.index, hx]
    exact hi
  have hdrives : y.membership.drives = true := by rw [hmember]; rfl
  have hqueue : QueueFollows (y.commandAndCell f) u := by
    rw [hu]
    exact State.beforeChoice_queue hdrives _ _ f
  have hchoose : u.chooseAtHeader f = u.chooseBid := if_pos (by rw [hc, bne_iff_ne.2 hindex]; rfl)
  have hkeeps : KeepsChoice u.chooseBid (u.chooseBid.headerEnd f) := .headerEnd _ f
  have hstays : (u.chooseBid.headerEnd f).membership ≠ .leaving := by
    rw [hkeeps.trunk.membership, State.chooseBid_membership, hmember']
    decide
  rw [hchoose, State.checkLeft_of_not_leaving hstays]
  refine ⟨u, KeepsChoice.shows hmember' hqueue (hkeeps.trans (.pump _)), fun hnone => ?_⟩
  have hnone' : y.command = none := by
    rw [hy, hx]
    simpa [State.mapHeader, State.handleHeader, State.countWin] using hnone
  have hmapQueue : QueueFollows s y := by
    rw [hy, hx]
    exact .mapHeader (s.countWin _) _
  rw [State.commandAndCell_of_none hc hnone'] at hqueue
  refine hmapQueue.trans hqueue fun n hn => ?_
  rw [hu] at hn
  have hcommand := State.beforeChoice_queued _ _ _ f n hn
  rwa [State.commandAndCell_of_none hc hnone'] at hcommand

/-! ### The choice at a census completion (R107) -/

theorem State.endMember_openQueue {r : State} {own : Option Bool}
    (h : (r.endMember own).membership.maps = true) : (r.endMember own).openQueue = r.openQueue := by
  unfold State.endMember at h ⊢
  split
  · rfl
  · dsimp only at h ⊢
    split
    · rename_i hl
      rw [if_pos hl, State.lose_maps] at h
      cases h
    · rfl
  · rfl

theorem State.endAnnouncing_openQueue {r : State} {own : Option Bool}
    (h : (r.endAnnouncing own).membership.maps = true) : (r.endAnnouncing own).openQueue = r.openQueue := by
  unfold State.endAnnouncing at h ⊢
  split
  · split <;> rfl
  · dsimp only at h ⊢
    split
    · rename_i hl
      rw [if_pos hl, State.enterRefused_maps] at h
      cases h
    · rfl
  · rfl

theorem State.endListening_openQueue {r : State} {c : Census}
    (h : (r.endListening c).membership.maps = true) : (r.endListening c).openQueue = r.openQueue := by
  unfold State.endListening at h ⊢
  split
  · rename_i ha
    rw [ha] at h
    dsimp only at h
    rw [State.enterRefused_maps] at h
    cases h
  · rfl

/-- A transition after which the map still acts leaves the queue (R97 to R99). -/
theorem State.censusTransition_openQueue {r : State} {c : Census}
    (h : (r.censusTransition c).membership.maps = true) :
    (r.censusTransition c).openQueue = r.openQueue := by
  unfold State.censusTransition at h ⊢
  cases hm : r.membership with
  | listening => rw [hm] at h; exact State.endListening_openQueue h
  | announcing => rw [hm] at h; exact State.endAnnouncing_openQueue h
  | member | leaving => rw [hm] at h; exact State.endMember_openQueue h
  | _ => rfl

/-- After a census completion that ends in MEMBER the state shows the choice made at it (R105, R107). -/
theorem State.completes_chooses {s : State} {c : Census}
    (h : (((s.reconcile c).censusTransition c).afterTransition).membership = .member) :
    ∃ u, ChoiceShows u ((s.reconcile c).censusTransition c).afterTransition := by
  obtain ⟨q, hq⟩ : ∃ q, q = (s.reconcile c).censusTransition c := ⟨_, rfl⟩
  rw [← hq] at h ⊢
  have hm : q.membership = .member := by
    rcases q.afterTransition_cases with hstands | ⟨-, hoffline, -⟩
    · rw [← hstands.trunk.membership, h]
    · rw [hoffline] at h
      cases h
  have hqueue : QueueFollows ((s.reconcileTables c).adoptCycle c) q := by
    have hmaps : q.membership.maps = true := by rw [hm]; rfl
    rw [hq] at hmaps ⊢
    exact (QueueFollows.reconcile s c).congr (State.censusTransition_openQueue hmaps)
      (State.censusTransition_keeps hmaps).streams
  have hkeeps := KeepsChoice.finishClosing q.chooseBid
  have hstays : q.chooseBid.finishClosing.membership ≠ .leaving := by
    rw [hkeeps.trunk.membership, State.chooseBid_membership, hm]
    decide
  rw [State.afterTransition, State.checkLeft_of_not_leaving hstays]
  exact ⟨q, KeepsChoice.shows hm hqueue (hkeeps.trans (.pump _))⟩

/-- After a census completion that does not end in MEMBER no bid is chosen (R107). -/
theorem State.afterTransition_chosenBid {q : State} (h : q.afterTransition.membership ≠ .member) :
    q.afterTransition.chosenBid = none := by
  have hm : q.membership ≠ .member := fun hm => h (by
    rw [(State.afterTransition_stands (by rw [hm]; decide)).trunk.membership, hm])
  rw [State.afterTransition, State.pump_chosenBid, State.chooseBid_of_not_member hm]
  exact State.checkLeft_chosenBid (State.finishClosing_chosenBid _)

/-- Settles O53: `chooseBid_of_spent`, `chooseBid_fit`, and for the arrivals `judgeHeader_chooses` and
`completes_chooses`. -/
theorem chosenBidIsFitToBid : Obligations.ChosenBidIsFitToBid := by
  refine ⟨fun s h => State.chooseBid_of_spent h, fun s b hb => ?_, fun bits s f hj hf hh hu => ?_,
    fun bits s f hm hf hc hh ha => ?_⟩
  · have hfit := State.chooseBid_fit hb
    obtain ⟨i, hslot, htarget⟩ := hfit.target
    exact ⟨State.chooseBid_member hb, hfit.station, hfit.below, hfit.unused, hfit.stream, i, hslot, htarget,
      fun hpeer => hfit.valid htarget hpeer⟩
  · refine ⟨_, exec_header (.intact bits) s, ?_⟩
    rw [State.takeHeader_intact hj hf hh hu]
    refine ⟨fun hm hc hi => ?_, fun hout => ?_⟩
    · obtain ⟨u, hshows, hqueue⟩ := State.judgeHeader_chooses (s := s.setHeader _) hm hc hi bits
      exact ⟨u, hshows, fun hnone => hqueue hnone⟩
    · rw [State.pump_chosenBid]
      exact State.judgeHeader_chosenBid (s := s.setHeader _) bits f hout
  · obtain ⟨u, -, hlast⟩ := State.censusArrives_last hm hf hc hh ha bits
    exact ⟨_, congrArg Host.Outcome.next hlast, State.completes_chooses, State.afterTransition_chosenBid⟩

end Sys2Proof.Machine
end

section
/-! PROOFS. What a bus error leaves of the state, and what it does to a send stream (R133, R151, R153). -/

namespace Sys2Proof.Machine

open Sys2Proof

/-! ### The stream whose transaction failed -/

/-- The stream with its transaction ended. -/
def Stream.ended (st : Stream) : Stream := { st with op := none }

/-- The stream as the closure with reason BUS_FAULT leaves it, its transaction ended (R133). -/
def State.busClosed (s : State) (n : Fin 16) (st : Stream) : Stream :=
  st.ended.close .busFault (s.streamHasPart n st)

/-- What a bus error on a transaction of stream `n` leaves of the state; `x` is the stream before its engine
goes on. -/
structure BusErrorLeaves (n : Fin 16) (x : Stream) (s t : State) : Prop where
  stream : t.streams[n] = some x.issue
  openQueue : n ∉ t.openQueue
  portLast : t.portLast = n
  entries : ∀ i : Fin 24, t.slots[i].entry = s.slots[i].entry
  events : t.events = s.events
  membership : t.membership = s.membership

@[simp] theorem State.closeOne_events (s : State) (reason : CloseReason) (n : Fin 16) :
    (s.closeOne reason n).events = s.events := by simp [State.closeOne]

@[simp] theorem State.closeOne_portLast (s : State) (reason : CloseReason) (n : Fin 16) :
    (s.closeOne reason n).portLast = s.portLast := by simp [State.closeOne]

theorem exec_sendBusError (s : State) : exec .sendBusError s = .next (s.busError true).pump := rfl

theorem exec_listenBusError (s : State) : exec .listenBusError s = .next (s.busError false).pump := rfl

section
variable {s : State} {n : Fin 16} {st : Stream} {op : BusOp}

/-- An error on a transaction that is acted on closes its stream, and its descriptors are handled by the kind
of the transaction (R133, R153, R169). -/
theorem State.busError_of_serves (h : Serves s n st op) (ha : (op.discard && st.isSend) = false) :
    s.busError st.isSend = ((s.endOp n).closeOne .busFault n).onStream n
      (Stream.faulted op.kind s.stamp st) := by
  simp [State.busError, served_of_serves s n st op h, ha]

/-- An error on a discarded read of a send stream ends that read (R151). -/
theorem State.busError_of_discarded (h : Serves s n st op) (hs : st.isSend = true)
    (hd : op.discard = true) : s.busError true = s.endOp n := by
  simp [State.busError, served_of_serves s n st op h, hs, hd]

/-- What an error that is acted on leaves (R133). -/
theorem State.busError_leaves (h : Serves s n st op) (ha : (op.discard && st.isSend) = false) :
    BusErrorLeaves n (Stream.faulted op.kind s.stamp st (s.busClosed n st)) s
      (s.busError st.isSend).pump := by
  have hstream : (s.endOp n).streams[n] = some st.ended := by
    obtain ⟨-, hst, -⟩ := h
    rw [State.endOp, State.onStream_get_self, hst]
    rfl
  have hpart : (s.endOp n).streamHasPart n st.ended = s.streamHasPart n st :=
    State.streamHasPart_congr n rfl
  have htrunk : SameTrunk s (s.endOp n) := by constructor <;> simp
  rw [State.busError_of_serves h ha]
  have hclosed := ((htrunk.trans (.closeOne _ .busFault n)).trans
    (.onStream _ n (Stream.faulted op.kind s.stamp st))).trans (.pump _)
  refine ⟨?_, ?_, ?_, hclosed.entries, ?_, hclosed.membership⟩
  · rw [State.pump_get, State.onStream_get_self, State.closeOne_stream, if_pos rfl, hstream]
    simp only [Option.map_some, hpart, State.busClosed]
  · rw [State.pump_openQueue, State.onStream_openQueue]
    exact State.closeOne_queue _ _ _
  · simp [State.endOp]
  · simp

end

/-- An engine that a failed write has ended issues nothing (R153, R169). -/
theorem Stream.issue_of_dead {st : Stream} (h : st.dead = true) : st.issue = st := by
  simp [Stream.issue, h]

/-- A closure with reason BUS_FAULT leaves a stream whose transaction has ended with none (R151, R168). -/
theorem State.busClosed_op (s : State) (n : Fin 16) (st : Stream) : (s.busClosed n st).op = none := by
  unfold State.busClosed
  cases ho : st.ended.isOpen with
  | true =>
    rcases Stream.isOpen_cases ho with ⟨hs, hopen⟩ | ⟨hs, hopen⟩
    · rw [Stream.close_of_openSend hs hopen]
      rfl
    · rw [Stream.close_of_openListen hs hopen]
      rfl
  | false =>
    rw [Stream.close_of_not_open ho]
    split
    · unfold Stream.closeAgain
      dsimp only
      split <;> rfl
    · rfl

theorem State.busClosed_defn (s : State) (n : Fin 16) (st : Stream) : (s.busClosed n st).defn = st.defn :=
  Stream.close_defn _ _ _

/-! ### Send streams (R153) -/

/-- The closure of an open send stream by a bus error (R131, R133). -/
theorem State.busClosed_of_openSend {s : State} {n : Fin 16} {st : Stream} (hs : st.isSend = true)
    (ho : st.isOpen = true) :
    s.busClosed n st = st.ended.closeSend .busFault (s.streamHasPart n st) := by
  rw [Stream.isOpen, if_pos hs] at ho
  exact Stream.close_of_openSend (st := st.ended) hs ho _ _

/-- A bus error closes the ring of an open send stream (R151). -/
theorem State.busClosed_sendRing {st : Stream} (hs : st.isSend = true) (ho : st.isOpen = true)
    (s : State) (n : Fin 16) : SendRingClosed st (s.busClosed n st) := by
  rw [State.busClosed_of_openSend hs ho]
  exact Stream.closeSend_sendRing _ _ st.ended

/-- What the handling of a send stream's descriptors changes: the write-back queue, the ring index and
whether the engine's work has ended (R153). -/
theorem Stream.sendFault_eq (kind : BusKind) (now : Stamp) (before closed : Stream) :
    Stream.sendFault kind now before closed = { closed with
      writeBack := (Stream.sendFault kind now before closed).writeBack
      ringIndex := (Stream.sendFault kind now before closed).ringIndex
      dead := (Stream.sendFault kind now before closed).dead } := by
  have hadd : ∀ d, Stream.addFault before now d closed = { closed with
      writeBack := (Stream.addFault before now d closed).writeBack
      ringIndex := (Stream.addFault before now d closed).ringIndex } := fun d => by
    unfold Stream.addFault
    split
    · rfl
    · split <;> rfl
  cases kind with
  | secondWord | bufferRead =>
    simp only [Stream.sendFault]
    split
    · rw [hadd]
    · rfl
  | _ => rfl

/-- The entry of the write-back queue of a descriptor handed back for a bus fault (R140, R153). -/
theorem TxDesc.fault_eq (d : TxDesc) (now : Stamp) : d.fault now
    = ⟨d, if d.gone = 0 then now else d.lastStamp, d.gone != 0, false, true, false⟩ := by
  by_cases hg : d.gone = 0 <;> simp [TxDesc.fault, TxDesc.started, hg]

/-- The write-back queue and the ring index that a closure leaves behind a head (R151). -/
theorem sendRingClosed_held {st st' : Stream} (h : SendRingClosed st st') {d : TxDesc}
    {rest : List TxDesc} (hd : st.held = d :: rest) :
    st'.writeBack = (if d.gone ≠ 0 ∧ d.keep = false then
        st.writeBack ++ [⟨d, d.lastStamp, true, false, false, false⟩] else st.writeBack)
      ∧ st'.ringIndex = if d.gone ≠ 0 then nextIndex d.index d.wrap else st.ringIndex := by
  obtain ⟨-, -, -, -, -, hstarted, huntouched⟩ := h
  by_cases hg : d.gone = 0
  · obtain ⟨hring, hqueue⟩ := huntouched fun x hx => by
      rw [hd] at hx
      cases hx
      exact hg
    simp [hring, hqueue, hg]
  · obtain ⟨hring, hqueue⟩ := hstarted d rest hd hg
    refine ⟨hqueue.trans ?_, by rw [hring, if_pos hg]⟩
    cases d.keep <;> simp [hg]

section
variable {before closed : Stream} {d : TxDesc}

/-- The descriptor of a failed read that stood at the head is handed back in place of the closure's
truncation, and the ring index passes it (R153). -/
theorem Stream.addFault_at_head (hc : SendRingClosed before closed)
    (hd : ∀ h ∈ before.held.head?, h.index = d.index) (now : Stamp) :
    (Stream.addFault before now d closed).writeBack = before.writeBack ++ [d.fault now]
      ∧ (Stream.addFault before now d closed).ringIndex = nextIndex d.index d.wrap := by
  obtain ⟨-, -, -, -, -, -, huntouched⟩ := hc
  cases hh : before.held with
  | nil =>
    have hqueue : closed.writeBack = before.writeBack := (huntouched (by simp [hh])).2
    simp [Stream.addFault, hh, hqueue, TxDesc.after]
  | cons h rest =>
    have hindex : h.index = d.index := hd h (by simp [hh])
    simp [Stream.addFault, hh, hindex, TxDesc.after]

/-- The descriptor of a failed read beyond the head is handed back behind what the closure made of the head
(R153). -/
theorem Stream.addFault_beyond_head {h : TxDesc} {rest : List TxDesc} (hh : before.held = h :: rest)
    (hne : h.index ≠ d.index) (now : Stamp) :
    (Stream.addFault before now d closed).writeBack = closed.writeBack ++ [d.fault now]
      ∧ (Stream.addFault before now d closed).ringIndex = closed.ringIndex := by
  simp [Stream.addFault, hh, hne]

end

/-- The descriptor that a failed read of its second word or of its buffer words is for (R153). -/
theorem Stream.sendFault_of_read {kind : BusKind} {before : Stream} {d : TxDesc}
    (h : (∃ k, kind = .bufferRead k) ∧ before.fetching = some d
      ∨ (∃ i w, kind = .secondWord i w) ∧ before.fetching = none
        ∧ ∃ w0, before.reading = some w0 ∧ d = TxDesc.ofWords before.fetchPos w0 0)
    (now : Stamp) (closed : Stream) :
    Stream.sendFault kind now before closed = Stream.addFault before now d closed := by
  rcases h with ⟨⟨k, rfl⟩, hfetch⟩ | ⟨⟨i, w, rfl⟩, hfetch, w0, hread, rfl⟩
  · simp [Stream.sendFault, Stream.faultDesc, hfetch]
  · simp [Stream.sendFault, Stream.faultDesc, hfetch, hread]

/-- A failed write ends the engine's work and empties the write-back queue (R153). -/
theorem Stream.sendFault_of_write {kind : BusKind} (h : kind = .statusWrite ∨ kind = .handBack)
    (now : Stamp) (before closed : Stream) : Stream.sendFault kind now before closed
      = { closed with writeBack := [], dead := true } := by
  rcases h with rfl | rfl <;> rfl

/-- What a failed write leaves of a send stream (R153). -/
theorem State.sendWriteFault {kind : BusKind} (h : kind = .statusWrite ∨ kind = .handBack) (now : Stamp)
    (s : State) (n : Fin 16) (st : Stream) :
    (Stream.sendFault kind now st (s.busClosed n st)).issue.writeBack = []
      ∧ (Stream.sendFault kind now st (s.busClosed n st)).issue.dead = true
      ∧ (Stream.sendFault kind now st (s.busClosed n st)).issue.op = none := by
  rw [Stream.sendFault_of_write h, Stream.issue_of_dead rfl]
  exact ⟨rfl, rfl, s.busClosed_op n st⟩

/-- What a bus error does to a send stream that is not open: a CLOSING one takes its reason, unless it is
closed by a LEAVE (R133). -/
theorem State.busClosed_of_not_open {st : Stream} (hs : st.isSend = true) (ho : st.isOpen = false)
    (s : State) (n : Fin 16) :
    (s.busClosed n st).state = st.state
    ∧ (s.busClosed n st).closeReason
      = (if st.state = .closing ∧ st.closeReason ≠ .leave then .busFault else st.closeReason)
    ∧ (s.busClosed n st).event
      = (st.event || (st.state == .closing && st.closeReason != .leave)) := by
  rw [State.busClosed, Stream.close_of_not_open (st := st.ended) ho]
  by_cases hc : st.state = .closing
  · rw [if_pos (show st.ended.isSend = true ∧ st.ended.state = .closing from ⟨hs, hc⟩)]
    by_cases hl : st.closeReason = .leave <;>
      simp [Stream.closeAgain, Stream.signal, Stream.ended, hc, hl]
  · rw [if_neg fun h => hc h.2]
    simp [Stream.ended, hc]

/-- What a bus error makes of an open send stream, whatever the transaction was (R131 to R133, R151). -/
theorem State.openSendFault {st : Stream} (hs : st.isSend = true) (ho : st.isOpen = true) (s : State)
    (n : Fin 16) (kind : BusKind) (now : Stamp) {x : Stream}
    (hx : x = (Stream.sendFault kind now st (s.busClosed n st)).issue) :
    x.closeReason = .busFault ∧ x.event = true ∧ x.staging = [] ∧ x.held = []
      ∧ x.state = (if s.streamHasPart n st then .closing else .closed) ∧ x.defn = st.defn := by
  rw [hx, Stream.issue_eq, Stream.sendFault_eq, State.busClosed_of_openSend hs ho]
  exact ⟨rfl, by simp [Stream.closeSend, CloseReason.signals], rfl, rfl, rfl, rfl⟩

/-- A failed first-word read leaves the fetch position, and its ring closed as by any closure (R151, R153). -/
theorem State.firstWordFault {st : Stream} (hs : st.isSend = true) (ho : st.isOpen = true) (s : State)
    (n : Fin 16) (now : Stamp) {x : Stream}
    (hx : x = (Stream.sendFault .firstWord now st (s.busClosed n st)).issue) :
    x.fetchPos = st.fetchPos ∧ SendRingClosed st x := by
  rw [hx, Stream.issue_eq]
  refine ⟨?_, s.busClosed_sendRing hs ho n⟩
  rw [Stream.sendFault, State.busClosed_of_openSend hs ho]
  rfl

/-- Settles O45. -/
theorem sendBusErrorClosesTheStream : Obligations.SendBusErrorClosesTheStream := by
  intro s n st op h hs
  refine ⟨fun hd ho => ?_, fun hd ho => ?_, fun hd => ?_⟩
  · have hleaves := State.busError_leaves h (by rw [hd]; rfl)
    rw [hs, Stream.faulted, if_pos hs] at hleaves
    have hring := s.busClosed_sendRing hs ho n
    obtain ⟨hreason, hevent, hstaging, hheld, hstate, hdefn⟩ :=
      State.openSendFault hs ho s n op.kind s.stamp rfl
    refine ⟨_, _, exec_sendBusError s, hleaves.stream, hreason, hevent, hstaging, hheld, hstate, hdefn,
      hleaves.openQueue, hleaves.portLast, fun hw => State.sendWriteFault hw _ _ _ _,
      fun hk => State.firstWordFault hs ho s n s.stamp (by rw [hk]), fun d hread => ?_,
      hleaves.entries, hleaves.events, hleaves.membership⟩
    rw [Stream.sendFault_of_read hread, Stream.issue_eq, ← TxDesc.fault_eq]
    refine ⟨fun hhead => Stream.addFault_at_head hring hhead _, fun x rest hhead hne => ?_⟩
    obtain ⟨hqueue, hindex⟩ := sendRingClosed_held hring hhead
    rw [← hqueue, ← hindex]
    exact Stream.addFault_beyond_head hhead hne _
  · have hleaves := State.busError_leaves h (by rw [hd]; rfl)
    rw [hs, Stream.faulted, if_pos hs] at hleaves
    obtain ⟨hstate, hreason, hevent⟩ := State.busClosed_of_not_open hs ho s n
    refine ⟨_, _, exec_sendBusError s, hleaves.stream, ?_, ?_, ?_,
      fun hw => State.sendWriteFault hw _ _ _ _, hleaves.entries, hleaves.events, hleaves.membership⟩
    · rw [Stream.issue_eq, Stream.sendFault_eq]
      exact hstate
    · rw [Stream.issue_eq, Stream.sendFault_eq]
      exact hreason
    · rw [Stream.issue_eq, Stream.sendFault_eq]
      exact hevent
  · refine ⟨_, st.ended.issue, exec_sendBusError s, ?_⟩
    rw [State.busError_of_discarded h hs hd]
    refine ⟨State.endOp_only s n, ?_, Stream.issue_still _⟩
    obtain ⟨-, hst, -⟩ := h
    rw [State.pump_get, State.endOp, State.onStream_get_self, hst]
    rfl

end Sys2Proof.Machine
end

section
/-! PROOFS. A bus error on a transaction of a listen stream (R133, R168, R169). -/

namespace Sys2Proof.Machine

open Sys2Proof

/-! ### The closure (R133, R168) -/

/-- A bus error closes a listen stream that is open and leaves another one alone (R133). -/
theorem State.busClosed_of_listen {st : Stream} (hs : st.isSend = false) (s : State) (n : Fin 16) :
    s.busClosed n st = if st.isOpen then st.ended.closeListen .busFault else st.ended := by
  cases ho : st.isOpen with
  | true =>
    rw [Stream.isOpen, if_neg (by simp [hs])] at ho
    exact Stream.close_of_openListen (st := st.ended) hs ho _ _
  | false =>
    refine (Stream.close_of_not_open (st := st.ended) ho _ _).trans (if_neg fun h => ?_)
    exact Bool.false_ne_true (hs.symm.trans h.1)

/-- The entry of the write queue that a closure makes of a current descriptor that holds words (R168). -/
def Stream.truncatedItems (st : Stream) : List WriteItem :=
  match st.current with
  | some d => if st.isOpen = true ∧ d.count ≠ 0 then
      [WriteItem.done ⟨d, false, true, false, false, false⟩] else []
  | none => []

section
variable {s : State} {n : Fin 16} {st : Stream}

theorem State.busClosed_writeQueue (hs : st.isSend = false) :
    (s.busClosed n st).writeQueue = st.writeQueue ++ st.truncatedItems := by
  rw [State.busClosed_of_listen hs, Stream.truncatedItems]
  cases hc : st.current with
  | none => cases st.isOpen <;> simp [Stream.ended, Stream.closeListen, Stream.stopListen, hc]
  | some d =>
    cases st.isOpen <;> by_cases hcount : d.count = 0 <;>
      simp [Stream.ended, Stream.closeListen, Stream.stopListen, hc, hcount, RxDesc.finish]

/-- A closure with no current descriptor leaves the ring index (R168). -/
theorem State.busClosed_ringIndex (hs : st.isSend = false) (hc : st.current = none) :
    (s.busClosed n st).ringIndex = st.ringIndex := by
  rw [State.busClosed_of_listen hs]
  cases st.isOpen <;> simp [Stream.ended, Stream.closeListen, Stream.stopListen, hc]

theorem State.busClosed_fetchPos (hs : st.isSend = false) :
    (s.busClosed n st).fetchPos = st.fetchPos := by
  rw [State.busClosed_of_listen hs]
  cases st.isOpen <;> rfl

end

/-! ### The write queue after a failed word write (R169) -/

/-- What a failed write of words of descriptor `index` makes of an entry of the write queue, `lost` of the
words being in the queue: a word of that descriptor goes (R169). -/
def WriteItem.afterFault (index : BitVec 8) (lost : Nat) : WriteItem → Option WriteItem
  | .word j b y => if j = index then none else some (.word j b y)
  | .done r => some (.done (if r.desc.index = index then
      { r with busFault := true, desc := { r.desc with count := r.desc.count - lost } } else r))

theorem WriteItem.afterFault_eq (index : BitVec 8) (lost : Nat) (w : WriteItem) :
    w.afterFault index lost
      = if w.isWordOf index then none else some (w.faultWords index lost) := by
  cases w with
  | word j b y => simp [WriteItem.afterFault, WriteItem.isWordOf, WriteItem.faultWords]
  | done r =>
    by_cases hr : r.desc.index = index <;>
      simp [WriteItem.afterFault, WriteItem.isWordOf, WriteItem.faultWords, hr]

theorem faultQueue_eq (index : BitVec 8) (q : List WriteItem) : faultQueue index q
    = q.filterMap (WriteItem.afterFault index (q.filter (WriteItem.isWordOf index)).length) := by
  have hitems : ∀ (lost : Nat) (p : List WriteItem),
      (p.filter fun w => !w.isWordOf index).map (WriteItem.faultWords index lost)
        = p.filterMap (WriteItem.afterFault index lost) := fun lost p => by
    induction p with
    | nil => rfl
    | cons w p ih =>
      rw [List.filterMap_cons, WriteItem.afterFault_eq, ← ih]
      cases hw : w.isWordOf index <;> simp [hw]
  exact hitems _ q

/-- A truncated current descriptor is no placed word. -/
theorem Stream.truncatedItems_words (st : Stream) (index : BitVec 8) :
    st.truncatedItems.filter (WriteItem.isWordOf index) = [] := by
  unfold Stream.truncatedItems
  split
  · split <;> rfl
  · rfl

/-! ### The descriptors (R169) -/

/-- What the handling of a listen stream's descriptors changes: the write queue, the ring index and whether
the engine's work has ended (R169). -/
theorem Stream.listenFault_eq (kind : BusKind) (closed : Stream) :
    Stream.listenFault kind closed = { closed with
      writeQueue := (Stream.listenFault kind closed).writeQueue
      ringIndex := (Stream.listenFault kind closed).ringIndex
      dead := (Stream.listenFault kind closed).dead } := by
  cases kind with
  | wordWrite =>
    simp only [Stream.listenFault]
    split <;> rfl
  | _ => rfl

section
variable {st : Stream} (s : State) (n : Fin 16) {kind : BusKind} {x : Stream}

/-- What a bus error makes of an open listen stream, whatever the transaction was (R133, R136, R168). -/
theorem State.openListenFault (hs : st.isSend = false) (ho : st.isOpen = true)
    (hx : x = (Stream.listenFault kind (s.busClosed n st)).issue) :
    x.state = .closed ∧ x.closeReason = .busFault ∧ x.event = true ∧ x.current = none ∧ x.next = none
      ∧ x.stalled = false ∧ x.starved = false := by
  rw [hx, Stream.issue_eq, Stream.listenFault_eq, State.busClosed_of_listen hs, if_pos ho]
  exact ⟨rfl, rfl, by simp [Stream.closeListen, CloseReason.signals], rfl, rfl, rfl, rfl⟩

/-- A listen stream that is not open keeps its state, its reason and its event (R133). -/
theorem State.closedListenFault (hs : st.isSend = false) (ho : st.isOpen = false)
    (hx : x = (Stream.listenFault kind (s.busClosed n st)).issue) :
    x.state = st.state ∧ x.closeReason = st.closeReason ∧ x.event = st.event := by
  rw [hx, Stream.issue_eq, Stream.listenFault_eq, State.busClosed_of_listen hs,
    if_neg (by simp [ho])]
  exact ⟨rfl, rfl, rfl⟩

theorem State.listenFault_defn (hx : x = (Stream.listenFault kind (s.busClosed n st)).issue) :
    x.defn = st.defn := by
  rw [hx, Stream.issue_eq, Stream.listenFault_eq]
  exact s.busClosed_defn n st

/-- The descriptor of a failed second-word read is handed back with BUS_FAULT, and the ring index passes it if
it stood there (R169). -/
theorem State.listenSecondWordFault (hs : st.isSend = false) {i : BitVec 8} {w : Word}
    (hx : x = (Stream.listenFault (.secondWord i w) (s.busClosed n st)).issue) :
    ∃ q r, x.writeQueue = q ++ [WriteItem.done r] ∧ r.busFault = true ∧ r.desc.count = 0
      ∧ r.desc.index = i ∧ r.desc.wrap = w.getLsbD 30 ∧ r.desc.notify = w.getLsbD 27
      ∧ (st.current = none → x.ringIndex
          = if st.ringIndex = i then nextIndex i (w.getLsbD 30) else st.ringIndex) := by
  rw [hx, Stream.issue_eq]
  refine ⟨(s.busClosed n st).writeQueue, { (RxDesc.ofWords i w 0).finish with busFault := true },
    rfl, rfl, rfl, rfl, rfl, rfl, fun hc => ?_⟩
  rw [← State.busClosed_ringIndex (s := s) (n := n) hs hc]
  rfl

/-- A failed hand-back write empties the write queue and ends the engine's work (R169). -/
theorem State.listenWriteFault (hk : kind = .statusWrite ∨ kind = .handBack)
    (hx : x = (Stream.listenFault kind (s.busClosed n st)).issue) :
    x.writeQueue = [] ∧ x.dead = true ∧ x.op = none := by
  have hfault : Stream.listenFault kind (s.busClosed n st)
      = { s.busClosed n st with writeQueue := [], dead := true } := by
    rcases hk with rfl | rfl <;> rfl
  rw [hx, hfault, Stream.issue_of_dead rfl]
  exact ⟨rfl, rfl, s.busClosed_op n st⟩

/-- A failed word write takes the placed words of its buffer out of the write queue, which is otherwise as the
closure left it, and hands the descriptor back with BUS_FAULT (R169). -/
theorem State.listenWordsFault (hs : st.isSend = false) {k : Nat} {i : BitVec 8} {a y : Word}
    {rest : List WriteItem} (hq : st.writeQueue = WriteItem.word i a y :: rest)
    (hx : x = (Stream.listenFault (.wordWrite k) (s.busClosed n st)).issue) :
    x.writeQueue = (st.writeQueue ++ st.truncatedItems).filterMap
      (WriteItem.afterFault i (st.writeQueue.filter (WriteItem.isWordOf i)).length) := by
  have hclosed : (s.busClosed n st).writeQueue = st.writeQueue ++ st.truncatedItems :=
    State.busClosed_writeQueue hs
  have hfault : (Stream.listenFault (.wordWrite k) (s.busClosed n st)).writeQueue
      = faultQueue i (st.writeQueue ++ st.truncatedItems) := by
    rw [← hclosed]
    rw [hq] at hclosed
    simp [Stream.listenFault, hclosed]
  rw [hx, Stream.issue_eq]
  dsimp only
  rw [hfault, faultQueue_eq, List.filter_append, Stream.truncatedItems_words, List.append_nil]

end

/-- Settles O48. -/
theorem listenBusErrorClosesTheStream : Obligations.ListenBusErrorClosesTheStream := by
  intro s n st op h hs
  have hleaves := State.busError_leaves h (by rw [hs, Bool.and_false])
  rw [hs, Stream.faulted, if_neg (by simp [hs])] at hleaves
  refine ⟨_, _, exec_listenBusError s, hleaves.stream, fun ho => State.openListenFault s n hs ho rfl,
    fun ho => State.closedListenFault s n hs ho rfl, State.listenFault_defn s n rfl, hleaves.portLast,
    fun hk => ?_, fun i w hk => State.listenSecondWordFault s n hs (by rw [hk]),
    fun hk => State.listenWriteFault s n hk rfl,
    fun k i a y rest hk hq => State.listenWordsFault s n hs (k := k) hq (by rw [hk]), hleaves.entries,
    hleaves.events, hleaves.membership⟩
  rw [Stream.issue_eq, Stream.listenFault_eq]
  exact State.busClosed_fetchPos hs

end Sys2Proof.Machine
end

section
/-! PROOFS. What a send stream sends at a frame start: the words that leave the staging queue, what becomes of
their descriptors, and the cells they are driven in (R125 to R127, R144 to R150). -/

namespace Sys2Proof.Machine

open Sys2Proof

/-! ### A word that leaves (R145, R148, R150) -/

/-- A descriptor that one more of its words has left, driven or discarded (R148). -/
def TxDesc.leave (driven : Bool) (now : Stamp) (d : TxDesc) : TxDesc :=
  { d with
    sent := if driven then d.sent + 1 else d.sent
    gone := d.gone + 1
    discarded := d.discarded || !driven
    lastStamp := now }

theorem Stream.leaveWord_eq {st : Stream} {w : Staged} {ws : List Staged} {d : TxDesc}
    {rest : List TxDesc} (hw : st.staging = w :: ws) (hd : st.held = d :: rest) (driven : Bool)
    (now : Stamp) : st.leaveWord driven now = if d.count ≤ d.gone + 1 then
        ({ st with staging := ws, nextSeq := st.nextSeq + 1 } : Stream).finishHead now
          (d.leave driven now) rest
      else { st with staging := ws, nextSeq := st.nextSeq + 1, held := d.leave driven now :: rest } := by
  unfold Stream.leaveWord
  rw [hw, hd]
  rfl

/-- The index after the last descriptor of a list, or `i` if the list is empty. -/
theorem foldl_after (zs : List TxDesc) (i : BitVec 8) (wrap : Bool) :
    zs.foldl (fun _ z => z.after) (nextIndex i wrap)
      = nextIndex ((zs.getLast?.map fun z => (z.index, z.wrap)).getD (i, wrap)).1
          ((zs.getLast?.map fun z => (z.index, z.wrap)).getD (i, wrap)).2 := by
  rcases List.eq_nil_or_concat zs with rfl | ⟨ys, z, rfl⟩
  · rfl
  · simp [TxDesc.after]

/-- The head whose last word has left is finished: it and the zero-count descriptors behind it leave the ring,
which stands past them (R145, R148, R150). -/
theorem Stream.finishHead_shows (now : Stamp) (d : TxDesc) (rest : List TxDesc) (st : Stream) :
    let empties := rest.takeWhile fun z => z.count == 0
    let last := (empties.getLast?.map fun z => (z.index, z.wrap)).getD (d.index, d.wrap)
    let x := st.finishHead now d rest
    x.staging = st.staging ∧ x.nextSeq = st.nextSeq ∧ x.event = (st.event || (d.keep && d.notify))
      ∧ x.held = rest.dropWhile (fun z => z.count == 0) ∧ x.ringIndex = nextIndex last.1 last.2
      ∧ x.writeBack = (if d.keep then st.writeBack else st.writeBack ++ [d.finish now])
        ++ empties.map fun z => z.finishEmpty now := by
  have hring := foldl_after (rest.takeWhile fun z => z.count == 0) d.index d.wrap
  unfold Stream.finishHead
  cases d.keep
  · exact ⟨rfl, rfl, by simp [Stream.finishEmpties], rfl, hring, rfl⟩
  · exact ⟨rfl, rfl, by simp [Stream.finishEmpties, Stream.signal], rfl, hring, rfl⟩

/-- What of a stream its leaving words never change: its state, whether its walk is stopped at a ring end, and
whether it is STARVED (R148). -/
def Stream.walkFlags (st : Stream) : StreamState × Bool × Bool := (st.state, st.ringEnd, st.starved)

theorem Stream.leaveWord_walkFlags (driven : Bool) (now : Stamp) (st : Stream) :
    (st.leaveWord driven now).walkFlags = st.walkFlags := by
  unfold Stream.leaveWord Stream.finishHead
  split
  · dsimp only
    split
    · split <;> rfl
    · rfl
  · rfl

theorem Stream.leaveWords_walkFlags (driven : Bool) (now : Stamp) (k : Nat) (st : Stream) :
    (st.leaveWords driven now k).walkFlags = st.walkFlags := by
  induction k generalizing st with
  | zero => rfl
  | succ k ih => exact (ih _).trans (st.leaveWord_walkFlags driven now)

/-! ### A send stream after a frame start (R126, R144) -/

/-- The stream when `n` words have been driven and then `k` discarded (R126, R127). -/
def Stream.sent (now : Stamp) (n k : Nat) (st : Stream) : Stream :=
  (st.leaveWords true now n).leaveWords false now k

theorem Stream.sent_walkFlags (now : Stamp) (n k : Nat) (st : Stream) :
    (st.sent now n k).state = st.state ∧ (st.sent now n k).ringEnd = st.ringEnd
      ∧ (st.sent now n k).starved = st.starved := by
  have h : (st.sent now n k).walkFlags = st.walkFlags :=
    (Stream.leaveWords_walkFlags _ _ _ _).trans (Stream.leaveWords_walkFlags _ _ _ _)
  simpa only [Stream.walkFlags, Prod.mk.injEq] using h

/-- The slots that a send stream drives (R125). -/
theorem State.slotsToDrive_of_send {st : Stream} (hs : st.isSend = true) (s : State) (expected : Bool) :
    s.slotsToDrive expected st
      = if expected = true ∧ (st.state = .running ∨ st.state = .repairing) ∧ st.awaiting = false
        then st.chosen.filter s.drivable else [] := by
  simp [State.slotsToDrive, Stream.sending, hs]

/-- The discards of a send stream (R126). -/
theorem Stream.discardsToMake_of_send {st : Stream} (hs : st.isSend = true) (expected : Bool) (n : Nat) :
    st.discardsToMake expected n
      = if expected = true ∧ st.defn.cls = .lossy ∧ (st.state = .repairing ∨ st.state = .suspended)
          ∧ st.awaiting = false ∧ n = st.chosen.length then st.discards else 0 := by
  simp [Stream.discardsToMake, Stream.discarding, hs, and_assoc]

/-- The last staged word is among the `k` words that have left, at a ring end (R144). -/
def Stream.ranOut (k : Nat) (st : Stream) : Bool :=
  decide (0 < k) && (st.ringEnd && st.staging.isEmpty)

/-- The stream after a frame start in which it drives `n` words and discards `k`: the words have left, the
choice is spent, and the stream is STARVED where it ran out (R125 to R127, R144). -/
def Stream.spend (now : Stamp) (n k : Nat) (st : Stream) : Stream :=
  let x := st.sent now n k
  { x with
    chosen := [], discards := 0
    starved := x.starved || x.ranOut (n + k)
    event := x.event || (x.ranOut (n + k) && !x.starved) }

theorem Stream.checkStarved_eq (st : Stream) : st.checkStarved = { st with
    starved := st.starved || (st.ringEnd && st.staging.isEmpty)
    event := st.event || (st.ringEnd && st.staging.isEmpty && !st.starved) } := by
  unfold Stream.checkStarved
  cases hstarves : st.ringEnd && st.staging.isEmpty <;> simp [Stream.signal]

theorem State.spendWords_of_send {s : State} {expected : Bool} {st : Stream} {n k : Nat}
    (hs : st.isSend = true) (hn : (s.slotsToDrive expected st).length = n)
    (hk : st.discardsToMake expected n = k) : s.spendWords expected st = st.spend s.stamp n k := by
  rw [State.spendWords, if_pos hs]
  dsimp only
  rw [hn, hk]
  by_cases h : n + k = 0
  · simp [h, Stream.chooseNone, Stream.spend, Stream.ranOut, Stream.sent]
  · have hpos : decide (0 < n + k) = true := decide_eq_true (by omega)
    rw [if_neg h, Stream.checkStarved_eq, Stream.spend, Stream.ranOut, hpos]
    rfl

/-- What the end of a CLOSING may change of a stream (R132). -/
theorem Stream.finishClosing_eq (part : Bool) (st : Stream) : st.finishClosing part = { st with
    state := (st.finishClosing part).state, event := (st.finishClosing part).event } := by
  unfold Stream.finishClosing
  split <;> rfl

/-- The end of a CLOSING tells no other stream (R132). -/
theorem Stream.finishClosing_event {st : Stream} (h : st.state ≠ .closing) (part : Bool) :
    (st.finishClosing part).event = st.event := by simp [Stream.finishClosing, h]

theorem Stream.state_of_isOpen {st : Stream} (h : st.isOpen = true) : st.state ≠ .closing := fun hc => by
  simp [Stream.isOpen, hc, StreamState.openSend, StreamState.openListen] at h

/-- A frame that a station opens as it expected (R5 to R7). -/
def State.opensExpected (s : State) (long : Bool) : Bool :=
  !(s.newFrame long).census && !(s.newFrame long).unexpected

theorem Stream.applyCue_of_none {st : Stream} (h : st.cueAction = none) (slots : Vector Slot 24) :
    st.applyCue slots = st := by simp [Stream.applyCue, h]

/-- A send stream with no cue action at a frame start (R125, R132). -/
theorem State.streamOpens_sender {st : Stream} (hs : st.isSend = true) (hcue : st.cueAction = none)
    (s : State) (long : Bool) (n : Fin 16) : ∃ part, s.streamOpens long n st
      = (((s.opening long).spendWords (s.opensExpected long) st).finishClosing part).issue := by
  have hstall : ∀ v e, (State.spendWords v e st).listenStall (s.opening long).slots
      = State.spendWords v e st := fun v e => by
    rw [Stream.listenStall, if_pos ((Stream.isSend_congr (State.spendWords_defn v e st)).trans hs)]
  unfold State.streamOpens
  dsimp only
  rw [Stream.applyCue_of_none hcue, hstall, ite_self]
  exact ⟨_, rfl⟩

section
variable {st x : Stream} {now : Stamp} {n k : Nat} {part : Bool}

/-- What becomes of the choice, the words and the descriptors of a send stream at a frame start
(R125 to R127, R148). -/
theorem Stream.spend_queues (hx : x = ((st.spend now n k).finishClosing part).issue) :
    x.chosen = [] ∧ x.discards = 0 ∧ x.staging = (st.sent now n k).staging
      ∧ x.nextSeq = (st.sent now n k).nextSeq ∧ x.held = (st.sent now n k).held
      ∧ x.ringIndex = (st.sent now n k).ringIndex ∧ x.writeBack = (st.sent now n k).writeBack := by
  rw [hx, Stream.issue_eq, Stream.finishClosing_eq]
  exact ⟨rfl, rfl, rfl, rfl, rfl, rfl, rfl⟩

/-- A send stream is STARVED when its last staged word leaves at a ring end, with its event at the onset
(R144). -/
theorem Stream.spend_starved (hx : x = ((st.spend now n k).finishClosing part).issue) :
    let starves := 0 < n + k ∧ st.ringEnd = true ∧ x.staging = []
    (x.starved = true ↔ st.starved = true ∨ starves)
      ∧ (st.isOpen = true → (x.event = true
          ↔ (st.sent now n k).event = true ∨ starves ∧ st.starved = false)) := by
  obtain ⟨hstate, hring, hstarved⟩ := st.sent_walkFlags now n k
  have hranOut : (st.sent now n k).ranOut (n + k) = true
      ↔ 0 < n + k ∧ st.ringEnd = true ∧ (st.sent now n k).staging = [] := by
    simp [Stream.ranOut, hring]
  obtain ⟨-, -, hstaging, -⟩ := Stream.spend_queues hx
  rw [hstaging, ← hranOut]
  refine ⟨?_, fun ho => ?_⟩
  · rw [hx, Stream.issue_eq, Stream.finishClosing_eq, ← hstarved]
    exact Bool.or_eq_true _ _ ▸ Iff.rfl
  · have hnot : (st.spend now n k).state ≠ .closing := fun hc =>
      Stream.state_of_isOpen ho (hstate.symm.trans hc)
    rw [hx, Stream.issue_eq]
    dsimp only
    rw [Stream.finishClosing_event hnot]
    simp [Stream.spend, hstarved]

end

/-! ### The cells of a send stream (R125, R127) -/

/-- The `j`-th staged word goes into the `j`-th slot that the stream drives (R125, R127). -/
theorem State.mem_cellsOf_iff {s : State} {expected : Bool} {st : Stream} {i : Fin 24} {c : Cell} :
    (i, c) ∈ s.cellsOf expected st ↔ ∃ j w, (s.slotsToDrive expected st)[j]? = some i
      ∧ st.staging[j]? = some w ∧ c = s.cellFor st i j w := by
  simp only [State.cellsOf, List.mem_map, List.mem_zipIdx_iff_getElem?, List.getElem?_zip_eq_some,
    Prod.mk.injEq]
  constructor
  · rintro ⟨⟨⟨_, w⟩, j⟩, ⟨hi, hw⟩, rfl, rfl⟩
    exact ⟨j, w, hi, hw, rfl⟩
  · rintro ⟨j, w, hi, hw, rfl⟩
    exact ⟨((i, w), j), ⟨hi, hw⟩, rfl, rfl⟩

/-- The slots a stream drives are among those it chose, each once if it chose each once (R125). -/
theorem State.slotsToDrive_nodup {st : Stream} (h : st.chosen.Nodup) (s : State) (expected : Bool) :
    (s.slotsToDrive expected st).Nodup := by
  unfold State.slotsToDrive
  split
  · exact h.filter _
  · exact List.nodup_nil

/-- A cell that the station drives is a cell of one of its streams (R125). -/
theorem State.cellDriven_cellsOf {s : State} {expected : Bool} {i : Fin 24} {c : Cell}
    (h : s.cellDriven expected i = some c) :
    ∃ (m : Fin 16) (y : Stream), s.streams[m] = some y ∧ (i, c) ∈ s.cellsOf expected y := by
  obtain ⟨o, ho, hc⟩ := List.exists_of_findSome?_eq_some h
  obtain ⟨y, rfl, hy⟩ := Option.bind_eq_some_iff.1 hc
  obtain ⟨⟨i', c'⟩, hfind, rfl⟩ := Option.map_eq_some_iff.1 hy
  obtain ⟨m, hm, hget⟩ := Vector.mem_iff_getElem.1 (Vector.mem_toList_iff.1 ho)
  have hi : i' = i := by simpa using List.find?_some hfind
  exact ⟨⟨m, hm⟩, y, hget, hi ▸ List.mem_of_find?_eq_some hfind⟩

/-- In a slot that one stream alone chose, the station drives that stream's word (R125). -/
theorem State.cellDriven_eq {s : State} {n : Fin 16} {st : Stream} {expected : Bool} {i : Fin 24}
    {j : Nat} {w : Staged} (hn : s.streams[n] = some st)
    (hi : (s.slotsToDrive expected st)[j]? = some i) (hw : st.staging[j]? = some w)
    (hnodup : st.chosen.Nodup)
    (hothers : ∀ (m : Fin 16) (y : Stream), m ≠ n → s.streams[m] = some y → i ∉ y.chosen) :
    s.cellDriven expected i = some (s.cellFor st i j w) := by
  have honly : ∀ c, (i, c) ∈ s.cellsOf expected st → c = s.cellFor st i j w := fun c hc => by
    obtain ⟨j', w', hi', hw', rfl⟩ := State.mem_cellsOf_iff.1 hc
    obtain ⟨hj, -⟩ := List.getElem?_eq_some_iff.1 hi
    have hjj : j = j' := (List.getElem?_inj hj (State.slotsToDrive_nodup hnodup s expected)).1
      (hi.trans hi'.symm)
    subst hjj
    rw [Option.some.inj (hw.symm.trans hw')]
  have hsome : (s.cellDriven expected i).isSome = true := by
    simp only [State.cellDriven, List.findSome?_isSome_iff]
    refine ⟨some st, by rw [← hn]; simp, ?_⟩
    simp only [Option.bind_some, Option.isSome_map, List.find?_isSome]
    exact ⟨_, State.mem_cellsOf_iff.2 ⟨j, w, hi, hw, rfl⟩, by simp⟩
  obtain ⟨c, hc⟩ := Option.isSome_iff_exists.1 hsome
  obtain ⟨m, y, hm, hy⟩ := State.cellDriven_cellsOf hc
  by_cases hmn : m = n
  · rw [hmn, hn] at hm
    cases hm
    rw [hc, honly c hy]
  · obtain ⟨hslot, -, -⟩ := State.mem_cellsOf hy
    obtain ⟨-, -, -, hchosen, -⟩ := (State.mem_slotsToDrive _ _ _ _).1 hslot
    exact absurd hchosen (hothers m y hmn hm)

/-- No cue action changes the choice of a stream (R179). -/
theorem Stream.applyCue_chosen (slots : Vector Slot 24) (st : Stream) :
    (st.applyCue slots).chosen = st.chosen := by
  have hrule : ∀ x : Stream, (x.listenRule slots).chosen = x.chosen := fun x => by
    unfold Stream.listenRule
    split <;> rfl
  have hstop : ∀ x : Stream, x.stopHandBack.chosen = x.chosen := fun x => by
    unfold Stream.stopHandBack Stream.handBackCurrent Stream.checkListenStarved
    repeat' split
    all_goals rfl
  unfold Stream.applyCue
  split
  · rfl
  · exact hrule _
  · rw [hstop, hrule]
  · rfl
  · rfl

/-! ### The whole frame start -/

/-- The stamp at the opening is that of the frame that a frame start leaves in progress (R140). -/
theorem State.openFrame_stamp {s : State} (hleft : s.membership = .leaving → s.hasPart = true)
    (long : Bool) : (s.openFrame long).pump.stamp = (s.opening long).stamp := by
  have hside := State.openFrame_frameSide hleft long
  simp only [State.frameSide, Prod.mk.injEq] at hside
  obtain ⟨hindex, -, -, hcycle, -⟩ := hside
  rw [State.stamp, State.stamp, hindex, hcycle]

/-- In a chosen slot that a send stream drives the station has the stream's next word on TDAT, under the label
and the priority of the slot's entry (R125, R127, R146). -/
theorem State.openFrame_cell {u : State} {n : Fin 16} {st : Stream} {long : Bool} {i : Fin 24} {j : Nat}
    {w : Staged} (hd : u.membership.drives = true)
    (hleft : u.membership = .leaving → u.hasPart = true) (hn : u.streams[n] = some st)
    (hcue : st.cueAction = none)
    (hi : ((u.opening long).slotsToDrive (u.opensExpected long) st)[j]? = some i)
    (hw : st.staging[j]? = some w) (hnodup : st.chosen.Nodup)
    (hothers : ∀ (m : Fin 16) (y : Stream), m ≠ n → u.streams[m] = some y → i ∉ y.chosen) :
    ∃ h damage, u.slots[i].entry = .held h damage
      ∧ (u.openFrame long).pump.drive.cells[i] = some ⟨u.number, h.priority, h.label,
          st.nextSeq + BitVec.ofNat 4 j, st.blockMark w, w.word⟩ := by
  have hstream : (u.opening long).streams[n] = some st := by
    rw [State.opening_stream, hn, Option.map_some, Stream.applyCue_of_none hcue]
  have hcell := State.cellDriven_eq hstream hi hw hnodup fun m y hm hy => by
    rw [State.opening_stream] at hy
    obtain ⟨y, hy', rfl⟩ := Option.map_eq_some_iff.1 hy
    rw [Stream.applyCue_chosen]
    exact hothers m y hm hy'
  obtain ⟨-, -, -, -, hfill⟩ := (State.mem_slotsToDrive _ _ _ _).1 (List.mem_of_getElem? hi)
  obtain ⟨-, h, damage, hentry, -, hface⟩ := (State.drivable_iff _ _).1 hfill
  rw [State.opening_slots] at hentry
  refine ⟨h, damage, hentry, ?_⟩
  rw [State.openFrame_drive hd hleft]
  simp only [State.frameDrive, Fin.getElem_fin, Vector.getElem_ofFn]
  exact hcell.trans (by rw [State.cellFor, hface, State.opening_number])

/-- Settles O18: the first part by `spend_queues`, `spend_starved` and `openFrame_cell`, the second by
`leaveWord_eq` and `finishHead_shows`. -/
theorem frameStartSendsTheChosenWords : Obligations.FrameStartSendsTheChosenWords := by
  refine ⟨fun mark long arb s u n st hr hu hd hleft hlong hn hs hcue => ?_,
    fun driven now st w ws d rest hw hh => ?_⟩
  · have hexec : exec (.frameStart mark arb) s = .next (u.openFrame long).pump := by
      have hur := Membership.receives_of_maps (Membership.maps_of_drives hd)
      rw [hu] at hur
      rw [exec_frameStart_of_receives hr mark arb hur, ← hu, show u.edgeIsMark mark = long from hlong.symm]
    have hexp : u.opensExpected long = true ↔ long = false ∧ (u.aligned = true → u.index ≠ 255) :=
      State.newFrame_expected hd long
    have hdrivable : (u.opening long).drivable
        = fun i => u.slots[i].entry.heldBy u.number && !u.slots[i].intent := by
      funext i
      simp [State.drivable]
    intro expected sent gone
    have hsent : (u.opening long).slotsToDrive (u.opensExpected long) st = sent := by
      rw [State.slotsToDrive_of_send hs, hdrivable]
      simp only [hexp]
      rfl
    have hgone : st.discardsToMake (u.opensExpected long) sent.length = gone := by
      rw [Stream.discardsToMake_of_send hs]
      simp only [hexp]
      rfl
    obtain ⟨part, hopens⟩ := u.streamOpens_sender hs hcue long n
    rw [State.spendWords_of_send hs (congrArg _ hsent) hgone, ← State.openFrame_stamp hleft] at hopens
    obtain ⟨hchosen, hdiscards, hstaging, hseq, hheld, hring, hqueue⟩ := Stream.spend_queues hopens
    exact ⟨_, u.streamOpens long n st, hexec, by rw [State.openFrame_stream hd hleft, hn]; rfl, hchosen,
      hdiscards, hstaging, hseq, hheld, hring, hqueue, Stream.spend_starved hopens,
      fun j i w hj hw hnodup hothers => State.openFrame_cell hd hleft hn hcue (hsent ▸ hj) hw hnodup
        hothers⟩
  · intro left x
    refine ⟨fun k => rfl, ?_⟩
    by_cases hlast : d.count ≤ d.gone + 1
    · have hx : x = ({ st with staging := ws, nextSeq := st.nextSeq + 1 } : Stream).finishHead now left
          rest := (Stream.leaveWord_eq hw hh driven now).trans (if_pos hlast)
      obtain ⟨hstaging, hseq, hfinished⟩ := Stream.finishHead_shows now left rest
        { st with staging := ws, nextSeq := st.nextSeq + 1 }
      rw [hx]
      exact ⟨hstaging, hseq, fun h => absurd hlast (Nat.not_le.2 h), fun _ => hfinished⟩
    · have hx : x = { st with staging := ws, nextSeq := st.nextSeq + 1, held := left :: rest } :=
        (Stream.leaveWord_eq hw hh driven now).trans (if_neg hlast)
      rw [hx]
      exact ⟨rfl, rfl, fun _ => ⟨rfl, rfl, rfl, rfl⟩, fun h => absurd h hlast⟩

end Sys2Proof.Machine
end

section
/-! PROOFS. The layouts of host memory: the words of descriptors as they are taken and handed back, and the
profile with its checks (R139, R140, R155, R156, R185, R186, R197, R198). -/

namespace Sys2Proof.Machine

open Sys2Proof

/-! ### Fields of a word (R197) -/

/-- A field is multiplied by the weight of its lowest bit. -/
theorem place_eq_mul {k : Nat} (lo : Nat) (x : BitVec k) :
    place lo x = BitVec.ofNat 32 (2 ^ lo) * x.setWidth 32 := by
  have hweight : BitVec.twoPow 32 lo = BitVec.ofNat 32 (2 ^ lo) :=
    BitVec.eq_of_toNat_eq (by simp [BitVec.toNat_twoPow])
  rw [place, BitVec.shiftLeft_eq_mul_twoPow, hweight, BitVec.mul_comm]

/-- Fields side by side are placed each at its own bit. -/
theorem place_append {m n : Nat} (lo : Nat) (x : BitVec m) (y : BitVec n) :
    place lo (x ++ y) = place (lo + n) x ||| place lo y := by
  ext i hi
  simp only [place, BitVec.getElem_shiftLeft, BitVec.getElem_setWidth, BitVec.getElem_or,
    BitVec.getLsbD_append]
  by_cases h : i < lo
  · simp [h, show i < lo + n by omega]
  · by_cases h' : i - lo < n
    · simp [h, h', show i < lo + n by omega]
    · simp [h, h', show ¬ i < lo + n by omega, show i - lo - n = i - (lo + n) by omega,
        BitVec.getLsbD_of_ge y _ (not_lt.1 h')]

theorem place_zeros (lo k : Nat) : place lo (0#k) = 0#32 := by simp [place]

theorem place_word (w : Word) : place 0 w = w := by simp [place]

/-- Fields are joined in any order. -/
theorem fields_left_comm (x y z : Word) : x ||| (y ||| z) = y ||| (x ||| z) := by
  rw [← BitVec.or_assoc, BitVec.or_comm x, BitVec.or_assoc]

/-! ### Descriptors (R139, R155, R197)

The fields of a hand-back word are taken apart with `place_append` before `Nat.reduceAdd` adds up their widths,
since afterwards no `++` of known widths is left to see. -/

/-- The indices of a ring go round at 255 (R142, R157). -/
theorem nextIndex_eq (index : BitVec 8) (wrap : Bool) :
    nextIndex index wrap = if wrap = true ∨ index = 255 then 0 else index + 1 := by
  cases wrap with
  | true => rfl
  | false =>
    by_cases h : index = 255
    · subst h
      rfl
    · exact (if_neg fun hw => hw.elim nofun h).symm

/-- A descriptor takes 16 bytes of its ring (R139, R155). -/
theorem Stream.descriptor_eq (st : Stream) (index : BitVec 8) :
    st.descriptor index = st.defn.ringBase + 16 * index.setWidth 32 :=
  congrArg (st.defn.ringBase + ·) (place_eq_mul 4 index)

/-- The first word of a send descriptor at hand-back, field by field (R140, R197). -/
theorem TxDone.firstWord_fields (r : TxDone) :
    r.firstWord = (0#1 ++ BitVec.ofBool r.desc.wrap ++ BitVec.ofBool r.desc.blockStart
      ++ BitVec.ofBool r.desc.wait ++ BitVec.ofBool r.desc.notify ++ BitVec.ofBool r.desc.keep ++ 0#14
      ++ BitVec.ofNat 12 r.desc.count : BitVec (1 + 1 + 1 + 1 + 1 + 1 + 14 + 12)) := by
  refine Eq.trans ?_ (place_word _)
  simp only [place_append]
  simp only [TxDone.firstWord, placeBit, place_zeros, BitVec.zero_or, BitVec.or_zero, Nat.zero_add,
    Nat.reduceAdd]

/-- The fourth word of a send descriptor at hand-back, field by field (R140, R197). -/
theorem TxDone.statusWord_fields (r : TxDone) (miss : Bool) :
    r.statusWord miss = (0#11 ++ BitVec.ofBool r.busFault ++ BitVec.ofBool r.empty
      ++ BitVec.ofBool miss ++ BitVec.ofBool r.desc.discarded ++ BitVec.ofBool r.truncated ++ 0#4
      ++ BitVec.ofNat 12 r.desc.sent : BitVec (11 + 1 + 1 + 1 + 1 + 1 + 4 + 12)) := by
  refine Eq.trans ?_ (place_word _)
  simp only [place_append]
  simp only [TxDone.statusWord, placeBit, place_zeros, BitVec.zero_or, BitVec.or_zero, Nat.zero_add,
    Nat.reduceAdd]
  simp only [BitVec.or_assoc, BitVec.or_comm, fields_left_comm]

/-- The first word of a receive descriptor at hand-back, field by field (R156, R197). -/
theorem RxDone.firstWord_fields (r : RxDone) (overrun miss : Bool) :
    r.firstWord overrun miss = (0#1 ++ BitVec.ofBool r.desc.wrap ++ 0#1 ++ BitVec.ofBool r.desc.wait
      ++ BitVec.ofBool r.desc.notify ++ 0#2 ++ BitVec.ofBool r.busFault ++ BitVec.ofBool miss
      ++ BitVec.ofBool r.cueStop ++ BitVec.ofBool r.truncated ++ BitVec.ofBool overrun
      ++ BitVec.ofBool r.desc.damage ++ BitVec.ofBool r.desc.gap ++ BitVec.ofBool r.blockEnd
      ++ BitVec.ofBool r.desc.blockStart ++ 0#4 ++ BitVec.ofNat 12 r.desc.count
      : BitVec (1 + 1 + 1 + 1 + 1 + 2 + 1 + 1 + 1 + 1 + 1 + 1 + 1 + 1 + 1 + 4 + 12)) := by
  refine Eq.trans ?_ (place_word _)
  simp only [place_append]
  simp only [RxDone.firstWord, placeBit, place_zeros, BitVec.zero_or, BitVec.or_zero, Nat.zero_add,
    Nat.reduceAdd]
  simp only [BitVec.or_assoc, BitVec.or_comm, fields_left_comm]

/-! ### The profile (R185, R186, R198) -/

theorem profileSum_eq (ws : List Word) : profileSum ws = ws.sum := List.sum_eq_foldl.symm

theorem headerFault_eq (ws : List Word) : headerFault ws = if profileFormat ws ≠ 1 then .format
    else if 1 ≤ profileCount ws ∧ profileCount ws ≤ 16 then .none else .count := by
  unfold headerFault
  by_cases hc : 1 ≤ profileCount ws ∧ profileCount ws ≤ 16
  · rw [if_neg (show ¬ (profileCount ws < 1 ∨ 16 < profileCount ws) by omega), if_pos hc]
  · rw [if_pos (show profileCount ws < 1 ∨ 16 < profileCount ws by omega), if_neg hc]

/-- A SEND stream of lower number has the label (R186). -/
theorem sendLabelTaken_iff (ws : List Word) (n : Nat) (l : Label) : sendLabelTaken ws n l = true
    ↔ ∃ m < n, (profileStream ws m).direction = .send ∧ (profileStream ws m).label = l := by
  simp [sendLabelTaken]

/-- The ring base is a multiple of 16 (R186). -/
theorem ringBase_aligned_iff (a : Word) : a.extractLsb' 0 4 = 0 ↔ a.toNat % 16 = 0 := by
  rw [BitVec.toNat_eq]
  simp

theorem streamFault_label {ws : List Word} {n : Nat} (h : (profileStream ws n).label = 0) :
    streamFault ws n = .label := if_pos h

section
variable {ws : List Word} {n : Nat} (hl : (profileStream ws n).label ≠ 0)
include hl

theorem streamFault_width (hs : (profileStream ws n).direction = .send)
    (h1 : (profileStream ws n).width ≠ 1) (h2 : (profileStream ws n).width ≠ 2)
    (h4 : (profileStream ws n).width ≠ 4) : streamFault ws n = .width := by
  simp only [streamFault, if_neg hl]
  simp [hs, h1, h2, h4]

/-- The checks of a stream's ring base and of its label against the others, where its own label and width
pass (R186). -/
theorem streamFault_of_width (hw : (profileStream ws n).direction = .send →
      (profileStream ws n).width = 1 ∨ (profileStream ws n).width = 2 ∨ (profileStream ws n).width = 4) :
    streamFault ws n = if (profileStream ws n).ringBase.toNat % 16 ≠ 0 then .ringBase
      else if (profileStream ws n).direction = .send ∧ ∃ m < n, (profileStream ws m).direction = .send
        ∧ (profileStream ws m).label = (profileStream ws n).label then .sendLabel
      else .none := by
  have hwidth : ((profileStream ws n).direction == .send && (profileStream ws n).width != 1
      && (profileStream ws n).width != 2 && (profileStream ws n).width != 4) = false := by
    cases hd : (profileStream ws n).direction with
    | listen => rfl
    | send => rcases hw hd with h | h | h <;> simp [h]
  simp only [streamFault, hl, hwidth, ringBase_aligned_iff, ← sendLabelTaken_iff, Bool.and_eq_true,
    beq_iff_eq, if_false, Bool.false_eq_true, ne_eq]

end

/-- Settles O39. -/
theorem hostMemoryLayouts : Obligations.HostMemoryLayouts := by
  refine ⟨fun index w0 w1 => ⟨rfl, rfl, nextIndex_eq _ _⟩, Stream.descriptor_eq,
    fun r miss => ⟨r.firstWord_fields, r.statusWord_fields miss⟩, RxDone.firstWord_fields, fun ws => ?_⟩
  refine ⟨rfl, rfl, rfl, rfl, profileSum_eq ws, fun _ => rfl, headerFault_eq ws, fun n => ?_⟩
  refine ⟨rfl, rfl, rfl, rfl, rfl, rfl, rfl, rfl, streamFault_label, fun hl hs => streamFault_width hl hs,
    fun hl hw => ?_⟩
  have hfault := streamFault_of_width hl hw
  refine ⟨fun hb => hfault.trans (if_pos hb), fun hb => ?_⟩
  rw [if_neg (not_not.2 hb)] at hfault
  exact ⟨fun ht => hfault.trans (if_pos ht), fun ht => hfault.trans (if_neg ht)⟩

end Sys2Proof.Machine
end

section
/-! PROOFS. Which operation an engine issues next (R142 to R144, R149, R157, R158, R167). -/

namespace Sys2Proof.Machine

open Sys2Proof

/-! ### Runs of placed words (R167) -/

/-- A run of words of one buffer goes on from address to address. -/
theorem address_succ (a : Word) (j : Nat) :
    a + 4 * BitVec.ofNat 32 (j + 1) = a + 4 + 4 * BitVec.ofNat 32 j := by
  rw [BitVec.ofNat_add, BitVec.mul_add, BitVec.add_comm (4 * BitVec.ofNat 32 j), ← BitVec.add_assoc]
  rfl

/-- A run of words is as long as the words of one buffer stand at consecutive addresses (R167). -/
theorem writeRun_stands (i : BitVec 8) (a : Word) (q : List WriteItem) :
    (∀ j < writeRun i a q, ∃ y, q[j]? = some (.word i (a + 4 * BitVec.ofNat 32 j) y))
    ∧ ∀ y, q[writeRun i a q]? ≠ some (.word i (a + 4 * BitVec.ofNat 32 (writeRun i a q)) y) := by
  induction q generalizing a with
  | nil => exact ⟨nofun, nofun⟩
  | cons x rest ih =>
    cases x with
    | done r => exact ⟨nofun, nofun⟩
    | word i' b x =>
      by_cases hrun : i' = i ∧ b = a
      · obtain ⟨rfl, rfl⟩ := hrun
        obtain ⟨hstands, hends⟩ := ih (b + 4)
        have hlength : writeRun i' b (.word i' b x :: rest) = writeRun i' (b + 4) rest + 1 := by
          simp [writeRun, Nat.add_comm]
        rw [hlength]
        refine ⟨fun j hj => ?_, fun y => ?_⟩
        · cases j with
          | zero => exact ⟨x, by simp⟩
          | succ j =>
            rw [address_succ]
            exact hstands j (Nat.lt_of_succ_lt_succ hj)
        · rw [address_succ]
          exact hends y
      · have hlength : writeRun i a (.word i' b x :: rest) = 0 := by
          rw [writeRun, if_neg (by simpa using hrun)]
        rw [hlength]
        refine ⟨nofun, fun y hy => hrun ?_⟩
        simp only [List.getElem?_cons_zero, Option.some.injEq, WriteItem.word.injEq] at hy
        obtain ⟨hi, ha, -⟩ := hy
        exact ⟨hi, by simpa using ha⟩

/-! ### The walk (R142, R157) -/

/-- How the walk goes on: by the second word of the descriptor whose first word has been read, or by the first
word at the fetch position (R143, R157). -/
def Stream.walkOp (busy : Bool) (st : Stream) : Option BusOp :=
  match st.reading with
  | some w => some ⟨.secondWord st.fetchPos w, st.descriptor st.fetchPos + 4, false⟩
  | none => st.firstWordOp busy

theorem any_index_eq_false_iff (o : Option RxDesc) (i : BitVec 8) :
    (o.any (·.index == i)) = false ↔ ∀ d ∈ o, d.index ≠ i := by cases o <;> simp

/-- With none waiting for its hand-back, a descriptor is held while the walk has it (R142). -/
theorem Stream.fetchHeld_eq_false_iff {st : Stream} (hq : st.writeBack = []) :
    st.fetchHeld = false ↔ ∀ d ∈ st.held, d.index ≠ st.fetchPos := by
  simp [Stream.fetchHeld, hq]

theorem Stream.fetchInHand_eq_false_iff {st : Stream} (hq : st.writeQueue = []) : st.fetchInHand = false
    ↔ (∀ d ∈ st.current, d.index ≠ st.fetchPos) ∧ ∀ d ∈ st.next, d.index ≠ st.fetchPos := by
  simp only [Stream.fetchInHand, hq, List.any_nil, Bool.or_false, Bool.or_eq_false_iff,
    any_index_eq_false_iff]

/-- With no buffer word to read the walk goes on (R142, R143). -/
theorem Stream.nextOp_of_fetched {st : Stream} (hs : st.isSend = true) (hq : st.writeBack = [])
    (ho : st.isOpen = true) (hf : ∀ d, st.held.getLast? = some d → d.count ≤ d.fetched) :
    st.nextOp = st.walkOp st.fetchHeld := by
  rw [Stream.isOpen, if_pos hs] at ho
  have hfetching : st.fetching = none := by
    cases hd : st.held.getLast? with
    | none => simp [Stream.fetching, hd]
    | some d => simp [Stream.fetching, hd, hf d hd]
  rw [Stream.nextOp, if_pos hs, Stream.nextSendOp, hq, ho, hfetching]
  rfl

/-- With fewer than two descriptors in hand the walk goes on (R157). -/
theorem Stream.nextOp_of_room {st : Stream} (hs : st.isSend = false) (hq : st.writeQueue = [])
    (ho : st.isOpen = true) (hroom : st.current = none ∨ st.next = none) :
    st.nextOp = st.walkOp st.fetchInHand := by
  have hfew : (st.current.isSome && st.next.isSome) = false := by
    rcases hroom with h | h <;> simp [h]
  rw [Stream.isOpen, if_neg (by simp [hs])] at ho
  rw [Stream.nextOp, if_neg (by simp [hs]), Stream.nextListenOp, hq, ho, hfew]
  rfl

/-! ### What an engine issues (R143, R167) -/

/-- An engine that has an operation outstanding issues none (R143, R167). -/
theorem Stream.issue_of_busy {st : Stream} (h : st.op.isSome = true) : st.issue = st := by
  simp [Stream.issue, h]

section
variable {st : Stream} (hop : st.op = none) (hdead : st.dead = false)
include hop hdead

theorem Stream.issue_of_next {op : BusOp} (h : st.nextOp = some op) (hk : op.kind ≠ .firstWord) :
    st.issue = { st with op := some op } := by
  simp [Stream.issue, hop, hdead, h, hk]

theorem Stream.issue_of_none (h : st.nextOp = none) : st.issue = st := by
  simp [Stream.issue, hop, hdead, h]

/-- The second word of a descriptor whose first word has been read (R143, R157). -/
theorem Stream.issue_secondWord {busy : Bool} (h : st.nextOp = st.walkOp busy) {w : Word}
    (hw : st.reading = some w) : st.issue = { st with
      op := some ⟨.secondWord st.fetchPos w, st.descriptor st.fetchPos + 4, false⟩ } := by
  rw [Stream.walkOp, hw] at h
  exact Stream.issue_of_next hop hdead h nofun

/-- The read of a first word at the fetch position is issued unless the descriptor is held or the walk stands
at a ring end, and answers a poll (R142, R144, R157, R158). -/
theorem Stream.issue_firstWord {busy : Bool} (h : st.nextOp = st.walkOp busy) (hr : st.reading = none)
    {p : Prop} [Decidable p] (hp : p ↔ busy = false ∧ (st.ringEnd = false ∨ st.poll = true)) :
    st.issue = if p then
      { st with op := some ⟨.firstWord, st.descriptor st.fetchPos, false⟩, poll := false } else st := by
  have hstops : (busy || (st.ringEnd && !st.poll)) = false ↔ p := by
    simp only [hp, Bool.or_eq_false_iff, Bool.and_eq_false_iff, Bool.not_eq_false']
  rw [Stream.walkOp, hr] at h
  by_cases hgoes : p
  · have hnext : st.nextOp = some ⟨.firstWord, st.descriptor st.fetchPos, false⟩ := by
      rw [h, Stream.firstWordOp, hstops.2 hgoes]
      rfl
    simp [Stream.issue, hop, hdead, hnext, hgoes]
  · have hnext : st.nextOp = none := by
      rw [h, Stream.firstWordOp, if_pos (Bool.not_eq_false _ ▸ mt hstops.1 hgoes)]
    rw [Stream.issue_of_none hop hdead hnext, if_neg hgoes]

/-- The write-back queue comes first: the third and fourth words of its front, and then the first (R149). -/
theorem Stream.issue_handBack_of_send (hs : st.isSend = true) {r : TxDone} {rest : List TxDone}
    (hq : st.writeBack = r :: rest) : st.issue = { st with
      op := some (if r.statusDone then ⟨.handBack, st.descriptor r.desc.index, false⟩
        else ⟨.statusWrite, st.descriptor r.desc.index + 8, false⟩) } := by
  refine Stream.issue_of_next hop hdead ?_ (by split <;> nofun)
  rw [Stream.nextOp, if_pos hs, Stream.nextSendOp, hq]

theorem Stream.issue_handBack_of_listen (hs : st.isSend = false) {r : RxDone} {rest : List WriteItem}
    (hq : st.writeQueue = .done r :: rest) : st.issue = { st with
      op := some (if r.statusDone then ⟨.handBack, st.descriptor r.desc.index, false⟩
        else ⟨.statusWrite, st.descriptor r.desc.index + 8, false⟩) } := by
  refine Stream.issue_of_next hop hdead ?_ (by split <;> nofun)
  rw [Stream.nextOp, if_neg (by simp [hs]), Stream.nextListenOp, hq]

/-- The placed words at the front of the write queue are written as one run (R167). -/
theorem Stream.issue_wordWrite (hs : st.isSend = false) {i : BitVec 8} {a x : Word}
    {rest : List WriteItem} (hq : st.writeQueue = .word i a x :: rest) :
    1 ≤ writeRun i a st.writeQueue
      ∧ st.issue = { st with op := some ⟨.wordWrite (writeRun i a st.writeQueue), a, false⟩ } := by
  have hrun : writeRun i a st.writeQueue = 1 + writeRun i (a + 4) rest := by simp [hq, writeRun]
  refine ⟨hrun ▸ Nat.le_add_right 1 _, Stream.issue_of_next hop hdead ?_ nofun⟩
  rw [hrun, Stream.nextOp, if_neg (by simp [hs]), Stream.nextListenOp, hq]

/-- An engine whose queue is empty has nothing to issue for a stream that is not open (R149, R167). -/
theorem Stream.issue_of_closed (ho : st.isOpen = false) (hw : st.isSend = true → st.writeBack = [])
    (hq : st.isSend = false → st.writeQueue = []) : st.issue = st := by
  refine Stream.issue_of_none hop hdead ?_
  unfold Stream.isOpen at ho
  cases hs : st.isSend with
  | true =>
    rw [if_pos hs] at ho
    simp [Stream.nextOp, Stream.nextSendOp, hs, hw hs, ho]
  | false =>
    rw [if_neg (by simp [hs])] at ho
    simp [Stream.nextOp, Stream.nextListenOp, hs, hq hs, ho]

/-- The buffer words of the descriptor in hand come next, as many as the staging queue has room for (R143). -/
theorem Stream.issue_bufferRead (hs : st.isSend = true) (hq : st.writeBack = []) (ho : st.isOpen = true)
    {d : TxDesc} (hd : st.held.getLast? = some d) (hf : d.fetched < d.count) :
    st.issue = if min (8 - st.staging.length) (d.count - d.fetched) = 0 then st else { st with
      op := some ⟨.bufferRead (min (8 - st.staging.length) (d.count - d.fetched)),
        d.address + 4 * BitVec.ofNat 32 (d.fetched % 4096), false⟩ } := by
  rw [Stream.isOpen, if_pos hs] at ho
  have haddress : place 2 (BitVec.ofNat 12 d.fetched) = 4 * BitVec.ofNat 32 (d.fetched % 4096) := by
    rw [place_eq_mul]
    refine congrArg (4 * ·) (BitVec.eq_of_toNat_eq ?_)
    simp
  have hfetching : st.fetching = some d := by simp [Stream.fetching, hd, hf]
  have hnext : st.nextOp = if min (8 - st.staging.length) (d.count - d.fetched) = 0 then none else
      some ⟨.bufferRead (min (8 - st.staging.length) (d.count - d.fetched)),
        d.address + 4 * BitVec.ofNat 32 (d.fetched % 4096), false⟩ := by
    rw [Stream.nextOp, if_pos hs, Stream.nextSendOp, hq, ho, ← haddress, hfetching]
    rfl
  split
  · rename_i hk
    exact Stream.issue_of_none hop hdead (hnext.trans (if_pos hk))
  · rename_i hk
    exact Stream.issue_of_next hop hdead (hnext.trans (if_neg hk)) nofun

/-- A listener with two descriptors in hand reads no further (R157). -/
theorem Stream.issue_of_two (hs : st.isSend = false) (hq : st.writeQueue = [])
    (hc : st.current.isSome = true) (hn : st.next.isSome = true) :
    st.issue = st := by
  refine Stream.issue_of_none hop hdead ?_
  simp [Stream.nextOp, Stream.nextListenOp, hs, hq, hc, hn]

end

end Sys2Proof.Machine
end

section
/-! PROOFS. The ends of a send stream's transactions: descriptor reads, buffer reads and the two writes of a
hand-back (R140, R143 to R145, R149, R197). -/

namespace Sys2Proof.Machine

open Sys2Proof

/-! ### The end of a transaction that its engine has a use for -/

section
variable {s : State} {n : Fin 16} {st : Stream} {op : BusOp}

/-- A read ends, its stream's engine acts on the words, and goes on (R143, R157). -/
theorem State.endRead_leaves {f : BusKind → Option (Stream → Stream)} {g : Stream → Stream}
    (h : Serves s n st op) (hg : f op.kind = some g) (hd : op.discard = false) :
    OnlyStream n s (s.endRead st.isSend f).pump
    ∧ (s.endRead st.isSend f).pump.hostWrite = s.hostWrite
    ∧ ∃ next poll, (s.endRead st.isSend f).pump.streams[n]
        = some { g st.ended with op := next, poll := poll } := by
  rw [State.endRead_of_serves s n st op f g h hg hd]
  refine ⟨State.ended_only s n g, by simp [State.endOp], (g st.ended).issue.op, (g st.ended).issue.poll, ?_⟩
  exact (State.ended_stream s n st op g h).trans (congrArg some (Stream.issue_eq _))

/-- A write ends, having put its words into host memory, and its stream's engine goes on (R149, R167). -/
theorem State.endWrite_leaves {f : BusKind → Option (Stream → Stream × List (Word × Word))}
    {g : Stream → Stream × List (Word × Word)} (h : Serves s n st op) (hg : f op.kind = some g) :
    OnlyStream n s (s.endWrite st.isSend f).pump
    ∧ (s.endWrite st.isSend f).pump.streams[n] = some (g st.ended).1.issue
    ∧ (s.endWrite st.isSend f).pump.hostWrite = (g st.ended).2 := by
  rw [State.endWrite_of_serves s n st op f g h hg]
  have hstreams : ({ (s.endOp n).onStream n fun x => (g x).1 with
      hostWrite := (g st.ended).2 } : State).pump.streams
      = ((s.endOp n).onStream n fun x => (g x).1).pump.streams := by
    rw [State.pump_streams, State.pump_streams]
    rfl
  refine ⟨⟨?_, ?_⟩, ?_, State.pump_hostWrite _⟩
  · rw [State.pump_eq]
    simp [State.endOp, State.onStream]
  · have honly := (State.ended_only s n fun x => (g x).1).2
    rw [← hstreams] at honly
    exact honly
  · exact State.ended_stream s n st op (fun x => (g x).1) h

end

/-! ### A descriptor's read (R143 to R145) -/

section
variable {st : Stream} {w : Word}

/-- A zero-count descriptor that is held alone finishes (R145). -/
theorem Stream.finishEmpties_sole {d : TxDesc} (hh : st.held = [d]) (hd : d.count = 0) (now : Stamp) :
    st.finishEmpties now = { st with
      held := [], writeBack := st.writeBack ++ [d.finishEmpty now], ringIndex := d.after } := by
  simp [Stream.finishEmpties, hh, hd]

/-- A first word read as HOST is a ring end (R144). -/
theorem Stream.sendFirstRead_of_host (h : w.getLsbD 31 = false) (now : Stamp) :
    st.sendFirstRead w now = if st.staging.isEmpty then
        { st with ringEnd := true, starved := true, event := st.event || !st.starved }
      else { st with ringEnd := true } := by
  have howner : ownerPart w = false := h
  simp only [Stream.sendFirstRead, howner, Bool.not_false, if_true]
  rfl

/-- A first word read as PART with words to come asks for the second word (R143). -/
theorem Stream.sendFirstRead_of_words (h : w.getLsbD 31 = true) (hc : w.extractLsb' 0 12 ≠ 0) (now : Stamp) :
    st.sendFirstRead w now = { st with ringEnd := false, poll := false, reading := some w } := by
  have howner : ownerPart w = true := h
  have hcount : wordCount w ≠ 0 := fun h0 => hc (BitVec.eq_of_toNat_eq h0)
  simp only [Stream.sendFirstRead, howner, Bool.not_true, Bool.false_eq_true, if_false, if_neg hcount]

/-- A zero-count descriptor at the head finishes as it is read (R145). -/
theorem Stream.sendFirstRead_of_empty (h : w.getLsbD 31 = true) (hc : w.extractLsb' 0 12 = 0)
    (hh : st.held = []) (now : Stamp) : st.sendFirstRead w now = { st with
      ringEnd := false, poll := false, held := []
      fetchPos := nextIndex st.fetchPos (w.getLsbD 30), ringIndex := nextIndex st.fetchPos (w.getLsbD 30)
      writeBack := st.writeBack ++ [(TxDesc.ofWords st.fetchPos w 0).finishEmpty now] } := by
  have howner : ownerPart w = true := h
  have hcount : wordCount w = 0 := congrArg BitVec.toNat hc
  have hempty : (TxDesc.ofWords st.fetchPos w 0).count = 0 := hcount
  simp only [Stream.sendFirstRead, howner, Bool.not_true, Bool.false_eq_true, if_false, hcount, if_true]
  exact Stream.finishEmpties_sole (by rw [hh, List.nil_append]) hempty now

end

/-- Settles O42. -/
theorem sendDescriptorReadActs : Obligations.SendDescriptorReadActs := by
  intro w s n st op h hs hd
  have hexec : exec (.sendDescriptorRead w) s
      = .next (s.endRead st.isSend (sendDescriptorEnd w s.stamp)).pump := by rw [hs]; rfl
  refine ⟨fun hk => ?_, fun ⟨index, first, hk⟩ w0 hr => ?_⟩
  · obtain ⟨honly, hwrite, next, poll, hst⟩ :=
      State.endRead_leaves (f := sendDescriptorEnd w s.stamp) h (by rw [hk]; rfl) hd
    refine ⟨_, _, hexec, honly, hwrite, hst, fun hw => ?_, fun hw hc => ?_, fun hw hc hh => ?_⟩
    · rw [Stream.sendFirstRead_of_host hw]
      cases hq : st.staging <;> simp [Stream.ended, hq]
    · rw [Stream.sendFirstRead_of_words hw hc]
      exact ⟨rfl, rfl, rfl⟩
    · rw [Stream.sendFirstRead_of_empty (st := st.ended) hw hc hh]
      exact ⟨rfl, rfl, rfl, _, rfl, rfl, rfl, rfl⟩
  · obtain ⟨honly, hwrite, next, poll, hst⟩ :=
      State.endRead_leaves (f := sendDescriptorEnd w s.stamp) h (by rw [hk]; rfl) hd
    refine ⟨_, _, hexec, honly, hwrite, hst, ?_⟩
    have hread : st.ended.reading = some w0 := hr
    rw [Stream.sendSecondRead, hread]
    exact ⟨rfl, rfl⟩

/-! ### A buffer read (R143, R144) -/

theorem stageWords_word (d : TxDesc) (words : List Word) : (stageWords d words).map (·.word) = words := by
  rw [stageWords, List.map_map]
  exact List.zipIdx_map_fst 0 words

theorem stageWords_get (d : TxDesc) {words : List Word} {j : Nat} {w : Word} (h : words[j]? = some w) :
    (stageWords d words)[j]? = some ⟨w, d.index, decide (d.fetched + j = 0)⟩ := by
  rw [stageWords, List.getElem?_map, List.getElem?_zipIdx, h, Nat.zero_add]
  rfl

/-- Buffer words are staged behind those that stand there (R143, R144). -/
theorem Stream.sendBufferDone_of_fetching {st : Stream} {d : TxDesc} (h : st.fetching = some d)
    (words : List Word) : st.sendBufferDone words = { st with
      staging := st.staging ++ stageWords d words
      held := st.held.dropLast ++ [{ d with fetched := d.fetched + words.length }]
      starved := false
      fetchPos := if d.count ≤ d.fetched + words.length then d.after else st.fetchPos } := by
  simp only [Stream.sendBufferDone, h]

/-- Settles O43. -/
theorem bufferReadStagesItsWords : Obligations.BufferReadStagesItsWords := by
  intro words s n st op d h hs hd hk hf
  have hexec : exec (.sendBufferRead words) s
      = .next (s.endRead st.isSend (sendBufferEnd words)).pump := by rw [hs]; rfl
  obtain ⟨honly, hwrite, next, poll, hst⟩ :=
    State.endRead_leaves (f := sendBufferEnd words) h (by rw [hk]; exact if_pos rfl) hd
  rw [Stream.sendBufferDone_of_fetching (st := st.ended) hf] at hst
  refine ⟨_, _, hexec, honly, hwrite, hst, ?_, List.take_left, fun j w hw => ?_, rfl, rfl, rfl⟩
  · exact List.map_append.trans (congrArg _ (stageWords_word d words))
  · rw [← stageWords_get d hw]
    exact List.getElem?_append_right (Nat.le_add_right _ _) |>.trans (by rw [Nat.add_sub_cancel_left])

/-! ### Handing back (R140, R149) -/

/-- A flag stands at its own bit. -/
theorem placeBit_getLsbD {k i : Nat} (hi : i < 32) (b : Bool) :
    (placeBit k b).getLsbD i = (decide (i = k) && b) := by
  rcases Nat.lt_trichotomy i k with h | rfl | h
  · simp [placeBit, place, h, Nat.ne_of_lt h]
  · simp [placeBit, place, hi]
  · have hne : i - k ≠ 0 := by omega
    simp [placeBit, place, hne, Nat.ne_of_gt h]

/-- A field at the bottom leaves the bits above it. -/
theorem place_getLsbD_above {k i : Nat} (h : k ≤ i) (x : BitVec k) : (place 0 x).getLsbD i = false := by
  simp [place, BitVec.getLsbD_of_ge x i h]

/-- Where the fields of a status word stand (R197). -/
theorem TxDone.statusWord_reads (r : TxDone) (miss : Bool) :
    (r.statusWord miss).extractLsb' 0 12 = BitVec.ofNat 12 r.desc.sent
    ∧ (r.statusWord miss).getLsbD 16 = r.truncated ∧ (r.statusWord miss).getLsbD 17 = r.desc.discarded
    ∧ (r.statusWord miss).getLsbD 18 = miss ∧ (r.statusWord miss).getLsbD 19 = r.empty
    ∧ (r.statusWord miss).getLsbD 20 = r.busFault := by
  refine ⟨?_, ?_, ?_, ?_, ?_, ?_⟩
  · rw [r.statusWord_fields miss]
    exact BitVec.extractLsb'_append_eq_right
  all_goals
    simp only [TxDone.statusWord, BitVec.getLsbD_or, placeBit_getLsbD, place_getLsbD_above, Nat.reduceLT,
      Nat.reduceLeDiff]
    simp

/-- Where the owner, WRAP and the count of a first word stand (R197). -/
theorem TxDone.firstWord_reads (r : TxDone) : r.firstWord.getLsbD 31 = false
    ∧ r.firstWord.getLsbD 30 = r.desc.wrap
    ∧ r.firstWord.extractLsb' 0 12 = BitVec.ofNat 12 r.desc.count := by
  refine ⟨?_, ?_, by rw [r.firstWord_fields]; exact BitVec.extractLsb'_append_eq_right⟩
  all_goals
    simp only [TxDone.firstWord, BitVec.getLsbD_or, placeBit_getLsbD, place_getLsbD_above, Nat.reduceLT,
      Nat.reduceLeDiff]
    simp

/-- The third and fourth words of the front descriptor are written, and its first word is next (R140, R149). -/
theorem Stream.sendStatusDone_front {st : Stream} {r : TxDone} {rest : List TxDone}
    (h : st.writeBack = r :: rest) : st.sendStatusDone = ({ st with
      writeBack := { r with statusDone := true } :: rest, cueMissMark := false },
      [(st.descriptor r.desc.index + 8, r.stamp.setWidth 32),
        (st.descriptor r.desc.index + 12, r.statusWord st.cueMissMark)]) := by
  rw [Stream.sendStatusDone, h, ← show place 0 r.stamp = r.stamp.setWidth 32 from BitVec.shiftLeft_zero _]

/-- The first word of the front descriptor is written: it is handed back (R149). -/
theorem Stream.sendHandBackDone_front {st : Stream} {r : TxDone} {rest : List TxDone}
    (h : st.writeBack = r :: rest) : st.sendHandBackDone = ({ st with
      writeBack := rest, event := st.event || r.desc.notify },
      [(st.descriptor r.desc.index, r.firstWord)]) := by
  rw [Stream.sendHandBackDone, h]
  rfl

/-- Settles O44. -/
theorem sendHandBackInTwoWrites : Obligations.SendHandBackInTwoWrites := by
  intro s n st op r rest h hs hq
  refine ⟨fun hk => ?_, fun hk => ?_⟩
  · have hexec : exec .sendStatusWrite s = .next (s.endWrite st.isSend sendStatusEnd).pump := by
      rw [hs]
      rfl
    obtain ⟨honly, hst, hwrite⟩ := State.endWrite_leaves (f := sendStatusEnd) h (by rw [hk]; rfl)
    rw [Stream.sendStatusDone_front (st := st.ended) hq] at hst hwrite
    obtain ⟨hsent, htruncated, hdiscarded, hmiss, hempty, hfault⟩ := r.statusWord_reads st.cueMissMark
    refine ⟨_, _, hexec, honly, hst, hwrite, hsent, htruncated, hdiscarded, hmiss, hempty, hfault, ?_, ?_,
      fun hdead => ?_⟩
    · rw [Stream.issue_eq]
    · rw [Stream.issue_eq]
    · exact congrArg Stream.op (Stream.issue_handBack_of_send (st := { st.ended with
        writeBack := { r with statusDone := true } :: rest, cueMissMark := false }) rfl hdead hs rfl)
  · have hexec : exec .sendHandBack s = .next (s.endWrite st.isSend sendHandBackEnd).pump := by
      rw [hs]
      rfl
    obtain ⟨honly, hst, hwrite⟩ := State.endWrite_leaves (f := sendHandBackEnd) h (by rw [hk]; rfl)
    rw [Stream.sendHandBackDone_front (st := st.ended) hq] at hst hwrite
    obtain ⟨howner, hwrap, hcount⟩ := r.firstWord_reads
    refine ⟨_, _, hexec, honly, hst, hwrite, howner, hwrap, hcount, ?_⟩
    rw [Stream.issue_eq]
    exact ⟨rfl, rfl, rfl⟩

end Sys2Proof.Machine
end

section
/-! PROOFS. Every step leaves each engine with nothing more to issue (R142, R143, R157, R167). -/

namespace Sys2Proof.Machine

open Sys2Proof

/-! ### Every step leaves all issued (R142, R157) -/

section
variable {s t : State}

theorem enginesIssued_of_streams (h : EnginesIssued s) (streams : t.streams = s.streams) :
    EnginesIssued t := by rwa [EnginesIssued, streams]

/-- A state with no stream defined has nothing to issue. -/
theorem enginesIssued_of_none (h : t.streams = Vector.replicate 16 none) : EnginesIssued t :=
  fun n st hn => by simp [h] at hn

/-- A stream's event is nothing to its engine (R143, R167). -/
theorem Stream.issue_event (st : Stream) (b : Bool) :
    ({ st with event := b } : Stream).issue = { st.issue with event := b } := by
  have hnext : ({ st with event := b } : Stream).nextOp = st.nextOp := rfl
  unfold Stream.issue
  rw [hnext]
  dsimp only
  split
  · rfl
  · split <;> rfl

theorem enginesIssued_clearStreamEvents (h : EnginesIssued s) (v : Word) :
    EnginesIssued (s.clearStreamEvents v) :=
  EveryStream.mapStreams (P := fun st => st.issue = st) (Q := fun st => st.issue = st) h
    fun _ st hst => by rw [Stream.issue_event, hst]

/-- Outside MEMBER no command changes a stream (R188, R189). -/
theorem State.takeCommand_streams_of_not_member (hm : s.membership ≠ .member) :
    s.takeCommand.streams = s.streams := by
  unfold State.takeCommand State.takeThis
  split
  · rfl
  · rename_i c _
    dsimp only
    split
    · rename_i hdone
      obtain ⟨code, stream⟩ := c
      cases code with
      | openStream => simp [State.judgeCommand, State.judgeOpen, hm] at hdone
      | closeStream => simp [State.judgeCommand, State.judgeClose, hm] at hdone
      | setStanding => rfl
    · rfl

/-- A command that is taken at its write is taken outside MEMBER (R187). -/
theorem enginesIssued_writeCommand (h : EnginesIssued s) (code stream : BitVec 4) :
    EnginesIssued (s.writeCommand code stream) := by
  unfold State.writeCommand
  split
  · rename_i c _ _
    dsimp only
    split
    · rename_i hw
      refine enginesIssued_of_streams h (State.takeCommand_streams_of_not_member fun hm => ?_)
      rw [show s.membership = .member from hm] at hw
      cases hw
    · exact enginesIssued_of_streams h rfl
  · exact enginesIssued_of_streams h rfl

theorem enginesIssued_enterRefused (reason : RefusalReason) (s : State) :
    EnginesIssued (s.enterRefused reason) := by
  refine enginesIssued_of_none (State.takeCommand_streams_of_not_member ?_)
  nofun

/-- A LEAVE in MEMBER after which the station is not LEAVING has ended in OFFLINE (R101). -/
theorem enginesIssued_leaveMember (hl : s.leaveMember.membership ≠ .leaving) :
    EnginesIssued s.leaveMember := by
  unfold State.leaveMember State.checkLeft at *
  split
  · exact enginesIssued_of_none rfl
  · rename_i hstays
    rw [if_neg hstays] at hl
    simp at hl

theorem enginesIssued_requestStart (h : EnginesIssued s) : EnginesIssued s.requestStart := by
  unfold State.requestStart
  split
  · exact enginesIssued_of_none rfl
  · exact enginesIssued_of_none rfl
  · exact h

/-- A LEAVE that leaves a MEMBER in LEAVING is the one after which the engines have still to act (R101, R149,
R167). -/
theorem enginesIssued_requestLeave (h : EnginesIssued s)
    (hl : ¬ (s.membership = .member ∧ s.requestLeave.membership = .leaving)) :
    EnginesIssued s.requestLeave := by
  by_cases hm : s.membership = .member
  · have hleave : s.requestLeave = s.leaveMember := by simp only [State.requestLeave, hm]
    rw [hleave] at hl ⊢
    exact enginesIssued_leaveMember fun hstays => hl ⟨hm, hstays⟩
  · unfold State.requestLeave
    split
    · exact enginesIssued_of_none rfl
    · exact enginesIssued_of_none rfl
    · exact enginesIssued_of_none rfl
    · exact absurd (by assumption) hm
    · exact h

theorem enginesIssued_writeControl (h : EnginesIssued s) (startBit leaveBit resetBit : Bool)
    (hl : ¬ (s.membership = .member ∧ (s.writeControl startBit leaveBit resetBit).membership = .leaving)) :
    EnginesIssued (s.writeControl startBit leaveBit resetBit) := by
  unfold State.writeControl at *
  split
  · exact enginesIssued_of_none rfl
  · rename_i hr
    rw [if_neg hr] at hl
    split
    · exact enginesIssued_requestStart h
    · rename_i hs
      rw [if_neg hs] at hl
      split
      · rename_i hleave
        rw [if_pos hleave] at hl
        exact enginesIssued_requestLeave h hl
      · exact h

theorem enginesIssued_writeStationControl (h : EnginesIssued s) (v : Word) :
    EnginesIssued (s.writeStationControl v) := by
  unfold State.writeStationControl
  dsimp only
  split
  · exact State.pump_enginesIssued _
  · rename_i hl
    exact enginesIssued_writeControl h _ _ _ hl

theorem enginesIssued_hostWriteAt (h : EnginesIssued s) (offset bytes : Nat) (v : Word) :
    EnginesIssued (s.hostWriteAt offset bytes v) := by
  unfold State.hostWriteAt State.writeRegister
  split
  · exact h
  · repeat' split
    · exact enginesIssued_writeStationControl h v
    · unfold State.writeProfileAddress
      split <;> exact h
    · exact enginesIssued_writeCommand h _ _
    · exact h
    · exact h
    · exact h
    · exact enginesIssued_clearStreamEvents h v
    · exact h
    · exact h

/-- A stream that has just been defined is CLOSED, with empty queues, so that its engine has nothing to issue
(R120, R121). -/
theorem Stream.issue_fresh (d : StreamDef) : (Stream.fresh d).issue = Stream.fresh d := by
  refine Stream.issue_of_closed rfl rfl ?_ (fun _ => rfl) fun _ => rfl
  unfold Stream.isOpen
  split <;> rfl

theorem enginesIssued_profileRead (h : EnginesIssued s) (words : List Word) :
    EnginesIssued (s.profileRead words) := by
  unfold State.profileRead State.checkFetch
  split
  · dsimp only
    split
    · exact h
    · split
      · exact enginesIssued_enterRefused _ _
      · split
        · exact h
        · split
          · intro n st hn
            rw [State.loadComplete, profileStreams_get] at hn
            split at hn
            · cases hn
              exact Stream.issue_fresh _
            · cases hn
          · exact enginesIssued_enterRefused _ _
  · exact h

/-- Every command leaves each engine with nothing more to issue: the arrivals and the ends of transactions end
with the engines' turn, and the others give no engine anything (R142, R157). -/
theorem enginesIssued_exec (h : EnginesIssued s) {c : Instr} (ht : exec c s = .next t) :
    EnginesIssued t := by
  have guarded : ∀ (p : Prop) [Decidable p] (u : State), EnginesIssued (if p then u.pump else s) :=
    fun p _ u => by
      split
      · exact u.pump_enginesIssued
      · exact h
  cases c with
  | powerOn | rstn => cases ht; exact enginesIssued_of_none rfl
  | rstnRise =>
    cases ht
    split
    · exact enginesIssued_of_none rfl
    · exact h
  | start | leave | reset | openCmd | closeCmd | standingCmd | profileAddressWrite | eventsWrite
  | streamEventsWrite | eventEnableWrite | streamEventEnableWrite | registerWrite
  | commandCodeUnknown => cases ht; exact enginesIssued_hostWriteAt h _ _ _
  | entryCapture | cueoutPulseEnd => cases ht; exact h
  | cueEdge =>
    cases ht
    unfold State.cueEdge
    repeat' split
    all_goals exact h
  | quietWaitExpiry =>
    cases ht
    unfold State.quietWaitEnds
    split <;> exact h
  | frameTimerExpiry =>
    cases ht
    unfold State.frameTimerEnds
    split <;> exact h
  | profileReadDone => cases ht; exact enginesIssued_profileRead h _
  | profileFault =>
    cases ht
    unfold State.profileBusError
    split
    · exact enginesIssued_enterRefused _ _
    · exact h
  | bootstrap | winRecordExpiry | damageLimit | readbackCollision | joinAttemptsLimit
  | censusReadbackLimit => cases ht; exact guarded _ _
  | frameStart | headerArrival | damagedHeader | cellArrival | censusCellArrival | sendDescriptorRead
  | sendBufferRead | listenDescriptorRead | sendStatusWrite | sendHandBack | listenWordWrite
  | listenStatusWrite | listenHandBack | sendBusError | listenBusError =>
    cases ht; exact State.pump_enginesIssued _

end

end Sys2Proof.Machine
end

section
/-! PROOFS. A header has the streams that stand at a ring end read it again, and the order of the engines'
operations (R142 to R144, R149, R157, R158, R167). -/

namespace Sys2Proof.Machine

open Sys2Proof

/-! ### The walk of a stream at a header (R144, R158) -/

/-- Where the walk of a stream stands: at a ring end or not, asked to read it again or not, and the operation
that is outstanding. -/
def Stream.walk (st : Stream) : Bool × Bool × Option BusOp := (st.ringEnd, st.poll, st.op)

/-- A stream that is open was open before, and its walk stands as it stood. -/
def WalkKept (st st' : Stream) : Prop := st'.isOpen = true → st.isOpen = true ∧ st'.walk = st.walk

theorem WalkKept.refl (st : Stream) : WalkKept st st := fun h => ⟨h, rfl⟩

theorem WalkKept.trans {a b c : Stream} (h : WalkKept a b) (h' : WalkKept b c) : WalkKept a c :=
  fun hc => ⟨(h (h' hc).1).1, (h' hc).2.trans (h (h' hc).1).2⟩

/-- An operation that keeps the walk and leaves a stream alone that is not open. -/
theorem WalkKept.of_open {st st' : Stream} (closed : st.isOpen = false → st' = st)
    (walk : st'.walk = st.walk) : WalkKept st st' := fun h => by
  refine ⟨?_, walk⟩
  by_contra ho
  rw [Bool.not_eq_true] at ho
  rw [closed ho, ho] at h
  cases h

/-- A closure leaves no stream open (R131, R136). -/
theorem WalkKept.close (reason : CloseReason) (part : Bool) (st : Stream) :
    WalkKept st (st.close reason part) := fun h => by
  rw [Stream.close_isOpen] at h
  cases h

theorem Stream.standing_walk (k : Station) (slots : Vector Slot 24) (st : Stream) :
    (st.standing k slots).walk = st.walk := by
  unfold Stream.standing
  repeat' split
  all_goals rfl

theorem Stream.report_walk (k : Station) (old new : Vector Slot 24) (st : Stream) :
    (st.report k old new).walk = st.walk := by
  unfold Stream.report Stream.listenRule
  dsimp only
  split
  · split
    · rfl
    · exact st.standing_walk k new
  · repeat' split
    all_goals rfl

theorem WalkKept.report (k : Station) (old new : Vector Slot 24) (st : Stream) :
    WalkKept st (st.report k old new) :=
  .of_open (fun h => Stream.report_of_not_open h k old new) (st.report_walk k old new)

theorem Stream.releaseHead_walk (st : Stream) : st.releaseHead.walk = st.walk := by
  unfold Stream.releaseHead
  split <;> rfl

theorem Stream.consumeLatch_walk (st : Stream) : st.consumeLatch.walk = st.walk := by
  unfold Stream.consumeLatch
  split
  · split
    · exact st.releaseHead_walk
    · rfl
  · rfl

theorem Stream.cueEvent_walk (k : Station) (slots : Vector Slot 24) (st : Stream) :
    (st.cueEvent k slots).walk = st.walk := by
  have hawait : ∀ b, (st.setAwaiting b k slots).walk = st.walk := fun b =>
    Stream.standing_walk k slots { st with awaiting := b }
  unfold Stream.cueEvent
  split
  · split
    · exact hawait false
    · rfl
  · split
    · split
      · exact hawait true
      · rfl
    · split
      · split
        · exact st.releaseHead_walk
        · rfl
      · rfl

theorem WalkKept.heedCue (bits : BitVec 4) (skip : Bool) (k : Station) (slots : Vector Slot 24)
    (st : Stream) : WalkKept st (st.heedCue bits skip k slots) := by
  refine .of_open (fun h => Stream.heedCue_of_not_open h bits skip k slots) ?_
  unfold Stream.heedCue
  dsimp only
  split
  · exact (st.consumeLatch.cueEvent_walk k slots).trans st.consumeLatch_walk
  · exact st.consumeLatch_walk

theorem WalkKept.noteStall (k : Station) (old new : Vector Slot 24) (stall : BitVec 24) (st : Stream) :
    WalkKept st (st.noteStall k old new stall) := by
  unfold Stream.noteStall
  split
  · exact .refl st
  · exact .refl st

/-- A missed cue keeps the walk, and leaves a stream open or not (R180). -/
theorem Stream.missCue_walk (st : Stream) :
    st.missCue.isOpen = st.isOpen ∧ st.missCue.walk = st.walk := by
  refine ⟨Stream.isOpen_of_placing (Stands.missCue st).placing, ?_⟩
  unfold Stream.missCue
  split <;> rfl

theorem WalkKept.finishClosing (part : Bool) (st : Stream) : WalkKept st (st.finishClosing part) := by
  unfold Stream.finishClosing
  split
  · intro h
    simp [Stream.isOpen, StreamState.openSend, StreamState.openListen] at h
  · exact .refl st

/-- What a header leaves of the walk of an open stream: one that stands at a ring end is asked to read it again,
but by a census header (R144, R158). -/
def PolledFrom (census : Bool) (st st' : Stream) : Prop := st'.isOpen = true →
  st'.ringEnd = st.ringEnd ∧ st'.op = st.op ∧ st'.poll = (st.poll || (!census && st.ringEnd))

theorem WalkKept.polled {st st' : Stream} (h : WalkKept st st') : PolledFrom true st st' := fun ho => by
  obtain ⟨-, hwalk⟩ := h ho
  simp only [Stream.walk, Prod.mk.injEq] at hwalk
  obtain ⟨hring, hpoll, hop⟩ := hwalk
  exact ⟨hring, hop, by simpa using hpoll⟩

theorem WalkKept.pollRingEnd {st st' : Stream} (h : WalkKept st st') :
    PolledFrom false st st'.pollRingEnd := fun ho => by
  have hopen : st'.isOpen = true := (Stream.isOpen_of_placing (Stands.pollRingEnd st').placing) ▸ ho
  obtain ⟨-, hwalk⟩ := h hopen
  simp only [Stream.walk, Prod.mk.injEq] at hwalk
  obtain ⟨hring, hpoll, hop⟩ := hwalk
  unfold Stream.pollRingEnd
  cases hr : st.ringEnd <;> simp [hopen, hring, hpoll, hop, hr]

/-! ### A header at one stream -/

section
variable {n : Fin 16} {st : Stream} {s : State}

/-- A command closes an open stream or leaves it: an OPEN of it is refused (R188, R189). -/
theorem State.takeCommand_of_open (hn : s.streams[n] = some st) (ho : st.isOpen = true) :
    s.takeCommand.streams[n] = some st
      ∨ ∃ part, s.takeCommand.streams[n] = some (st.close .host part) := by
  by_cases hcloses : s.closesPending n = true
  · obtain ⟨⟨code, stream⟩, hc, rfl, rfl, hdone⟩ := (s.closesPending_iff n).1 hcloses
    obtain ⟨hm, -⟩ := (s.judgeClose_done_iff _).1 hdone
    refine .inr ⟨s.streamHasPart stream.toFin st, ?_⟩
    rw [State.takeCommand_close hm hc hn (Stream.state_ne_closed ho)]
    refine (State.closeOne_stream s .host stream.toFin stream.toFin).trans ?_
    rw [if_pos rfl, hn]
    rfl
  · refine .inl ((State.takeCommand_stream ?_).trans hn)
    rintro ⟨code, stream⟩ hc hcode rfl hdone
    cases code with
    | openStream =>
      obtain ⟨y, hy, hclosed⟩ := State.judgeOpen_done hdone
      rw [hn] at hy
      cases hy
      exact Stream.state_ne_closed ho hclosed
    | closeStream => exact hcloses ((s.closesPending_iff _).2 ⟨_, hc, rfl, rfl, hdone⟩)
    | setStanding => exact hcode rfl

/-- The command of a header keeps the walk of a stream that was open (R187 to R189). -/
theorem StreamAt.commandAndCell_walk (h : StreamAt n (fun x => x.isOpen = true ∧ WalkKept st x) s)
    (f : Frame) : StreamAt n (WalkKept st) (s.commandAndCell f) := by
  refine StreamAt.congr (s := s.takeCommand) ?_ (s.commandAndCell_takes f).1
  obtain ⟨x, hx, ho, hkept⟩ := h
  rcases State.takeCommand_of_open hx ho with hsame | ⟨part, hclosed⟩
  · exact ⟨x, hsame, hkept⟩
  · exact ⟨_, hclosed, hkept.trans (.close .host part x)⟩

/-- The map's report keeps the walk of an open stream (R34). -/
theorem StreamAt.mapReport_walk (hn : s.streams[n] = some st) (ho : st.isOpen = true)
    (closes : Fin 16 → Bool) (old : Vector Slot 24) :
    StreamAt n (fun x => x.isOpen = true ∧ WalkKept st x) (s.mapReport closes old).refreshIntent := by
  refine (StreamAt.mapReport s closes old hn rfl).imp fun x hx => ?_
  rw [hx]
  split
  · exact ⟨ho, .refl st⟩
  · exact ⟨Stream.report_isOpen ho, .report _ _ _ st⟩

theorem StreamAt.heedCues_walk (h : StreamAt n (WalkKept st) s) (bits : BitVec 4)
    (skip : Option (Fin 16)) : StreamAt n (WalkKept st) (s.heedCues bits skip) := by
  unfold State.heedCues
  split
  · refine StreamAt.congr (StreamAt.mapStreams (h.congr rfl) fun x hx => ?_) (State.cleanQueue_streams _)
    exact hx.trans (.heedCue _ _ _ _ x)
  · exact h

theorem StreamAt.chooseAll_walk (h : StreamAt n (WalkKept st) s) (old : Vector Slot 24)
    (stall : BitVec 24) (f : Frame) : StreamAt n (WalkKept st) (s.chooseAll old stall f) := by
  refine StreamAt.mapStreams h fun x hx => ?_
  have hnoted : WalkKept st (if f.census then x else x.noteStall s.number old s.slots stall) := by
    split
    · exact hx
    · exact hx.trans (.noteStall _ _ _ _ x)
  dsimp only
  split <;> exact hnoted

theorem StreamAt.chooseUnheard_walk (h : StreamAt n (WalkKept st) s) (f : Frame) :
    StreamAt n (WalkKept st) (s.chooseUnheard f) :=
  StreamAt.mapStreams h fun x hx => by split <;> exact hx

theorem StreamAt.chooseAtHeader_walk (h : StreamAt n (WalkKept st) s) (f : Frame) :
    StreamAt n (WalkKept st) (s.chooseAtHeader f) := by
  have hclose : ∀ (u : State) (m : Fin 16), StreamAt n (WalkKept st) u →
      StreamAt n (WalkKept st) (u.closeOne .labelClash m) := fun u m ⟨x, hx, hkept⟩ => by
    rw [StreamAt, State.closeOne_stream]
    split
    · rename_i hm
      rw [← hm, hx]
      exact ⟨_, rfl, hkept.trans (.close _ _ x)⟩
    · exact ⟨x, hx, hkept⟩
  unfold State.chooseAtHeader
  split
  · exact State.chooseBid_keeps (StreamAt n (WalkKept st)) hclose (fun _ _ hu => hu.congr rfl) s h
  · exact h.congr rfl

theorem StreamAt.oweVeto_walk (h : StreamAt n (fun x => x.isOpen = true ∧ WalkKept st x) s) :
    StreamAt n (fun x => x.isOpen = true ∧ WalkKept st x) s.oweVeto := by
  unfold State.oweVeto
  split
  · refine StreamAt.mapStreams (h.congr rfl) fun x ⟨ho, hx⟩ => ?_
    obtain ⟨hopen, hwalk⟩ := x.missCue_walk
    exact ⟨hopen.trans ho, hx.trans fun _ => ⟨ho, hwalk⟩⟩
  · exact h

/-- The end of a header asks the open streams at a ring end to read it again, but in a census frame
(R144, R158). -/
theorem StreamAt.headerEnd_walk (h : StreamAt n (WalkKept st) s) (f : Frame) :
    StreamAt n (PolledFrom f.census st) (s.headerEnd f) := by
  have hclosed : StreamAt n (WalkKept st) ({ s with bidDriven := none } : State).finishClosing :=
    StreamAt.mapStreams (h.congr rfl) fun x hx => hx.trans (.finishClosing _ x)
  unfold State.headerEnd
  cases hc : f.census with
  | true => exact hclosed.imp fun _ hx => hx.polled
  | false => exact hclosed.mapStreams fun _ hx => hx.pollRingEnd

theorem State.judgeHeader_walk (hn : s.streams[n] = some st) (ho : st.isOpen = true) (bits : HeaderBits)
    (f : Frame) (hm : (s.judgeHeader bits f).membership ≠ .offline) :
    StreamAt n (PolledFrom f.census st) (s.judgeHeader bits f) := by
  rw [State.judgeHeader_eq] at hm ⊢
  rw [State.checkLeft_of_membership hm]
  have hmapped : StreamAt n (fun x => x.isOpen = true ∧ WalkKept st x)
      ((s.countWin (arbitrationRead bits)).mapHeader (headerFields f bits)) :=
    StreamAt.mapReport_walk (by simpa [State.handleHeader, State.countWin] using hn) ho _ _
  exact (((hmapped.commandAndCell_walk f).heedCues_walk _ _).chooseAll_walk _ _ f).chooseAtHeader_walk f
    |>.headerEnd_walk f

theorem State.missHeader_walk (hn : s.streams[n] = some st) (ho : st.isOpen = true) (arb : List Halves)
    (f : Frame) (hm : (s.missHeader arb f).membership ≠ .offline) :
    StreamAt n (PolledFrom f.census st) (s.missHeader arb f) := by
  rw [State.missHeader_eq] at hm ⊢
  rw [State.checkLeft_of_membership hm]
  have hmapped : StreamAt n (fun x => x.isOpen = true ∧ WalkKept st x) (s.missMap arb) :=
    StreamAt.mapReport_walk (by simpa [State.countWin] using hn) ho _ _
  exact ((hmapped.oweVeto_walk.commandAndCell_walk f).chooseUnheard_walk f).headerEnd_walk f

theorem State.damagedHeader_walk (hj : s.membership.judges = true) (hn : s.streams[n] = some st)
    (ho : st.isOpen = true) (arb : List Halves) (f : Frame)
    (hm : (s.damagedHeader arb f).membership = s.membership) :
    StreamAt n (PolledFrom f.census st) (s.damagedHeader arb f) := by
  have hmaps : (s.damagedHeader arb f).membership.maps = true := by
    rw [hm]
    exact Membership.maps_of_judges hj
  obtain ⟨c, hc⟩ := State.damagedHeader_of_maps hj arb f hmaps
  rw [hc] at hmaps ⊢
  refine State.missHeader_walk (s := { s.setHeader .damaged with damageCount := c }) hn ho arb f
    fun hoff => ?_
  rw [hoff] at hmaps
  cases hmaps

/-- A header that leaves the membership as it is has the streams that stay open at a ring end read it again, but
a census header (R144, R158). -/
theorem State.takeHeader_walk (header : HeaderRx) {f : Frame} (hj : s.membership.judges = true)
    (hf : s.frame = some f) (hh : f.header = .due) (hn : s.streams[n] = some st) (ho : st.isOpen = true)
    (hm : (s.takeHeader header).membership = s.membership) :
    StreamAt n (PolledFrom f.census st) (s.takeHeader header) := by
  have hdamaged : ∀ arb, s.takeHeader (.damaged arb) = s.damagedHeader arb f := fun arb => by
    simp only [State.takeHeader,
      State.headerDue_eq (Membership.receives_of_maps (Membership.maps_of_judges hj)) hf hh]
  cases header with
  | damaged arb =>
    rw [hdamaged] at hm ⊢
    exact State.damagedHeader_walk hj hn ho arb f hm
  | intact bits =>
    cases hu : f.unexpected with
    | true =>
      rw [State.takeHeader_unexpected hf hu, hdamaged] at hm ⊢
      exact State.damagedHeader_walk hj hn ho [] f hm
    | false =>
      rw [State.takeHeader_intact hj hf hh hu] at hm ⊢
      refine State.judgeHeader_walk (s := s.setHeader _) hn ho bits f fun hoff => ?_
      rw [hoff] at hm
      rw [← hm] at hj
      cases hj

end

/-! ### The poll (R144, R158) -/

theorem Stream.firstWordOp_some {st : Stream} {busy : Bool} {op : BusOp} (h : st.firstWordOp busy = some op) :
    st.ringEnd = false ∨ st.poll = true := by
  unfold Stream.firstWordOp at h
  split at h
  · cases h
  · rename_i hgoes
    simp only [Bool.or_eq_true, Bool.and_eq_true, Bool.not_eq_true', not_or, not_and,
      Bool.not_eq_false, Bool.not_eq_true] at hgoes
    cases hr : st.ringEnd with
    | false => exact .inl rfl
    | true => exact .inr (hgoes.2 hr)

/-- A hand-back is two writes, neither of them the read of a first word. -/
theorem handBackOp_kind {a b : Word} {done : Bool} {op : BusOp}
    (h : some (if done then ⟨.handBack, a, false⟩ else ⟨.statusWrite, b, false⟩) = some op) :
    op.kind ≠ .firstWord := by
  cases h
  split <;> nofun

/-- A first word is read at a ring end only where a poll asks for it (R144, R158). -/
theorem Stream.nextOp_of_firstWord {st : Stream} {op : BusOp} (h : st.nextOp = some op)
    (hk : op.kind = .firstWord) : st.ringEnd = false ∨ st.poll = true := by
  unfold Stream.nextOp Stream.nextSendOp Stream.nextListenOp at h
  split at h
  · split at h
    · exact absurd hk (handBackOp_kind h)
    · split at h
      · cases h
      · split at h
        · dsimp only at h
          split at h
          · cases h
          · cases h; cases hk
        · split at h
          · cases h; cases hk
          · exact Stream.firstWordOp_some h
  · split at h
    · cases h; cases hk
    · exact absurd hk (handBackOp_kind h)
    · split at h
      · cases h
      · split at h
        · cases h; cases hk
        · exact Stream.firstWordOp_some h

/-- A poll stands until the engine reads the first word that it asks for (R144, R158). -/
theorem Stream.issue_of_poll {st : Stream} (h : st.poll = true) :
    st.issue.poll = true ∨ ∃ op, st.issue.op = some op ∧ op.kind = .firstWord := by
  unfold Stream.issue
  split
  · exact .inl h
  · split
    · exact .inl h
    · rename_i op _
      by_cases hk : op.kind = .firstWord
      · exact .inr ⟨op, rfl, hk⟩
      · exact .inl ((if_neg hk).trans h)

/-- Without a poll the engine reads no first word at a ring end (R144, R158). -/
theorem Stream.issue_of_no_poll {st : Stream} (h : st.poll = false) : st.issue.poll = false
    ∧ (st.ringEnd = true → st.op = none → ∀ op, st.issue.op = some op → op.kind ≠ .firstWord) := by
  unfold Stream.issue
  split
  · exact ⟨h, fun _ hop op ho => by rw [hop] at ho; cases ho⟩
  · split
    · exact ⟨h, fun _ hop op ho => by rw [hop] at ho; cases ho⟩
    · rename_i op hnext
      refine ⟨by dsimp only; rw [h, ite_self], fun hr _ op' ho hk => ?_⟩
      cases ho
      rcases Stream.nextOp_of_firstWord hnext hk with hr' | hp
      · rw [hr] at hr'
        cases hr'
      · rw [h] at hp
        cases hp

/-- What the engines then make of a stream that a header has left open (R144, R158). -/
theorem PolledFrom.issue {census : Bool} {st x : Stream} (h : PolledFrom census st x)
    (ho : x.issue.isOpen = true) : x.issue.ringEnd = st.ringEnd
      ∧ (census = false → st.ringEnd = true →
          x.issue.poll = true ∨ ∃ op, x.issue.op = some op ∧ op.kind = .firstWord)
      ∧ (census = true → st.poll = false → x.issue.poll = false
        ∧ (st.ringEnd = true → st.op = none → ∀ op, x.issue.op = some op → op.kind ≠ .firstWord)) := by
  obtain ⟨hring, hop, hpoll⟩ := h (Stream.isOpen_of_placing (Stands.issue x).placing ▸ ho)
  refine ⟨?_, fun hc hr => ?_, fun hc hp => ?_⟩
  · rw [Stream.issue_eq]
    exact hring
  · exact Stream.issue_of_poll (by simp [hpoll, hc, hr])
  · rw [← hring, ← hop]
    exact Stream.issue_of_no_poll (by simp [hpoll, hc, hp])

/-- Settles O50. -/
theorem enginesIssueInOrder : Obligations.EnginesIssueInOrder := by
  refine ⟨fun st h => h.elim Stream.issue_of_busy Stream.issue_of_dead, fun st hop hdead => ?_,
    keeps_of_exec EnginesIssued (fun _ _ h => h) fun _ _ _ h ht => enginesIssued_exec h ht,
    fun header s f hj hf hh => ?_⟩
  · intro base
    have hbase : base = st.descriptor := funext fun i => (st.descriptor_eq i).symm
    clear_value base
    subst hbase
    refine ⟨fun hs => ⟨fun r rest => Stream.issue_handBack_of_send hop hdead hs, fun hq ho => ?_,
      fun hq ho => ⟨fun d => Stream.issue_bufferRead hop hdead hs hq ho, fun hf => ?_⟩⟩,
      fun hs => ⟨fun i a x rest hq => ?_, fun r rest => Stream.issue_handBack_of_listen hop hdead hs,
        fun hq => ⟨fun hidle => ?_, fun ho hroom => ?_⟩⟩⟩
    · exact Stream.issue_of_closed hop hdead ho (fun _ => hq) fun h => by rw [hs] at h; cases h
    · have hnext := Stream.nextOp_of_fetched hs hq ho hf
      exact ⟨fun w => Stream.issue_secondWord hop hdead hnext, fun hr =>
        Stream.issue_firstWord hop hdead hnext hr (and_congr_left' (Stream.fetchHeld_eq_false_iff hq).symm)⟩
    · obtain ⟨hstands, hends⟩ := writeRun_stands i a st.writeQueue
      obtain ⟨hpos, hissue⟩ := Stream.issue_wordWrite hop hdead hs hq
      exact ⟨_, hpos, hissue, hstands, hends⟩
    · rcases hidle with ho | ⟨hc, hn⟩
      · exact Stream.issue_of_closed hop hdead ho (fun h => by rw [hs] at h; cases h) fun _ => hq
      · exact Stream.issue_of_two hop hdead hs hq hc hn
    · have hnext := Stream.nextOp_of_room hs hq ho hroom
      exact ⟨fun w => Stream.issue_secondWord hop hdead hnext, fun hr =>
        Stream.issue_firstWord hop hdead hnext hr (by rw [Stream.fetchInHand_eq_false_iff hq, and_assoc])⟩
  · refine ⟨_, exec_header header s, State.pump_enginesIssued _, fun hm n st st' hn ht ho ho' => ?_⟩
    rw [State.pump_membership] at hm
    obtain ⟨x, hx, hpolled⟩ := State.takeHeader_walk header hj hf hh hn ho hm
    rw [State.pump_get, hx] at ht
    cases ht
    exact hpolled.issue ho'

end Sys2Proof.Machine
end

section
/-! PROOFS. The ends of a listen stream's transactions: descriptor reads, word writes and the two writes of a
hand-back (R156 to R158, R167, R197). -/

namespace Sys2Proof.Machine

open Sys2Proof

/-! ### A receive descriptor's read (R157, R158) -/

section
variable {st : Stream} {w : Word}

/-- A first word read as HOST is a ring end (R158). -/
theorem Stream.listenFirstRead_of_host (h : w.getLsbD 31 = false) : st.listenFirstRead w
    = { st with ringEnd := true, starved := st.current.isNone } := by
  have howner : ownerPart w = false := h
  simp only [Stream.listenFirstRead, howner, Bool.not_false, if_true, Stream.checkListenStarved]
  cases hc : st.current <;> simp

/-- A first word read as PART with room asks for the second word (R157). -/
theorem Stream.listenFirstRead_of_room (h : w.getLsbD 31 = true) (hc : w.extractLsb' 0 12 ≠ 0) :
    st.listenFirstRead w = { st with ringEnd := false, poll := false, reading := some w } := by
  have howner : ownerPart w = true := h
  have hcount : wordCount w ≠ 0 := fun h0 => hc (BitVec.eq_of_toNat_eq h0)
  simp only [Stream.listenFirstRead, howner, Bool.not_true, Bool.false_eq_true, if_false, if_neg hcount]

/-- A zero-capacity descriptor joins the write queue for its hand-back as it is read (R157). -/
theorem Stream.listenFirstRead_of_empty (h : w.getLsbD 31 = true) (hc : w.extractLsb' 0 12 = 0) :
    st.listenFirstRead w = { st with
      ringEnd := false, poll := false
      writeQueue := st.writeQueue ++ [WriteItem.done (RxDesc.ofWords st.fetchPos w 0).finish]
      fetchPos := nextIndex st.fetchPos (w.getLsbD 30)
      ringIndex := if st.current.isSome then st.ringIndex else nextIndex st.fetchPos (w.getLsbD 30) } := by
  have howner : ownerPart w = true := h
  have hcount : wordCount w = 0 := congrArg BitVec.toNat hc
  simp only [Stream.listenFirstRead, howner, Bool.not_true, Bool.false_eq_true, if_false, hcount, if_true]
  rfl

/-- The second word takes the descriptor as current where none is (R157). -/
theorem Stream.listenSecondRead_as_current {w0 : Word} (hr : st.reading = some w0)
    (hc : st.current = none) : st.listenSecondRead w = { st with
      reading := none, fetchPos := nextIndex st.fetchPos (w0.getLsbD 30), ringIndex := st.fetchPos
      current := some (RxDesc.ofWords st.fetchPos w0 w), starved := false } := by
  simp only [Stream.listenSecondRead, hr, hc]
  rfl

/-- Beside a current descriptor the second word takes the descriptor as next (R157). -/
theorem Stream.listenSecondRead_as_next {w0 : Word} (hr : st.reading = some w0)
    (hc : st.current.isSome = true) : st.listenSecondRead w = { st with
      reading := none, fetchPos := nextIndex st.fetchPos (w0.getLsbD 30)
      next := some (RxDesc.ofWords st.fetchPos w0 w) } := by
  obtain ⟨d, hd⟩ := Option.isSome_iff_exists.1 hc
  simp only [Stream.listenSecondRead, hr, hd]
  rfl

end

/-- Settles O46. -/
theorem listenDescriptorReadActs : Obligations.ListenDescriptorReadActs := by
  intro w s n st op h hs hd
  have hexec : exec (.listenDescriptorRead w) s
      = .next (s.endRead st.isSend (listenDescriptorEnd w)).pump := by rw [hs]; rfl
  refine ⟨fun hk => ?_, fun ⟨index, first, hk⟩ w0 hr => ?_⟩
  · obtain ⟨honly, hwrite, next, poll, hst⟩ :=
      State.endRead_leaves (f := listenDescriptorEnd w) h (by rw [hk]; rfl) hd
    refine ⟨_, _, hexec, honly, hwrite, hst, fun hw => ?_, fun hw hc => ?_, fun hw hc => ?_⟩
    · rw [Stream.listenFirstRead_of_host hw]
      exact ⟨rfl, rfl, rfl, rfl⟩
    · rw [Stream.listenFirstRead_of_room hw hc]
      exact ⟨rfl, rfl, rfl⟩
    · rw [Stream.listenFirstRead_of_empty hw hc]
      exact ⟨rfl, rfl, rfl, _, rfl, rfl, rfl⟩
  · obtain ⟨honly, hwrite, next, poll, hst⟩ :=
      State.endRead_leaves (f := listenDescriptorEnd w) h (by rw [hk]; rfl) hd
    have hread : st.ended.reading = some w0 := hr
    have hcases : st.current = none ∨ st.current.isSome = true := by cases st.current <;> simp
    refine ⟨_, _, hexec, honly, hwrite, hst, ?_⟩
    rcases hcases with hc | hc
    · rw [Stream.listenSecondRead_as_current hread hc]
      exact ⟨rfl, rfl, fun _ => ⟨rfl, rfl, rfl⟩, fun hsome => by rw [hc] at hsome; cases hsome⟩
    · rw [Stream.listenSecondRead_as_next hread hc]
      exact ⟨rfl, rfl, fun hnone => (by rw [hnone] at hc; cases hc), fun _ => ⟨rfl, rfl⟩⟩

/-! ### The writes (R156, R167, R197) -/

/-- A write of `n` placed words puts those words at their addresses (R167). -/
theorem mem_writtenWords {n : Nat} {q : List WriteItem} {a x : Word} :
    (a, x) ∈ writtenWords n q ↔ ∃ i, WriteItem.word i a x ∈ q.take n := by
  simp only [writtenWords, List.mem_filterMap]
  constructor
  · rintro ⟨item, hmem, hitem⟩
    cases item with
    | word i b y =>
      cases hitem
      exact ⟨i, hmem⟩
    | done r => cases hitem
  · rintro ⟨i, hmem⟩
    exact ⟨_, hmem, rfl⟩

/-- The third word of a receive descriptor at hand-back, field by field (R156, R197). -/
theorem RxDone.thirdWord_fields (r : RxDone) (now : Stamp) : r.thirdWord now
    = if r.desc.count = 0 then now.setWidth 32
      else (0#3 ++ r.desc.source ++ r.desc.stamp : BitVec (3 + 5 + 24)) := by
  have hfields : (0#3 ++ r.desc.source ++ r.desc.stamp : BitVec (3 + 5 + 24))
      = place 0 r.desc.stamp ||| place 24 r.desc.source := by
    refine (place_word _).symm.trans ?_
    simp only [place_append, place_zeros, BitVec.zero_or, Nat.zero_add]
    exact BitVec.or_comm _ _
  rw [hfields]
  unfold RxDone.thirdWord
  split
  · exact BitVec.shiftLeft_zero _
  · rfl

/-- Where the owner, WRAP, the count and the flags of a first word stand at hand-back (R156, R197). -/
theorem RxDone.firstWord_reads (r : RxDone) (overrun miss : Bool) :
    (r.firstWord overrun miss).getLsbD 31 = false
    ∧ (r.firstWord overrun miss).getLsbD 30 = r.desc.wrap
    ∧ (r.firstWord overrun miss).extractLsb' 0 12 = BitVec.ofNat 12 r.desc.count
    ∧ (r.firstWord overrun miss).getLsbD 16 = r.desc.blockStart
    ∧ (r.firstWord overrun miss).getLsbD 17 = r.blockEnd
    ∧ (r.firstWord overrun miss).getLsbD 18 = r.desc.gap
    ∧ (r.firstWord overrun miss).getLsbD 19 = r.desc.damage
    ∧ (r.firstWord overrun miss).getLsbD 20 = overrun
    ∧ (r.firstWord overrun miss).getLsbD 21 = r.truncated
    ∧ (r.firstWord overrun miss).getLsbD 22 = r.cueStop
    ∧ (r.firstWord overrun miss).getLsbD 23 = miss
    ∧ (r.firstWord overrun miss).getLsbD 24 = r.busFault := by
  refine ⟨?_, ?_, by rw [r.firstWord_fields]; exact BitVec.extractLsb'_append_eq_right,
    ?_, ?_, ?_, ?_, ?_, ?_, ?_, ?_, ?_⟩
  all_goals
    simp only [RxDone.firstWord, BitVec.getLsbD_or, placeBit_getLsbD, place_getLsbD_above, Nat.reduceLT,
      Nat.reduceLeDiff]
    simp

section
variable {st : Stream} {r : RxDone} {rest : List WriteItem}

/-- The third and fourth words of the front descriptor are written, and its first word is next (R156, R167). -/
theorem Stream.listenStatusDone_front (h : st.writeQueue = .done r :: rest) (now : Stamp) :
    st.listenStatusDone now = ({ st with writeQueue := .done { r with statusDone := true } :: rest },
      [(st.descriptor r.desc.index + 8, r.thirdWord now),
        (st.descriptor r.desc.index + 12, st.defn.label.setWidth 32)]) := by
  rw [Stream.listenStatusDone, h,
    ← show place 0 st.defn.label = st.defn.label.setWidth 32 from BitVec.shiftLeft_zero _]

/-- The first word of the front descriptor is written with the pending marks, which are cleared: it is handed
back (R167). -/
theorem Stream.listenHandBackDone_front (h : st.writeQueue = .done r :: rest) :
    st.listenHandBackDone = ({ st with
      writeQueue := rest, overrunMark := false, cueMissMark := false, event := st.event || r.desc.notify },
      [(st.descriptor r.desc.index, r.firstWord st.overrunMark st.cueMissMark)]) := by
  rw [Stream.listenHandBackDone, h]
  rfl

end

/-- Settles O47. -/
theorem listenWritesAct : Obligations.ListenWritesAct := by
  intro s n st op h hs
  refine ⟨fun k hk => ?_, fun r rest hq => ⟨fun hk => ?_, fun hk => ?_⟩⟩
  · have hexec : exec .listenWordWrite s = .next (s.endWrite st.isSend listenWordsEnd).pump := by
      rw [hs]
      rfl
    obtain ⟨honly, hst, hwrite⟩ := State.endWrite_leaves (f := listenWordsEnd) h (by rw [hk]; rfl)
    refine ⟨_, _, hexec, honly, hst, ?_, ?_, fun a x => ?_⟩
    · rw [Stream.issue_eq]
      rfl
    · rw [Stream.issue_eq]
      rfl
    · rw [hwrite]
      exact mem_writtenWords
  · have hexec : exec .listenStatusWrite s
        = .next (s.endWrite st.isSend (listenStatusEnd s.stamp)).pump := by
      rw [hs]
      rfl
    obtain ⟨honly, hst, hwrite⟩ :=
      State.endWrite_leaves (f := listenStatusEnd s.stamp) h (by rw [hk]; rfl)
    rw [Stream.listenStatusDone_front (st := st.ended) hq] at hst hwrite
    rw [RxDone.thirdWord_fields] at hwrite
    refine ⟨_, _, hexec, honly, hst, hwrite, ?_⟩
    rw [Stream.issue_eq]
  · have hexec : exec .listenHandBack s = .next (s.endWrite st.isSend listenHandBackEnd).pump := by
      rw [hs]
      rfl
    obtain ⟨honly, hst, hwrite⟩ := State.endWrite_leaves (f := listenHandBackEnd) h (by rw [hk]; rfl)
    rw [Stream.listenHandBackDone_front (st := st.ended) hq] at hst hwrite
    obtain ⟨howner, hwrap, hcount, hblockStart, hblockEnd, hgap, hdamage, hoverrun, htruncated, hcueStop,
      hmiss, hfault⟩ := r.firstWord_reads st.overrunMark st.cueMissMark
    refine ⟨_, _, _, hexec, honly, hst, hwrite, howner, hwrap, hcount, hblockStart, hblockEnd, hgap,
      hdamage, hoverrun, htruncated, hcueStop, hmiss, hfault, ?_⟩
    rw [Stream.issue_eq]
    exact ⟨rfl, rfl, rfl, rfl⟩

end Sys2Proof.Machine
end

section
/-! PROOFS. The words that a listener accepts: placed, placed as the last of a descriptor, handed back at a block
mark, or dropped (R159 to R162, R165). -/

namespace Sys2Proof.Machine

open Sys2Proof

/-! ### Placing and handing back (R157, R160) -/

/-- The current descriptor leaves the hand for the write queue, and the next one takes its place (R157). -/
theorem Stream.handBackCurrent_eq (r : RxDone) (st : Stream) : st.handBackCurrent r = { st with
    writeQueue := st.writeQueue ++ [.done r], current := st.next, next := none
    ringIndex := st.next.elim st.fetchPos (·.index), starved := (st.handBackCurrent r).starved } := by
  unfold Stream.handBackCurrent Stream.checkListenStarved
  cases st.next <;> dsimp only [Option.elim] <;> repeat' split
  all_goals rfl

/-- The byte offset of a word in a buffer (R160). -/
theorem place_wordOffset (count : Nat) :
    place 2 (BitVec.ofNat 12 count) = 4 * BitVec.ofNat 32 (count % 4096) := by
  rw [place_eq_mul]
  refine congrArg (4 * ·) (BitVec.eq_of_toNat_eq ?_)
  simp

section
variable {c : Cell} {now : Stamp} {gap : Bool} {d : RxDesc} {st : Stream}

/-- A stream with a word placed in its descriptor `d`, before it is seen whether that fills it (R160). -/
def Stream.withPlaced (c : Cell) (now : Stamp) (gap : Bool) (d : RxDesc) (st : Stream) : Stream :=
  { st with
    current := some (d.place c now gap)
    writeQueue := st.writeQueue
      ++ [.word d.index (d.address + 4 * BitVec.ofNat 32 (d.count % 4096)) c.word] }

theorem Stream.placeWord_eq : st.placeWord c now gap d = if d.capacity ≤ d.count + 1 then
    (st.withPlaced c now gap d).handBackCurrent (d.place c now gap).finish
    else st.withPlaced c now gap d := by
  rw [Stream.withPlaced, ← place_wordOffset]
  rfl

/-- A word is placed while the write queue has room for it (R160, R162). -/
theorem Stream.placeOrDrop_of_room (hc : st.current = some d) (hq : st.queuedWords < 32) :
    st.placeOrDrop c now gap = st.placeWord c now gap d := by
  simp only [Stream.placeOrDrop, hc]
  exact if_neg (not_le.2 hq)

/-- A word is dropped where no descriptor is current or the write queue is full (R162). -/
theorem Stream.placeOrDrop_of_full (h : st.current = none ∨ 32 ≤ st.queuedWords) :
    st.placeOrDrop c now gap = st.dropWord := by
  unfold Stream.placeOrDrop
  split
  · rename_i d hd
    exact if_pos (h.resolve_left (by rw [hd]; nofun))
  · rfl

/-- Placing or dropping a word adds to the write queue alone at its end, and leaves the expectation
(R160, R162). -/
theorem Stream.placeOrDrop_appends : (∃ rest, (st.placeOrDrop c now gap).writeQueue = st.writeQueue ++ rest)
    ∧ (st.placeOrDrop c now gap).expectation = st.expectation := by
  by_cases hfull : st.current = none ∨ 32 ≤ st.queuedWords
  · rw [Stream.placeOrDrop_of_full hfull]
    exact ⟨⟨[], (List.append_nil _).symm⟩, rfl⟩
  · obtain ⟨hcurrent, hroom⟩ := not_or.1 hfull
    obtain ⟨d, hd⟩ := Option.ne_none_iff_exists'.1 hcurrent
    rw [Stream.placeOrDrop_of_room hd (not_le.1 hroom), Stream.placeWord_eq]
    split
    · rw [Stream.handBackCurrent_eq]
      exact ⟨⟨_, List.append_assoc _ _ _⟩, rfl⟩
    · exact ⟨⟨_, rfl⟩, rfl⟩

/-! ### The accepted word (R159, R161, R165) -/

/-- The sequence of an accepted word is not the one expected (R159). -/
def Stream.gapAt (c : Cell) (st : Stream) : Bool := st.expectation.any (· != c.sequence)

/-- A stream whose expectation has moved on past an accepted word (R159). -/
def Stream.expecting (c : Cell) (st : Stream) : Stream := { st with expectation := some (c.sequence + 1) }

/-- An accepted word may end a block, and is placed or dropped unless a WAIT hold stands before that or after it
(R159 to R162, R165). -/
theorem Stream.acceptWord_eq : st.acceptWord c now = if st.listenHold then st.expecting c
    else if ((st.expecting c).endBlock c.mark).listenHold then (st.expecting c).endBlock c.mark
    else ((st.expecting c).endBlock c.mark).placeOrDrop c now (st.gapAt c) := rfl

/-- Under a WAIT hold the expectation alone moves on (R165). -/
theorem Stream.acceptWord_of_hold (hh : st.listenHold = true) : st.acceptWord c now = st.expecting c :=
  if_pos hh

/-- A word that ends no block of the current descriptor is placed in it or dropped (R160, R161). -/
theorem Stream.acceptWord_in_block (hh : st.listenHold = false)
    (hb : c.mark = false ∨ ∀ d ∈ st.current, d.count = 0) :
    st.acceptWord c now = (st.expecting c).placeOrDrop c now (st.gapAt c) := by
  have hended : (st.expecting c).endBlock c.mark = st.expecting c := by
    unfold Stream.endBlock
    split
    · rename_i d hd
      rcases hb with hm | hz
      · simp [hm]
      · simp [hz d hd]
    · rfl
  rw [Stream.acceptWord_eq, hended, hh, if_neg Bool.false_ne_true]
  exact if_neg (Bool.eq_false_iff.1 hh)

/-- A stream whose current descriptor `d` a block mark has handed back (R161). -/
def Stream.blockEnded (c : Cell) (d : RxDesc) (st : Stream) : Stream :=
  (st.expecting c).handBackCurrent ⟨d, true, false, false, false, false⟩

theorem Stream.blockEnded_eq : st.blockEnded c d = { st.expecting c with
    writeQueue := st.writeQueue ++ [.done ⟨d, true, false, false, false, false⟩], current := st.next
    next := none, ringIndex := st.next.elim st.fetchPos (·.index), starved := (st.blockEnded c d).starved } :=
  Stream.handBackCurrent_eq _ _

/-- A word with the block mark hands back a current descriptor that holds words, before it is held, placed or
dropped (R161, log 18). -/
theorem Stream.acceptWord_at_block (hh : st.listenHold = false) (hm : c.mark = true)
    (hc : st.current = some d) (hd : d.count ≠ 0) : st.acceptWord c now
      = if (st.blockEnded c d).listenHold then st.blockEnded c d
        else (st.blockEnded c d).placeOrDrop c now (st.gapAt c) := by
  have hended : (st.expecting c).endBlock c.mark = st.blockEnded c d := by
    have hcurrent : (st.expecting c).current = some d := hc
    simp only [Stream.endBlock, hcurrent]
    exact if_pos (by simp [hm, hd])
  rw [Stream.acceptWord_eq, hended, hh, if_neg Bool.false_ne_true]

/-- The expectation moves on, whatever becomes of the word (R159). -/
theorem Stream.acceptWord_expectation : (st.acceptWord c now).expectation = some (c.sequence + 1) := by
  cases hh : st.listenHold with
  | true => rw [Stream.acceptWord_of_hold hh]; rfl
  | false =>
    by_cases hb : c.mark = false ∨ ∀ d ∈ st.current, d.count = 0
    · rw [Stream.acceptWord_in_block hh hb]
      exact Stream.placeOrDrop_appends.2
    · obtain ⟨hm, hwords⟩ := not_or.1 hb
      push Not at hwords
      obtain ⟨d, hc, hd⟩ := hwords
      rw [Stream.acceptWord_at_block hh (Bool.not_eq_false _ ▸ hm) hc hd]
      have hended : (st.blockEnded c d).expectation = some (c.sequence + 1) := by
        rw [Stream.blockEnded_eq]
        rfl
      split
      · exact hended
      · exact Stream.placeOrDrop_appends.2.trans hended

/-- The queue of a listener at a block mark begins with what it held and the descriptor handed back (R161). -/
theorem Stream.acceptWord_hands_back (hh : st.listenHold = false) (hm : c.mark = true)
    (hc : st.current = some d) (hd : d.count ≠ 0) : ∃ rest, (st.acceptWord c now).writeQueue
      = st.writeQueue ++ .done ⟨d, true, false, false, false, false⟩ :: rest := by
  have hended : (st.blockEnded c d).writeQueue
      = st.writeQueue ++ [.done ⟨d, true, false, false, false, false⟩] := by rw [Stream.blockEnded_eq]
  rw [Stream.acceptWord_at_block hh hm hc hd]
  split
  · exact ⟨[], hended⟩
  · obtain ⟨⟨rest, hrest⟩, -⟩ :=
      Stream.placeOrDrop_appends (c := c) (now := now) (gap := st.gapAt c) (st := st.blockEnded c d)
    exact ⟨rest, by rw [hrest, hended, List.append_assoc]; rfl⟩

/-- With no next descriptor in hand the word at a block mark is dropped (R161, R162). -/
theorem Stream.acceptWord_at_block_dropped (hh : st.listenHold = false) (hm : c.mark = true)
    (hc : st.current = some d) (hd : d.count ≠ 0) (hn : st.next = none) :
    st.acceptWord c now = (st.blockEnded c d).dropWord := by
  have hcurrent : (st.blockEnded c d).current = none := by rw [Stream.blockEnded_eq]; exact hn
  rw [Stream.acceptWord_at_block hh hm hc hd,
    if_neg (by simp [Stream.listenHold, hcurrent]), Stream.placeOrDrop_of_full (.inl hcurrent)]

/-- The word at a block mark is the first of a next descriptor that is not held and has room for more
(R161). -/
theorem Stream.acceptWord_at_block_placed {d₂ : RxDesc} (hh : st.listenHold = false) (hm : c.mark = true)
    (hc : st.current = some d) (hd : d.count ≠ 0) (hn : st.next = some d₂)
    (hw : st.defn.cue.isSome = true → d₂.wait = true → d₂.released = true)
    (hroom : d₂.count + 1 < d₂.capacity) (hq : st.queuedWords < 32) :
    st.acceptWord c now = (st.blockEnded c d).withPlaced c now (st.gapAt c) d₂ := by
  have hcurrent : (st.blockEnded c d).current = some d₂ := by rw [Stream.blockEnded_eq]; exact hn
  have hdefn : (st.blockEnded c d).defn = st.defn := by rw [Stream.blockEnded_eq]; rfl
  have hfree : ¬ (st.blockEnded c d).listenHold = true := by
    simp only [Stream.listenHold, hcurrent, hdefn, Option.any_some, Bool.and_eq_true, Bool.not_eq_true']
    rintro ⟨hcue, hwait, hreleased⟩
    rw [hw hcue hwait] at hreleased
    cases hreleased
  have hqueue : (st.blockEnded c d).queuedWords < 32 := (Stream.handBackCurrent_words _ _).trans_lt hq
  rw [Stream.acceptWord_at_block hh hm hc hd, if_neg hfree, Stream.placeOrDrop_of_room hcurrent hqueue,
    Stream.placeWord_eq, if_neg (not_le.2 hroom)]

end

/-- Settles O49. -/
theorem acceptedWordIsPlacedOrDropped : Obligations.AcceptedWordIsPlacedOrDropped := by
  intro c now st
  refine ⟨Stream.acceptWord_expectation, Stream.acceptWord_of_hold, fun hh hb => ?_,
    fun hh hm d hc hd => ⟨Stream.acceptWord_hands_back hh hm hc hd, fun hn => ?_,
      fun d₂ hn hw hz hroom hq => ?_⟩⟩
  · rw [Stream.acceptWord_in_block hh hb]
    refine ⟨fun hfull => ?_, fun d hc hq hroom => ?_, fun d hc hq hlast => ?_⟩
    · rw [Stream.placeOrDrop_of_full (st := st.expecting c) hfull]
      exact ⟨rfl, rfl, rfl, rfl, rfl⟩
    · rw [Stream.placeOrDrop_of_room (st := st.expecting c) hc hq, Stream.placeWord_eq,
        if_neg (not_le.2 hroom)]
      exact ⟨rfl, rfl, _, rfl, rfl, rfl, fun h0 => ⟨if_pos h0, if_pos h0, if_pos h0⟩,
        fun h0 => ⟨if_neg h0, if_neg h0, if_neg h0⟩⟩
    · rw [Stream.placeOrDrop_of_room (st := st.expecting c) hc hq, Stream.placeWord_eq, if_pos hlast,
        Stream.handBackCurrent_eq]
      exact ⟨rfl, rfl, rfl, rfl, _, List.append_assoc _ _ _, rfl, rfl, rfl, rfl, rfl, rfl, rfl, rfl⟩
  · rw [Stream.acceptWord_at_block_dropped hh hm hc hd hn, Stream.blockEnded_eq, hn]
    exact ⟨rfl, rfl, rfl, rfl⟩
  · rw [Stream.acceptWord_at_block_placed hh hm hc hd hn hw (by omega) hq, Stream.blockEnded_eq, hn]
    refine ⟨rfl, rfl, ?_, ?_⟩
    · simp [Stream.withPlaced, hz]
    · simp [Stream.withPlaced, RxDesc.place, Stream.gapAt, hz, hm]

end Sys2Proof.Machine
end

section
/-! PROOFS. What a cell arrival leaves of the record of a listen stream (R159, R163). -/

namespace Sys2Proof.Machine

open Sys2Proof

/-! ### A listener at a cell -/

/-- A slot carries a label where the station that holds it does so under that label (R23). -/
theorem carriers_any_iff (slots : Vector Slot 24) (l : Label) {i : Nat} (hi : i < 24) :
    (carriers slots l).any (·.val == i) = true ↔ (slots[i].entry.holder.map (·.label)) = some l := by
  have hslot : (⟨i, hi⟩ : Fin 24) ∈ carriers slots l
      ↔ (slots[i].entry.holder.map (·.label)) = some l := by
    rw [carriers, mem_indicesWhere]
    cases slots[i].entry.holder <;> simp
  rw [← hslot, List.any_eq_true]
  constructor
  · rintro ⟨j, hj, hji⟩
    rwa [show (⟨i, hi⟩ : Fin 24) = j from Fin.ext (beq_iff_eq.1 hji).symm]
  · exact fun hmem => ⟨_, hmem, beq_self_eq_true i⟩

section
variable {st : Stream}

/-- A listener accepts the intact cells of its label while it is TUNED or SEEKING (R159). -/
theorem Stream.hearCell_intact (hs : st.isSend = false) (i : Nat) (c : Cell) (slots : Vector Slot 24)
    (now : Stamp) : st.hearCell i (.intact c) slots now
      = if (st.state = .tuned ∨ st.state = .seeking) ∧ c.label = st.defn.label then
          { st.acceptWord c now with state := st.state } else st := by
  have haccepts : (st.accepts && c.label == st.defn.label) = true
      ↔ (st.state = .tuned ∨ st.state = .seeking) ∧ c.label = st.defn.label := by
    simp [Stream.accepts, hs]
  have hstate : { st.acceptWord c now with state := st.state } = st.acceptWord c now := by
    rw [← (Stream.placing_eq_iff.1 (Stands.acceptWord c now st).placing).2.1]
  rw [hstate, Stream.hearCell]
  exact if_congr haccepts rfl rfl

/-- A damaged cell marks DAMAGE on the current descriptor of a TUNED listener that no WAIT hold keeps, where its
slot carries the label (R163). -/
theorem Stream.hearCell_damaged (hs : st.isSend = false) {i : Nat} (hi : i < 24) (slots : Vector Slot 24)
    (now : Stamp) : st.hearCell i .damaged slots now
      = if st.state = .tuned ∧ st.listenHold = false
          ∧ (slots[i].entry.holder.map (·.label)) = some st.defn.label then
          { st with current := st.current.map fun d => { d with damage := true } } else st := by
  cases hh : st.listenHold <;>
    simp [Stream.hearCell, Stream.markDamage, hs, hh, ← carriers_any_iff slots st.defn.label hi]

/-- The map's report sets at most the state of a listener (R34, R134). -/
theorem Stream.report_of_listener (hs : st.isSend = false) (k : Station) (old new : Vector Slot 24) :
    st.report k old new = { st with state := (st.report k old new).state } := by
  simp only [Stream.report, hs, Bool.false_eq_true, if_false, Stream.listenRule]
  repeat' split
  all_goals rfl

/-- A listen stream is not CLOSING (R132). -/
theorem Stream.finishClosing_of_listener (hs : st.isSend = false) (part : Bool) :
    st.finishClosing part = st := by
  simp [Stream.finishClosing, hs]

end

/-- A cell leaves of a listener what it heard, but for the state that the listen state rule gives it and what
its engine then issues (R34, R159, R163). -/
theorem State.cellDone_listener {s : State} {i : Nat} {rx : CellRx} {n : Fin 16} {st : Stream}
    (hst : s.streams[n] = some st) (hs : st.isSend = false) :
    ∃ x, (s.cellDone i rx).pump.streams[n] = some x ∧ Stream.still { x with state := st.state }
      = Stream.still { st.hearCell i rx s.slots s.stamp with state := st.state } := by
  have hheard : (st.hearCell i rx s.slots s.stamp).isSend = false := by
    rw [Stream.isSend_congr (Stream.placing_eq_iff.1 (Stands.hearCell i rx s.slots s.stamp st).placing).1, hs]
  have hreported := Stream.report_of_listener hheard s.number s.slots (s.cellMap i rx).slots
  obtain ⟨part, hdone⟩ := State.cellDone_stream s i rx n st hst
  rw [hreported, Stream.finishClosing_of_listener (by exact hheard)] at hdone
  refine ⟨_, by rw [State.pump_get, hdone]; rfl, ?_⟩
  rw [Stream.issue_eq]
  rfl

/-- Settles O33. -/
theorem cellReachesTheListeners : Obligations.CellReachesTheListeners := by
  intro bits s f hm hf hc hh h
  have hexec : exec (.cellArrival bits) s = .next (s.cellArrives bits).pump := rfl
  rw [State.cellArrives_eq (Membership.receives_of_maps hm) hf hc hh h, State.takeCell_of_maps hm] at hexec
  refine ⟨_, hexec, fun hstays n st hst hs => ?_⟩
  generalize classifyCell (f.validAt f.arrived) bits = rx at *
  rw [State.pump_membership] at hstays
  rw [State.checkLeft_of_membership (by rw [hstays]; intro hoff; rw [hoff] at hm; cases hm)]
  obtain ⟨x, hx, hstill⟩ := State.cellDone_listener (s := s.countCell) (i := f.arrived) (rx := rx) hst hs
  refine ⟨x, hx, hstill.trans (congrArg _ ?_)⟩
  have hstate : (st.hearCell f.arrived rx s.slots s.stamp).state = st.state :=
    (Stream.placing_eq_iff.1 (Stands.hearCell f.arrived rx s.slots s.stamp st).placing).2.1
  have hheard : { st.hearCell f.arrived rx s.slots s.stamp with state := st.state }
      = st.hearCell f.arrived rx s.slots s.stamp := by rw [← hstate]
  refine hheard.trans ?_
  cases rx with
  | silent => rfl
  | intact c => exact Stream.hearCell_intact hs _ c _ _
  | damaged => exact Stream.hearCell_damaged hs h _ _

end Sys2Proof.Machine
end

section
/-! PROOFS. The cue actions of a stream, at an intact header and at a frame start (R166, R173 to R179). -/

namespace Sys2Proof.Machine

open Sys2Proof

/-! ### The cue action of a header, in the order of precedence (R174 to R177) -/

section
variable {k : Station} {slots : Vector Slot 24} {st : Stream}

/-- A start comes first, while a cue is awaited (R174). -/
theorem Stream.cueEvent_start (ha : st.awaiting = true) : st.cueEvent k slots
    = if st.isSend then { st with awaiting := false }.standing k slots
      else { st with cueAction := some .start } := if_pos ha

/-- A stop comes next, in mode START_STOP outside a WAIT hold (R175). -/
theorem Stream.cueEvent_stop (ha : st.awaiting = false) (hm : st.startStop = true)
    (hh : st.underHold = false) : st.cueEvent k slots
      = if st.isSend then { st with awaiting := true }.standing k slots
        else { st with cueAction := some .stop } :=
  (if_neg (Bool.eq_false_iff.1 ha)).trans (if_pos (by rw [hm, hh]; rfl))

/-- Under a WAIT hold a cue releases it (R176). -/
theorem Stream.cueEvent_release (ha : st.awaiting = false) (hh : st.underHold = true) :
    st.cueEvent k slots
      = if st.isSend then st.releaseHead else { st with cueAction := some .release } :=
  (if_neg (Bool.eq_false_iff.1 ha)).trans ((if_neg (by simp [hh])).trans (if_pos hh))

/-- Any other cue is latched, and a second one is lost (R177). -/
theorem Stream.cueEvent_latch (ha : st.awaiting = false) (hm : st.startStop = false)
    (hh : st.underHold = false) :
    st.cueEvent k slots = { st with latched := true, event := st.event || st.latched } :=
  (if_neg (Bool.eq_false_iff.1 ha)).trans ((if_neg (by simp [hm])).trans (if_neg (Bool.eq_false_iff.1 hh)))

/-- A WAIT hold consumes a latched cue (R178). -/
theorem Stream.consumeLatch_of_held
    (h : st.isOpen = true ∧ st.latched = true ∧ st.underHold = true) : st.consumeLatch
      = if st.isSend then { st.releaseHead with latched := false }
        else { st with cueAction := some .consume } :=
  if_pos (by simpa [and_assoc] using h)

theorem Stream.consumeLatch_of_free
    (h : ¬ (st.isOpen = true ∧ st.latched = true ∧ st.underHold = true)) : st.consumeLatch = st :=
  if_neg (by simpa [and_assoc] using h)

/-- The stream is bound to a line whose CUE bit is set (R173). -/
theorem Stream.cued_iff (bits : BitVec 4) : st.cued bits = true
    ↔ ∃ b, st.defn.cue = some b ∧ bits.getLsbD b.line.toNat = true := by
  unfold Stream.cued
  cases st.defn.cue <;> simp

/-- A header consumes the latch, and then brings an open stream that it cues its action (R173, R178). -/
theorem Stream.heedCue_eq (bits : BitVec 4) (skip : Bool) : st.heedCue bits skip k slots
    = if st.isOpen = true ∧ skip = false
        ∧ ∃ b, st.defn.cue = some b ∧ bits.getLsbD b.line.toNat = true
      then st.consumeLatch.cueEvent k slots else st.consumeLatch := by
  have hkept := (Stands.consumeLatch st).placing
  have hcued : st.consumeLatch.cued bits = st.cued bits := by
    rw [Stream.cued, (Stream.placing_eq_iff.1 hkept).1]
    rfl
  unfold Stream.heedCue
  dsimp only
  rw [Stream.isOpen_of_placing hkept, hcued]
  refine if_congr ?_ rfl rfl
  rw [← Stream.cued_iff]
  cases skip <;> simp

/-- A stream whose cue a command keeps away, and that has no cue latched, is left as it is (R173). -/
theorem Stream.heedCue_of_commanded (hl : st.latched = false) (bits : BitVec 4) :
    st.heedCue bits true k slots = st := by
  rw [Stream.heedCue_eq, if_neg (by simp), Stream.consumeLatch_of_free (by simp [hl])]

end

/-! ### The entries of the map alone decide (R122, R174, R175) -/

section
variable {v w : Vector Slot 24} (hvw : ∀ i : Fin 24, v[i].entry = w[i].entry) (k : Station) (st : Stream)
include hvw

theorem Stream.standing_congr : st.standing k v = st.standing k w := by
  simp only [Stream.standing, ownHoldings_congr hvw, candidacyUnder_congr hvw]

theorem Stream.heedCue_congr (bits : BitVec 4) (skip : Bool) :
    st.heedCue bits skip k v = st.heedCue bits skip k w := by
  have hevent : ∀ x : Stream, x.cueEvent k v = x.cueEvent k w := fun x => by
    simp only [Stream.cueEvent, Stream.setAwaiting, Stream.standing_congr hvw]
  simp only [Stream.heedCue, hevent]

end

/-! ### The action of a listener at a frame start (R166, R179) -/

section
variable {slots : Vector Slot 24} {st : Stream}

/-- A start leaves no expectation (R174, R179). -/
theorem Stream.applyCue_start (h : st.cueAction = some .start) : st.applyCue slots
    = { st with cueAction := none, awaiting := false, expectation := none }.listenRule slots := by
  rw [Stream.applyCue, h]

/-- A stopped stream awaits a cue again, and its state follows (R175, R179). -/
def Stream.cueStopped (slots : Vector Slot 24) (st : Stream) : Stream :=
  { st with cueAction := none, awaiting := true }.listenRule slots

theorem Stream.cueStopped_eq : st.cueStopped slots = { st with
    cueAction := none, awaiting := true, state := (st.cueStopped slots).state } := by
  unfold Stream.cueStopped Stream.listenRule
  split <;> rfl

theorem Stream.applyCue_stop (h : st.cueAction = some .stop) :
    st.applyCue slots = (st.cueStopped slots).stopHandBack := by
  rw [Stream.applyCue, h]
  rfl

/-- A stop hands nothing back where no current descriptor holds words (R166). -/
theorem Stream.applyCue_stop_idle (h : st.cueAction = some .stop) (hd : ∀ d ∈ st.current, d.count = 0) :
    st.applyCue slots = st.cueStopped slots := by
  have hcurrent : (st.cueStopped slots).current = st.current := by rw [Stream.cueStopped_eq]
  rw [Stream.applyCue_stop h, Stream.stopHandBack, hcurrent]
  split
  · rename_i d hc
    exact if_pos (hd d hc)
  · rfl

/-- A stop hands back a current descriptor that holds words with CUE_STOP (R166). -/
theorem Stream.applyCue_stop_words (h : st.cueAction = some .stop) {d : RxDesc}
    (hc : st.current = some d) (hd : d.count ≠ 0) : st.applyCue slots
      = (st.cueStopped slots).handBackCurrent ⟨d, false, false, true, false, false⟩ := by
  have hcurrent : (st.cueStopped slots).current = some d := by rw [Stream.cueStopped_eq]; exact hc
  rw [Stream.applyCue_stop h, Stream.stopHandBack, hcurrent]
  exact if_neg hd

/-- A release and a consumption release the current descriptor (R176, R178, R179). -/
theorem Stream.applyCue_release (h : st.cueAction = some .release ∨ st.cueAction = some .consume) :
    st.applyCue slots = { st with
      cueAction := none
      latched := if st.cueAction = some .consume then false else st.latched
      current := st.current.map fun d => { d with released := true } } := by
  rcases h with h | h <;> (rw [Stream.applyCue, h]; rfl)

end

/-! ### What a header leaves of the actions it has brought -/

/-- What a cue action of a header shows in a stream (R173 to R179). -/
def Stream.cueSide (st : Stream) : Bool × Bool × Option CueAction × StreamState × Bool × Bool × List TxDesc :=
  (st.awaiting, st.latched, st.cueAction, st.state, st.everFull, st.event, st.held)

/-- A stream that is open was open before, and shows the cue actions that it showed. -/
def CueSideKept (st st' : Stream) : Prop :=
  st'.isOpen = true → st.isOpen = true ∧ st'.cueSide = st.cueSide

theorem CueSideKept.refl (st : Stream) : CueSideKept st st := fun h => ⟨h, rfl⟩

theorem CueSideKept.trans {a b c : Stream} (h : CueSideKept a b) (h' : CueSideKept b c) :
    CueSideKept a c := fun hc => by
  obtain ⟨hb, hside⟩ := h' hc
  obtain ⟨ha, hside'⟩ := h hb
  exact ⟨ha, hside.trans hside'⟩

/-- A closure leaves no stream open (R131, R136). -/
theorem CueSideKept.close (reason : CloseReason) (part : Bool) (st : Stream) :
    CueSideKept st (st.close reason part) := fun h => by
  rw [Stream.close_isOpen] at h
  cases h

theorem CueSideKept.noteStall (k : Station) (old new : Vector Slot 24) (stall : BitVec 24) (st : Stream) :
    CueSideKept st (st.noteStall k old new stall) := by
  unfold Stream.noteStall
  split <;> exact .refl st

theorem CueSideKept.finishClosing (part : Bool) (st : Stream) :
    CueSideKept st (st.finishClosing part) := by
  unfold Stream.finishClosing
  split
  · intro h
    simp [Stream.isOpen, StreamState.openSend, StreamState.openListen] at h
  · exact .refl st

theorem CueSideKept.pollRingEnd (st : Stream) : CueSideKept st st.pollRingEnd := by
  unfold Stream.pollRingEnd
  split <;> exact .refl st

theorem CueSideKept.issue (st : Stream) : CueSideKept st st.issue := by
  rw [Stream.issue_eq]
  exact .refl st

section
variable {n : Fin 16} {st : Stream} {s : State}

theorem StreamAt.chooseAll_cueSide (h : StreamAt n (CueSideKept st) s) (old : Vector Slot 24)
    (stall : BitVec 24) (f : Frame) : StreamAt n (CueSideKept st) (s.chooseAll old stall f) := by
  refine StreamAt.mapStreams h fun x hx => ?_
  have hnoted : CueSideKept st (if f.census then x else x.noteStall s.number old s.slots stall) := by
    split
    · exact hx
    · exact hx.trans (.noteStall _ _ _ _ x)
  dsimp only
  split <;> exact hnoted

/-- The choice of the arbiter closes a stream or leaves it (R107, R111). -/
theorem StreamAt.chooseAtHeader_cueSide (h : StreamAt n (CueSideKept st) s) (f : Frame) :
    StreamAt n (CueSideKept st) (s.chooseAtHeader f) := by
  have hclose : ∀ (u : State) (m : Fin 16), StreamAt n (CueSideKept st) u →
      StreamAt n (CueSideKept st) (u.closeOne .labelClash m) := fun u m ⟨x, hx, hkept⟩ => by
    rw [StreamAt, State.closeOne_stream]
    split
    · rename_i hm
      rw [← hm, hx]
      exact ⟨_, rfl, hkept.trans (.close _ _ x)⟩
    · exact ⟨x, hx, hkept⟩
  unfold State.chooseAtHeader
  split
  · exact State.chooseBid_keeps (StreamAt n (CueSideKept st)) hclose (fun _ _ hu => hu.congr rfl) s h
  · exact h.congr rfl

/-- What follows the cues of a header leaves the actions that they brought to a stream that stays open
(R107, R124, R132, R144, R158). -/
theorem StreamAt.afterCues (h : StreamAt n (CueSideKept st) s) (old : Vector Slot 24) (stall : BitVec 24)
    (f : Frame) :
    StreamAt n (CueSideKept st) (((s.chooseAll old stall f).chooseAtHeader f).headerEnd f).pump := by
  obtain ⟨x, hx, hkept⟩ := ((h.chooseAll_cueSide old stall f).chooseAtHeader_cueSide f).headerEnd f
    (fun part x hx => hx.trans (.finishClosing part x)) fun x hx => hx.trans (.pollRingEnd x)
  exact ⟨x.issue, by rw [State.pump_get, hx]; rfl, hkept.trans (.issue x)⟩

/-- The cues of a header at one stream of a station that drives (R173). -/
theorem StreamAt.heedCues_stream (hst : s.streams[n] = some st) (hd : s.membership.drives = true)
    (bits : BitVec 4) (skip : Option (Fin 16)) :
    StreamAt n (fun x => x = st.heedCue bits (skip == some n) s.number s.slots) (s.heedCues bits skip) := by
  have hmapped : StreamAt n (· = st) { s with cueOut := s.cueOut ||| bits } := ⟨st, hst, rfl⟩
  rw [State.heedCues, if_pos hd]
  exact StreamAt.congr (hmapped.mapStreams fun x hx => by rw [hx]) (State.cleanQueue_streams _)

/-! ### The command of a header, at the stream it names (R173, R187 to R189) -/

/-- The stream for which a header takes an OPEN or a CLOSE with DONE (R173, log 10). -/
theorem State.commandedStream_iff : s.commandedStream = some n ↔ ∃ c, s.command = some c
    ∧ c.code ≠ .setStanding ∧ c.stream.toFin = n ∧ s.judgeCommand c = .done := by
  unfold State.commandedStream
  cases s.command with
  | none => simp
  | some c =>
    simp only [Option.bind_some, Option.ite_none_right_eq_some, Option.some.injEq, exists_eq_left']
    tauto

/-- Whether a header commands a stream is read from the result that it leaves. -/
theorem commanded_iff {u t : State} {f : Frame} (hc : u.command = s.command)
    (hlast : t.lastResult = (u.commandAndCell f).lastResult) :
    Commanded s t n ↔ u.commandedStream = some n := by
  rw [State.commandedStream_iff, hc]
  constructor
  · rintro ⟨⟨c, hcmd, hcode, hstream⟩, hdone⟩
    rw [hlast, State.commandAndCell_lastResult (hc.trans hcmd)] at hdone
    exact ⟨c, hcmd, hcode, hstream, hdone⟩
  · rintro ⟨c, hcmd, hcode, hstream, hdone⟩
    exact ⟨⟨c, hcmd, hcode, hstream⟩,
      by rw [hlast, State.commandAndCell_lastResult (hc.trans hcmd), hdone]⟩

/-- A stream that the header does not command is as it was after the command (R188, R189). -/
theorem State.takeCommand_uncommanded (h : s.commandedStream ≠ some n) :
    s.takeCommand.streams[n] = s.streams[n] :=
  State.takeCommand_stream fun c hc hcode hstream hdone =>
    h (State.commandedStream_iff.2 ⟨c, hc, hcode, hstream, hdone⟩)

/-- A command that is answered DONE opens the stream (R188). -/
theorem State.takeCommand_opens {c : Command} (hc : s.command = some c) (hcode : c.code = .openStream)
    (hdone : s.judgeCommand c = .done) (hst : s.streams[c.stream.toFin] = some st) :
    s.takeCommand.streams[c.stream.toFin] = some (st.opened s.number s.slots) := by
  have hperform : s.performCommand c = s.openOne c.stream.toFin st := by
    simp only [State.performCommand, hcode, hst]
  rw [State.takeCommand, hc]
  dsimp only
  rw [State.takeThis, hdone, if_pos rfl, hperform, State.raise_streams]
  refine (State.onStream_get_self s c.stream.toFin _).trans ?_
  rw [hst]
  rfl

/-- The stream that a header commands is not open after it, or has just been opened (R121, R131, R136). -/
theorem State.takeCommand_commanded (hst : s.streams[n] = some st) (h : s.commandedStream = some n) :
    StreamAt n (fun x => x.isOpen = false
      ∨ x.awaiting = st.defn.cue.isSome ∧ x.latched = false ∧ x.cueAction = none) s.takeCommand := by
  obtain ⟨c, hc, hcode, rfl, hdone⟩ := State.commandedStream_iff.1 h
  cases hkind : c.code with
  | openStream =>
    refine ⟨_, State.takeCommand_opens hc hkind hdone hst, .inr ?_⟩
    rw [Stream.opened_eq]
    exact ⟨rfl, rfl, rfl⟩
  | closeStream =>
    have hcloses : s.judgeClose c.stream.toFin = .done := by
      rwa [State.judgeCommand, hkind] at hdone
    obtain ⟨hm, x, hx, hne⟩ := (s.judgeClose_done_iff _).1 hcloses
    rw [State.takeCommand_close (n := c.stream) hm (by rw [hc, ← hkind]) hx hne]
    refine ⟨_, (State.closeOne_stream s .host c.stream.toFin c.stream.toFin).trans ?_,
      .inl (Stream.close_isOpen .host (s.streamHasPart c.stream.toFin x) x)⟩
    rw [if_pos rfl, hx]
    rfl
  | setStanding => exact absurd hkind hcode

end

/-! ### The header (R37, R173) -/

section
variable {s x : State} {f : Frame} {n : Fin 16} {st : Stream}

/-- The map's part of a header leaves a stream that it does not command where the report places it
(R34, R122). -/
theorem State.mapHeader_uncommanded (hst : s.streams[n] = some st) (h : Header)
    (hn : (s.mapHeader h).commandedStream ≠ some n) : (s.mapHeader h).streams[n]
      = some (st.report s.number s.slots (s.handleHeader h).slots) := by
  obtain ⟨y, hy, hplaced⟩ := StreamAt.mapReport (s.handleHeader h) s.closesPending s.slots
    (k := s.number) (st := st) (n := n) (by simpa [State.handleHeader] using hst)
    (by simp [State.handleHeader])
  have hspared : s.closesPending n = false := by
    by_contra hcloses
    rw [Bool.not_eq_false] at hcloses
    rw [if_pos hcloses] at hplaced
    obtain ⟨c, hc, hcode, hstream, hdone⟩ := (s.closesPending_iff n).1 hcloses
    obtain ⟨hm, z, hz, hne⟩ := (s.judgeClose_done_iff n).1 hdone
    rw [hst, Option.some.injEq] at hz
    refine hn (State.commandedStream_iff.2 ⟨c, ?_, by rw [hcode]; nofun, hstream, ?_⟩)
    · rw [← hc]
      simp [State.mapHeader, State.handleHeader]
    · rw [State.judgeCommand, hcode, hstream]
      refine (State.judgeClose_done_iff _ n).2 ⟨?_, y, hy, ?_⟩
      · rw [State.mapHeader_membership, hm]
      · rw [hplaced, hz]
        exact hne
  rw [hspared, if_neg Bool.false_ne_true] at hplaced
  rw [← hplaced]
  exact hy

/-- What an intact header's command and cues leave of a stream, with what then follows (R173). -/
theorem State.afterMap_cues {z : Stream} (hd : x.membership.drives = true) (h : Header)
    (old : Vector Slot 24) (hz : x.takeCommand.streams[n] = some z) :
    StreamAt n (CueSideKept (z.heedCue h.cue (x.commandedStream == some n) x.number x.slots))
      (x.afterMap h old f).pump := by
  have hcommanded : (x.commandAndCell f).streams[n] = some z := by
    rw [(x.commandAndCell_takes f).1]
    exact hz
  have htrunk := SameTrunk.commandAndCell x f
  have hcued := StreamAt.heedCues_stream hcommanded (by rw [htrunk.membership, hd]) h.cue x.commandedStream
  rw [htrunk.number, Stream.heedCue_congr htrunk.entries] at hcued
  exact StreamAt.afterCues (hcued.imp fun y hy => hy ▸ .refl y) old h.stall f

theorem State.afterMap_lastResult (x : State) (h : Header) (old : Vector Slot 24) (f : Frame) :
    (x.afterMap h old f).lastResult = (x.commandAndCell f).lastResult := by
  rw [State.afterMap, State.headerEnd_eq]
  simp [State.chooseAll]

/-- What an intact header shows of the cues in a stream that is then open: the action of its line, or after an
OPEN that it took the stream as it was opened (R173). -/
theorem State.mapHeader_cues (hst : s.streams[n] = some st) (hd : s.membership.drives = true) (h : Header)
    (old : Vector Slot 24) (hx : x = s.mapHeader h) {new : Vector Slot 24}
    (hnew : (s.handleHeader h).slots = new) :
    StreamAt n (fun st' => st'.isOpen = true →
      (x.commandedStream ≠ some n → st'.cueSide
        = ((st.report s.number s.slots new).heedCue h.cue false s.number new).cueSide)
      ∧ (x.commandedStream = some n → st'.awaiting = st.defn.cue.isSome ∧ st'.latched = false
        ∧ st'.cueAction = none)) (x.afterMap h old f).pump := by
  subst hx hnew
  obtain ⟨hrest, -⟩ := s.mapHeader_rest h (s.handleHeader h).slots fun i => by
    rw [State.mapHeader, State.refreshIntent_entry, State.mapReport_slots]
  have hdrives : (s.mapHeader h).membership.drives = true := by rw [hrest.membership]; exact hd
  have hnumber : (s.mapHeader h).number = s.number := hrest.number
  by_cases hn : (s.mapHeader h).commandedStream = some n
  · obtain ⟨y, hy, hdefn⟩ : StreamAt n (fun y => y.defn = st.defn) (s.mapHeader h) := by
      refine (StreamAt.mapReport (s.handleHeader h) s.closesPending s.slots (k := s.number) (st := st)
        (by simpa [State.handleHeader] using hst) (by simp [State.handleHeader])).imp fun y hy => ?_
      rw [hy]
      split
      · rfl
      · exact (Stream.report_stall _ _ _ st).1
    obtain ⟨z, hz, hcommanded⟩ := State.takeCommand_commanded hy hn
    have hskip : z.heedCue h.cue ((s.mapHeader h).commandedStream == some n) (s.mapHeader h).number
        (s.mapHeader h).slots = z := by
      rw [hn, beq_self_eq_true]
      rcases hcommanded with hclosed | ⟨-, hlatched, -⟩
      · exact Stream.heedCue_of_not_open hclosed _ _ _ _
      · exact Stream.heedCue_of_commanded hlatched _
    have hkept := State.afterMap_cues (f := f) hdrives h old hz
    rw [hskip] at hkept
    refine hkept.imp fun st' hst' ho => ⟨absurd hn, fun _ => ?_⟩
    obtain ⟨hopen, hside⟩ := hst' ho
    simp only [Stream.cueSide, Prod.mk.injEq] at hside
    obtain ⟨hawaiting, hlatched, haction, -⟩ := hside
    rw [hawaiting, hlatched, haction, ← hdefn]
    exact hcommanded.resolve_left (by simp [hopen])
  · have hkept := State.afterMap_cues (f := f) hdrives h old
      ((State.takeCommand_uncommanded hn).trans (State.mapHeader_uncommanded hst h hn))
    rw [beq_eq_false_iff_ne.2 hn, hnumber, Stream.heedCue_congr hrest.entries] at hkept
    exact hkept.imp fun st' hst' ho => ⟨fun _ => (hst' ho).2, fun hc => absurd hc hn⟩

end

/-- What an intact header makes of the CUEOUT pins and of the cues of every stream (R173). -/
theorem State.takeHeader_cues {s : State} {f : Frame} (hd : s.membership.drives = true)
    (hf : s.frame = some f) (hh : f.header = .due) (hu : f.unexpected = false) (bits : HeaderBits)
    (hm : (s.takeHeader (.intact bits)).pump.membership = s.membership) :
    (s.takeHeader (.intact bits)).pump.cueOut = s.cueOut ||| (headerFields f bits).cue
    ∧ ∀ (n : Fin 16) (st : Stream), s.streams[n] = some st → StreamAt n (fun st' => st'.isOpen = true →
      (¬ Commanded s (s.takeHeader (.intact bits)).pump n → st'.cueSide
        = ((st.report s.number s.slots (s.handleHeader (headerFields f bits)).slots).heedCue
          (headerFields f bits).cue false s.number
          (s.handleHeader (headerFields f bits)).slots).cueSide)
      ∧ (Commanded s (s.takeHeader (.intact bits)).pump n → st'.awaiting = st.defn.cue.isSome
        ∧ st'.latched = false ∧ st'.cueAction = none)) (s.takeHeader (.intact bits)).pump := by
  obtain ⟨h, hheader⟩ : ∃ h, h = headerFields f bits := ⟨_, rfl⟩
  obtain ⟨w, hw⟩ : ∃ w, w = (s.setHeader (.intact h.valid)).countWin (arbitrationRead bits) := ⟨_, rfl⟩
  have htake : s.takeHeader (.intact bits) = ((w.mapHeader h).afterMap h s.slots f).checkLeft := by
    rw [State.takeHeader_intact (Membership.judges_of_drives hd) hf hh hu, State.judgeHeader_eq, hw,
      hheader]
    rfl
  rw [← hheader]
  rw [htake] at hm ⊢
  rw [State.pump_membership] at hm
  have hstays := State.checkLeft_of_membership (s := (w.mapHeader h).afterMap h s.slots f)
    (by rw [hm]; intro hoff; rw [hoff] at hd; cases hd)
  rw [hstays]
  have hdrives : w.membership.drives = true := by rw [hw]; exact hd
  refine ⟨?_, fun n st hst => ?_⟩
  · have hpins := ((w.mapHeader h).afterMap_pins h s.slots f).1
    rw [State.mapHeader_membership, if_pos hdrives, (w.mapHeader_rest h _ fun _ => rfl).2] at hpins
    rw [State.pump_cueOut, hpins, hw]
    rfl
  · have hcommand : (w.mapHeader h).command = s.command := by
      rw [hw]
      simp [State.mapHeader, State.handleHeader, State.countWin, State.setHeader]
    have hlast : ((w.mapHeader h).afterMap h s.slots f).pump.lastResult
        = ((w.mapHeader h).commandAndCell f).lastResult :=
      (State.pump_lastResult _).trans (State.afterMap_lastResult _ h s.slots f)
    have hmap : (w.handleHeader h).slots = (s.handleHeader h).slots := by
      rw [hw]
      exact s.handleHeader_arrived _ _ h
    rw [commanded_iff hcommand hlast]
    have hcues := State.mapHeader_cues (f := f) (show w.streams[n] = some st by rw [hw]; exact hst)
      hdrives h s.slots rfl hmap
    rw [hw] at hcues ⊢
    exact hcues

/-- Settles O55. -/
theorem cueActionsTakePrecedence : Obligations.CueActionsTakePrecedence := by
  refine ⟨fun bits s m f hd hf hh hu hm => ?_, fun k slots st => ?_⟩
  · have hexec : exec (.headerArrival bits) s = .next (s.takeHeader (.intact bits)).pump := rfl
    refine ⟨_, hexec, fun hstays => ?_⟩
    obtain ⟨hout, hstreams⟩ := State.takeHeader_cues hd hf hh hu bits hstays
    refine ⟨hout, fun n st hst => ?_⟩
    obtain ⟨st', hst', hcues⟩ := hstreams n st hst
    refine ⟨st', hst', fun ho => ⟨fun hn => ?_, (hcues ho).2⟩⟩
    have hside := (hcues ho).1 hn
    rw [show (s.handleHeader (headerFields f bits)).slots = m.slots by rw [hm]; rfl] at hside
    simpa only [Stream.cueSide, Prod.mk.injEq] using hside
  · refine ⟨Stream.cueEvent_start, Stream.cueEvent_stop, Stream.cueEvent_release, Stream.cueEvent_latch,
      fun bits skip => ⟨Stream.consumeLatch_of_held, Stream.consumeLatch_of_free,
        fun hc => (Stream.heedCue_eq bits skip).trans (if_pos hc),
        fun hc => (Stream.heedCue_eq bits skip).trans (if_neg hc)⟩,
      fun hn => Stream.applyCue_of_none hn slots, Stream.applyCue_start, fun hs => ?_,
      Stream.applyCue_release⟩
    refine ⟨Stream.applyCue_stop_idle hs, fun d hc hd => ?_⟩
    rw [Stream.applyCue_stop_words hs hc hd, Stream.handBackCurrent_eq, Stream.cueStopped_eq]
    exact ⟨rfl, rfl, rfl, rfl, rfl, rfl, rfl⟩

end Sys2Proof.Machine
end

section
/-! PROOFS. The cue pins and the timers (R2 to R4, R172, R173). -/

namespace Sys2Proof.Machine

open Sys2Proof

section
variable {s : State}

/-! ### A rising edge on a CUEIN pin (R172) -/

/-- On a forwarded pin of a MEMBER station the edge merges with a pending one of its line, or sets it. -/
theorem State.cueEdge_of_forwarded {pin line : BitVec 2} (hm : s.membership = .member)
    (hline : s.cueForward[pin.toNat]'pin.isLt = some line) :
    s.cueEdge pin = if s.cuePending.getLsbD line.toNat then s.raise .cueMerged
      else { s with cuePending := s.cuePending ||| 1#4 <<< line.toNat } := by
  simp only [State.cueEdge, hm, hline]

/-- No edge is heeded outside MEMBER, nor on a pin that is not forwarded. -/
theorem State.cueEdge_of_unheeded {pin : BitVec 2}
    (hno : s.membership ≠ .member ∨ s.cueForward[pin.toNat]'pin.isLt = none) : s.cueEdge pin = s := by
  unfold State.cueEdge
  split
  next hmember hsome =>
    obtain hm | hnone := hno
    · exact absurd hmember hm
    · exact absurd (hsome.symm.trans hnone) (Option.some_ne_none _)
  next => rfl

/-! ### The end of a pulse on a CUEOUT pin (R173) -/

/-- The pin whose pulse ends is low after it, and each other pin is as it was. -/
theorem State.endPulse_cueOut_get (s : State) (pin : BitVec 2) (c : Nat) :
    (s.endPulse pin).cueOut.getLsbD c = (s.cueOut.getLsbD c && c != pin.toNat) := by
  have hpin : (1#4 <<< pin.toNat).getLsbD c = (c == pin.toNat) := by
    rw [← BitVec.twoPow_eq, BitVec.getLsbD_twoPow, decide_eq_true (show pin.toNat < 4 from pin.isLt),
      Bool.true_and, Bool.beq_comm, beq_eq_decide]
  rw [State.endPulse, BitVec.getLsbD_and, BitVec.getLsbD_not, hpin, bne]
  by_cases hc : c < 4
  · rw [decide_eq_true hc, Bool.true_and]
  · rw [BitVec.getLsbD_of_ge _ _ (not_lt.1 hc), Bool.false_and, Bool.false_and]

/-! ### The expiry of a timer (R2 to R4) -/

theorem State.quietWaitEnds_of_running (h : s.timer = .quietWait) :
    s.quietWaitEnds = { s with timer := .expired, tsync := .plain } := if_pos h

theorem State.quietWaitEnds_of_stopped (h : s.timer ≠ .quietWait) : s.quietWaitEnds = s := if_neg h

theorem State.frameTimerEnds_of_running (h : s.timer = .ordinary ∨ s.timer = .census) :
    s.frameTimerEnds = { s with
      timer := .expired
      tsync := if s.aligned = true ∧ s.index = 255 then .mark else .plain } := by
  simp only [State.frameTimerEnds, if_pos h, Bool.and_eq_true, beq_iff_eq]

theorem State.frameTimerEnds_of_stopped (ho : s.timer ≠ .ordinary) (hc : s.timer ≠ .census) :
    s.frameTimerEnds = s := if_neg (not_or.2 ⟨ho, hc⟩)

end

/-- Settles O14. -/
theorem pinsAndTimersAct : Obligations.PinsAndTimersAct := by
  refine ⟨fun pin s => ⟨⟨s.endPulse pin, rfl, rfl, ?low, fun c hc => ?others⟩,
      fun line hm hline => congrArg _ (State.cueEdge_of_forwarded hm hline),
      fun hno => congrArg _ (State.cueEdge_of_unheeded hno)⟩,
    fun s => ⟨fun h => congrArg _ (State.quietWaitEnds_of_running h),
      fun h => congrArg _ (State.frameTimerEnds_of_running h),
      fun h => congrArg _ (State.quietWaitEnds_of_stopped h),
      fun ho hc => congrArg _ (State.frameTimerEnds_of_stopped ho hc)⟩⟩
  case low => simp [State.endPulse_cueOut_get]
  case others => simp [State.endPulse_cueOut_get, hc]

end Sys2Proof.Machine
end

section
/-! PROOFS. A write to COMMAND: recorded, answered at the write, or rejected; and the answers of OPEN and CLOSE (R187 to R190). -/

namespace Sys2Proof.Machine
open Sys2Proof


section
/-! ### A write to COMMAND (R187, R199) -/
variable {s : State}

theorem State.writeCommand_of_busy (h : s.command.isSome = true) (code n : BitVec 4) :
    s.writeCommand code n = { s with rejected := true } := by
  obtain ⟨c, hc⟩ := Option.isSome_iff_exists.1 h
  unfold State.writeCommand
  rw [hc]
  cases commandCode code <;> rfl

theorem State.writeCommand_of_unknown {code : BitVec 4} (h : commandCode code = none) (n : BitVec 4) :
    s.writeCommand code n = { s with rejected := true } := by
  unfold State.writeCommand
  rw [h]

/-- A command that is accepted is recorded, and taken at once where no header arrives (R187). -/
theorem State.writeCommand_accepted {code : BitVec 4} {c : CommandCode} (h : commandCode code = some c)
    (hc : s.command = none) (n : BitVec 4) : s.writeCommand code n =
      (if s.membership.takesAtWrite then
        ({ s with command := some ⟨c, n⟩, rejected := false } : State).takeCommand
       else { s with command := some ⟨c, n⟩, rejected := false }) := by
  unfold State.writeCommand
  rw [h, hc]

/-- A code other than 1 to 3 names no command (R199). -/
theorem commandCode_eq_none {code : BitVec 4} (h1 : code ≠ 1) (h2 : code ≠ 2) (h3 : code ≠ 3) :
    commandCode code = none := by
  have hne : ∀ k : Nat, k < 16 → code ≠ BitVec.ofNat 4 k → code.toNat ≠ k := fun k hk hc he =>
    hc (by rw [← he, BitVec.ofNat_toNat, BitVec.setWidth_eq])
  unfold commandCode
  split
  · rename_i h
    exact absurd h (hne 1 (by decide) h1)
  · rename_i h
    exact absurd h (hne 2 (by decide) h2)
  · rename_i h
    exact absurd h (hne 3 (by decide) h3)
  · rfl

theorem commandWord_fields (code n : BitVec 4) :
    (commandWord code n).extractLsb' 0 4 = code ∧ (commandWord code n).extractLsb' 8 4 = n := by
  decide +revert

theorem State.writeRegister_command (v : Word) :
    s.writeRegister 0x010 v = s.writeCommand (v.extractLsb' 0 4) (v.extractLsb' 8 4) := rfl

/-- The host's write of a command word (R182, R187). -/
theorem State.hostWriteAt_command (hr : s.rstnLow = false) (code n : BitVec 4) :
    s.hostWriteAt 0x010 4 (commandWord code n) = s.writeCommand code n := by
  obtain ⟨hcode, hn⟩ := commandWord_fields code n
  rw [State.hostWriteAt_of_high hr, State.writeRegister_command, hcode, hn]

theorem exec_openCmd (hr : s.rstnLow = false) (n : BitVec 4) :
    exec (.openCmd n) s = .next (s.writeCommand 1 n) :=
  congrArg Host.Outcome.next (State.hostWriteAt_command hr 1 n)

theorem exec_closeCmd (hr : s.rstnLow = false) (n : BitVec 4) :
    exec (.closeCmd n) s = .next (s.writeCommand 2 n) :=
  congrArg Host.Outcome.next (State.hostWriteAt_command hr 2 n)

theorem exec_standingCmd (hr : s.rstnLow = false) (n : BitVec 4) :
    exec (.standingCmd n) s = .next (s.writeCommand 3 n) :=
  congrArg Host.Outcome.next (State.hostWriteAt_command hr 3 n)

theorem exec_commandCodeUnknown (hr : s.rstnLow = false) (code n : BitVec 4) :
    exec (.commandCodeUnknown code n) s = .next (s.writeCommand code n) :=
  congrArg Host.Outcome.next (State.hostWriteAt_command hr code n)

/-! ### A command that is taken (R187 to R190) -/

/-- A refused command changes COMMAND STATUS and COMMAND_DONE alone (R188, R189). -/
theorem State.takeThis_refused {c : Command} (h : s.judgeCommand c ≠ .done) : s.takeThis c
    = { s with command := none, lastResult := s.judgeCommand c, events := s.events ||| 0x100 } := by
  rw [State.takeThis, if_neg h]
  rfl

/-- Outside MEMBER every OPEN and CLOSE is refused (R188, R189). -/
theorem State.judgeCommand_of_not_member (hm : s.membership ≠ .member) {c : Command}
    (hc : c.code ≠ .setStanding) : s.judgeCommand c = .notMember := by
  obtain ⟨code, n⟩ := c
  cases code with
  | openStream | closeStream => exact if_pos hm
  | setStanding => exact absurd rfl hc

/-- Outside OFFLINE a STANDING command sets the standing word (R190). -/
theorem State.takeThis_standing {n : BitVec 4} (hm : s.membership ≠ .offline) :
    s.takeThis ⟨.setStanding, n⟩ = { s with
      command := none, lastResult := .done, events := s.events ||| 0x100
      standing := some s.commandArgument } := by
  have hdone : s.judgeCommand ⟨.setStanding, n⟩ = .done := if_neg hm
  rw [State.takeThis, hdone, if_pos rfl]
  rfl

theorem Membership.takesAtWrite_iff (m : Membership) :
    m.takesAtWrite = true ↔ m = .offline ∨ m = .loading ∨ m = .refused := by
  cases m <;> decide

/-- A command written where no header takes it is answered at the write (R187). -/
theorem State.writeCommand_taken {code : BitVec 4} {c : CommandCode} (h : commandCode code = some c)
    (hc : s.command = none) (hm : s.membership = .offline ∨ s.membership = .loading ∨ s.membership = .refused)
    (n : BitVec 4) : s.writeCommand code n
      = ({ s with command := some ⟨c, n⟩, rejected := false } : State).takeThis ⟨c, n⟩ := by
  rw [State.writeCommand_accepted h hc, if_pos ((Membership.takesAtWrite_iff _).2 hm)]
  rfl

/-- Where no header takes it a command other than STANDING is refused at the write (R187 to R189), and so is
STANDING in OFFLINE (R190). -/
theorem State.writeCommand_refused {code : BitVec 4} {c : CommandCode} (h : commandCode code = some c)
    (hc : s.command = none) (hm : s.membership = .offline ∨ s.membership = .loading ∨ s.membership = .refused)
    (hrefused : c ≠ .setStanding ∨ s.membership = .offline) (n : BitVec 4) : s.writeCommand code n
      = { s with rejected := false, lastResult := .notMember, events := s.events ||| 0x100 } := by
  obtain ⟨u, hu⟩ : ∃ u : State, u = { s with command := some ⟨c, n⟩, rejected := false } := ⟨_, rfl⟩
  have hjudge : u.judgeCommand ⟨c, n⟩ = .notMember := by
    by_cases hstanding : c = .setStanding
    · rw [hstanding]
      exact if_pos (by rw [hu]; exact hrefused.resolve_left (not_not.2 hstanding))
    · refine State.judgeCommand_of_not_member (fun hmember => ?_) hstanding
      rw [hu] at hmember
      rcases hm with hm | hm | hm <;> cases hm.symm.trans hmember
  rw [State.writeCommand_taken h hc hm, ← hu, State.takeThis_refused (by rw [hjudge]; decide), hjudge, hu, hc]

/-- In LOADING and REFUSED a STANDING command is answered DONE at the write (R190). -/
theorem State.writeCommand_standing (hc : s.command = none)
    (hm : s.membership = .offline ∨ s.membership = .loading ∨ s.membership = .refused)
    (hoff : s.membership ≠ .offline) (n : BitVec 4) : s.writeCommand 3 n = { s with
      rejected := false, lastResult := .done, events := s.events ||| 0x100
      standing := some s.commandArgument } := by
  obtain ⟨u, hu⟩ : ∃ u : State, u = { s with command := some ⟨.setStanding, n⟩, rejected := false } := ⟨_, rfl⟩
  have hoffline : u.membership ≠ .offline := by rw [hu]; exact hoff
  rw [State.writeCommand_taken (c := .setStanding) rfl hc hm, ← hu, State.takeThis_standing hoffline, hu, hc]

/-- Settles O7, by whether a header takes the command (R187). -/
theorem commandWriteIsRecordedTakenOrRejected : Obligations.CommandWriteIsRecordedTakenOrRejected := by
  refine ⟨fun n s hr hc => ⟨fun hoff hload href => ?_, fun hm => ?_⟩, fun code n s hr => ⟨fun hbusy => ?_,
    fun h1 h2 h3 => ?_⟩⟩
  · have hrecorded : ∀ {code c}, commandCode code = some c →
        s.writeCommand code n = { s with command := some ⟨c, n⟩, rejected := false } := fun h => by
      rw [State.writeCommand_accepted h hc, if_neg fun ht => ?_]
      rcases (Membership.takesAtWrite_iff _).1 ht with h | h | h
      · exact hoff h
      · exact hload h
      · exact href h
    rw [exec_openCmd hr, exec_closeCmd hr, exec_standingCmd hr]
    exact ⟨congrArg _ (hrecorded rfl), congrArg _ (hrecorded rfl), congrArg _ (hrecorded rfl)⟩
  · rw [exec_openCmd hr, exec_closeCmd hr, exec_standingCmd hr]
    refine ⟨congrArg _ (State.writeCommand_refused rfl hc hm (.inl (by decide)) n),
      congrArg _ (State.writeCommand_refused rfl hc hm (.inl (by decide)) n), congrArg _ ?_⟩
    split
    · rename_i hoff
      exact State.writeCommand_refused rfl hc hm (.inr hoff) n
    · rename_i hoff
      exact State.writeCommand_standing hc hm hoff n
  · rw [exec_openCmd hr, exec_closeCmd hr, exec_standingCmd hr, State.writeCommand_of_busy hbusy,
      State.writeCommand_of_busy hbusy, State.writeCommand_of_busy hbusy]
    exact ⟨rfl, rfl, rfl⟩
  · rw [exec_commandCodeUnknown hr, State.writeCommand_of_unknown (commandCode_eq_none h1 h2 h3)]

/-- Settles O8. -/
theorem openAndCloseAnswers : Obligations.OpenAndCloseAnswers := by
  refine fun n s => ⟨?_, rfl, fun c hrefused hc => ?_⟩
  · unfold State.judgeOpen
    cases hst : s.streams[n] with
    | none => rfl
    | some st => simp [Stream.isSend]
  · rw [State.takeCommand, hc]
    exact State.takeThis_refused hrefused

end
end Sys2Proof.Machine
end

section
/-! PROOFS. The write of each register of the window (R182, R184, R185, R187, R191, R199). -/

namespace Sys2Proof.Machine
open Sys2Proof

section
variable {s : State}

/-! ### The write of each register (R182, R199) -/

theorem exec_registerWrite (hr : s.rstnLow = false) (offset : BitVec 12) (v : Word) :
    exec (.registerWrite offset 4 v) s = .next (s.writeRegister (wordOffset offset) v) :=
  congrArg Host.Outcome.next (State.hostWriteAt_of_high hr _ v)

/-- A write of fewer than four bytes is ignored (R182). -/
theorem exec_registerWrite_short {bytes : Nat} (h : bytes < 4) (offset : BitVec 12) (v : Word) :
    exec (.registerWrite offset bytes v) s = .next s :=
  congrArg Host.Outcome.next (if_pos (.inr h))

theorem exec_profileAddressWrite (hr : s.rstnLow = false) (v : Word) :
    exec (.profileAddressWrite v) s = .next (s.writeProfileAddress v) :=
  congrArg Host.Outcome.next (State.hostWriteAt_of_high hr _ v)

theorem exec_eventsWrite (hr : s.rstnLow = false) (v : Word) :
    exec (.eventsWrite v) s = .next (s.clearEvents v) :=
  congrArg Host.Outcome.next (State.hostWriteAt_of_high hr _ v)

theorem exec_eventEnableWrite (hr : s.rstnLow = false) (v : Word) :
    exec (.eventEnableWrite v) s = .next { s with eventEnable := v.setWidth 10 } :=
  congrArg Host.Outcome.next (State.hostWriteAt_of_high hr _ v)

theorem exec_streamEventsWrite (hr : s.rstnLow = false) (v : Word) :
    exec (.streamEventsWrite v) s = .next (s.clearStreamEvents v) :=
  congrArg Host.Outcome.next (State.hostWriteAt_of_high hr _ v)

theorem exec_streamEventEnableWrite (hr : s.rstnLow = false) (v : Word) :
    exec (.streamEventEnableWrite v) s = .next { s with streamEventEnable := v.setWidth 16 } :=
  congrArg Host.Outcome.next (State.hostWriteAt_of_high hr _ v)

/-- A write at an offset that names no register the host can write is ignored (R182). -/
theorem State.writeRegister_ignored {offset : Nat} (v : Word) (h : ∀ k ∈ [0x004, 0x00C, 0x010, 0x014, 0x01C,
    0x020, 0x024, 0x028], offset ≠ k) : s.writeRegister offset v = s := by
  simp only [List.forall_mem_cons] at h
  obtain ⟨hcontrol, hprofile, hcommand, hargument, hevents, henable, hstream, hstreamEnable, -⟩ := h
  rw [State.writeRegister, if_neg hcontrol, if_neg hprofile, if_neg hcommand, if_neg hargument,
    if_neg hevents, if_neg henable, if_neg hstream, if_neg hstreamEnable]

/-! ### STATION CONTROL (R184) -/

/-- A write to STATION CONTROL is read by its three bits alone (R184). -/
theorem State.writeStationControl_congr {v w : Word} (start : v.getLsbD 0 = w.getLsbD 0)
    (leave : v.getLsbD 1 = w.getLsbD 1) (reset : v.getLsbD 2 = w.getLsbD 2) :
    s.writeStationControl v = s.writeStationControl w := by
  simp only [State.writeStationControl, start, leave, reset]

/-- START with LEAVE, or neither, is ignored (R184). -/
theorem State.writeStationControl_ignored {v : Word} (reset : v.getLsbD 2 = false)
    (same : v.getLsbD 0 = v.getLsbD 1) : s.writeStationControl v = s := by
  have hcontrol : s.writeControl (v.getLsbD 0) (v.getLsbD 1) (v.getLsbD 2) = s := by
    rw [reset, same, State.writeControl]
    cases v.getLsbD 1 <;> rfl
  rw [State.writeStationControl, hcontrol]
  exact if_neg fun ⟨hm, hl⟩ => by cases hm.symm.trans hl

/-- The bits of the word that RESET writes (R184). -/
theorem resetWord_bits (startBit leaveBit : Bool) :
    (placeBit 0 startBit ||| placeBit 1 leaveBit ||| 4 : Word).getLsbD 0 = startBit
      ∧ (placeBit 0 startBit ||| placeBit 1 leaveBit ||| 4 : Word).getLsbD 1 = leaveBit
      ∧ (placeBit 0 startBit ||| placeBit 1 leaveBit ||| 4 : Word).getLsbD 2 = true := by
  cases startBit <;> cases leaveBit <;> decide

/-- A write to STATION CONTROL is the request that its bits make, RESET before the others (R184). -/
theorem State.writeStationControl_acts (hr : s.rstnLow = false) (v : Word) :
    .next (s.writeStationControl v) =
      (if v.getLsbD 2 then exec (.reset (v.getLsbD 0) (v.getLsbD 1)) s
       else match v.getLsbD 0, v.getLsbD 1 with
        | true, false => exec .start s
        | false, true => exec .leave s
        | _, _ => .next s) := by
  have hasks : ∀ w : Word, v.getLsbD 0 = w.getLsbD 0 → v.getLsbD 1 = w.getLsbD 1 →
      v.getLsbD 2 = w.getLsbD 2 → s.writeStationControl v = s.hostWriteAt 0x004 4 w := fun w h0 h1 h2 => by
    rw [State.hostWriteAt_of_high hr]
    exact State.writeStationControl_congr h0 h1 h2
  cases hreset : v.getLsbD 2 with
  | true =>
    obtain ⟨h0, h1, h2⟩ := resetWord_bits (v.getLsbD 0) (v.getLsbD 1)
    exact congrArg Host.Outcome.next (hasks _ h0.symm h1.symm (hreset.trans h2.symm))
  | false =>
    rw [if_neg Bool.false_ne_true]
    cases hstart : v.getLsbD 0 <;> cases hleave : v.getLsbD 1
    · exact congrArg _ (State.writeStationControl_ignored hreset (hstart.trans hleave.symm))
    · exact congrArg _ (hasks 2 hstart hleave hreset)
    · exact congrArg _ (hasks 1 hstart hleave hreset)
    · exact congrArg _ (State.writeStationControl_ignored hreset (hstart.trans hleave.symm))

/-! ### COMMAND (R187, R199) -/

/-- A write to COMMAND is the command that its code names (R187, R199). -/
theorem State.writeCommand_acts (hr : s.rstnLow = false) (code n : BitVec 4) :
    .next (s.writeCommand code n) =
      (match code with
        | 1#4 => exec (.openCmd n) s
        | 2#4 => exec (.closeCmd n) s
        | 3#4 => exec (.standingCmd n) s
        | code => exec (.commandCodeUnknown code n) s) := by
  split
  · exact (exec_openCmd hr n).symm
  · exact (exec_closeCmd hr n).symm
  · exact (exec_standingCmd hr n).symm
  · exact (exec_commandCodeUnknown hr _ n).symm

/-! ### STREAM EVENTS (R191) -/

theorem State.clearStreamEvents_get (v : Word) (n : Fin 16) : (s.clearStreamEvents v).streams[n]
    = (s.streams[n]).map fun st => { st with event := st.event && !v.getLsbD n.val } :=
  State.mapStreams_get s _ n.val n.isLt

end

/-- Settles O11, register by register. -/
theorem registerWritesAct : Obligations.RegisterWritesAct := by
  intro v s hr
  refine ⟨exec_profileAddressWrite hr v, ?_, ?_, ?_, s.clearStreamEvents v, exec_streamEventsWrite hr v, rfl,
    fun n hn => ?_, fun n st hn => ?_, exec_registerWrite hr _ v, ?_, ?_, ?_, ?_, ?_, ?_, ?_,
    fun offset bytes h => exec_registerWrite_short h offset v, fun offset hword h4 hC h10 h14 h1C h20 h24 h28 => ?_⟩
  · rw [exec_eventsWrite hr, ← BitVec.setWidth_eq_extractLsb' (by decide)]
    rfl
  · rw [exec_eventEnableWrite hr, ← BitVec.setWidth_eq_extractLsb' (by decide)]
  · rw [exec_streamEventEnableWrite hr, ← BitVec.setWidth_eq_extractLsb' (by decide)]
  · rw [State.clearStreamEvents_get, hn]
    rfl
  · rw [State.clearStreamEvents_get, hn]
    rfl
  · exact (exec_registerWrite hr _ v).trans (State.writeStationControl_acts hr v)
  · exact (exec_registerWrite hr _ v).trans (State.writeCommand_acts hr _ _)
  · rw [exec_registerWrite hr, exec_profileAddressWrite hr]
    rfl
  · rw [exec_registerWrite hr, exec_eventsWrite hr]
    rfl
  · rw [exec_registerWrite hr, exec_eventEnableWrite hr]
    rfl
  · rw [exec_registerWrite hr, exec_streamEventsWrite hr]
    rfl
  · rw [exec_registerWrite hr, exec_streamEventEnableWrite hr]
    rfl
  · have hoffset : wordOffset offset = offset.toNat := Nat.mul_div_cancel' (Nat.dvd_of_mod_eq_zero hword)
    have hother : ∀ {k : BitVec 12}, offset ≠ k → offset.toNat ≠ k.toNat := fun h he =>
      h (BitVec.eq_of_toNat_eq he)
    rw [exec_registerWrite hr, hoffset, State.writeRegister_ignored v]
    simp only [List.forall_mem_cons]
    exact ⟨hother h4, hother hC, hother h10, hother h14, hother h1C, hother h20, hother h24, hother h28, nofun⟩

end Sys2Proof.Machine
end

section
/-! PROOFS. Reads of the register window: where a word is read, and the capture of an entry (R181, R182, R192). -/

namespace Sys2Proof.Machine

open Sys2Proof

section
variable {s : State}

/-! ### Where a word of the window is read (R181, R182) -/

theorem State.entryAt_eq_none {offset : Nat} (h : offset < 0x200 ∨ 0x400 ≤ offset) :
    s.entryAt offset = none := by
  rw [State.entryAt, if_neg (by omega), if_neg (by omega)]

/-- The words of a peer-table entry (R192, R200). -/
theorem State.entryAt_peer (k : Fin 32) {j : Nat} (hj : j < 8) :
    s.entryAt (0x200 + 8 * k.val + j) = some ⟨0x200 + 8 * k.val, s.peerWords k⟩ := by
  have hk : (0x200 + 8 * k.val + j - 0x200) / 8 = k.val := by omega
  rw [State.entryAt, if_pos (by omega)]
  simp only [hk, Fin.ofNat_val_eq_self]

/-- The words of a stream-status entry (R192, R200). -/
theorem State.entryAt_stream (n : Fin 16) {j : Nat} (hj : j < 16) :
    s.entryAt (0x300 + 16 * n.val + j) = some ⟨0x300 + 16 * n.val, s.streamWords n⟩ := by
  have hn : (0x300 + 16 * n.val + j - 0x300) / 16 = n.val := by omega
  rw [State.entryAt, if_neg (by omega), if_pos (by omega)]
  simp only [hn, Fin.ofNat_val_eq_self]

/-- An entry begins at the first word of a peer-table or a stream-status entry (R192). -/
theorem State.entryAt_base {offset : Nat} {live : Capture} (h : s.entryAt offset = some live) :
    (∃ k < 32, live.base = 0x200 + 8 * k) ∨ ∃ n < 16, live.base = 0x300 + 16 * n := by
  unfold State.entryAt at h
  split at h
  · cases h
    exact .inl ⟨_, by omega, rfl⟩
  · split at h
    · cases h
      exact .inr ⟨_, by omega, rfl⟩
    · cases h

theorem State.readWord_of_entry {offset : Nat} {live : Capture} (h : s.entryAt offset = some live) :
    s.readWord offset = s.entryWord live offset := by
  unfold State.readWord
  rw [h]

theorem State.readWord_slot (i : Fin 24) : s.readWord (0x100 + 4 * i.val) = s.slots[i].entry.window := by
  have hi : (0x100 + 4 * i.val - 0x100) / 4 = i.val := by omega
  unfold State.readWord
  rw [State.entryAt_eq_none (by omega)]
  dsimp only
  rw [dif_pos (by omega)]
  simp only [hi]
  rfl

/-- An offset outside the windows is that of a register, or names nothing (R181). -/
theorem State.readWord_register {offset : Nat}
    (h : offset < 0x100 ∨ 0x160 ≤ offset ∧ offset < 0x200 ∨ 0x400 ≤ offset) :
    s.readWord offset = s.registerWord offset := by
  unfold State.readWord
  rw [State.entryAt_eq_none (by omega)]
  exact dif_neg (by omega)

/-- An offset above the registers names none (R182). -/
theorem State.registerWord_unnamed {offset : Nat} (h : 0x030 ≤ offset) : s.registerWord offset = 0 := by
  rw [State.registerWord]
  repeat rw [if_neg (by omega)]

/-- A word that nothing names reads 0 (R182). -/
theorem State.readWord_unnamed {k : Nat} (h : 12 ≤ k ∧ k < 64 ∨ 88 ≤ k ∧ k < 128 ∨ 256 ≤ k ∧ k < 1024) :
    s.readWord (4 * k) = 0 := by
  rw [State.readWord_register (by omega), State.registerWord_unnamed (by omega)]

/-! ### Entries and their capture (R192) -/

/-- The first word of an entry is read live. -/
theorem State.entryWord_first {live : Capture} : s.entryWord live live.base = live.words.getD 0 0 := by
  rw [State.entryWord, if_pos rfl, Capture.wordAt, Nat.sub_self]

/-- The other words of the captured entry are read from the capture. -/
theorem State.entryWord_captured {live : Capture} {words : List Word} {j : Nat}
    (h : s.capture = some ⟨live.base, words⟩) (hj : 1 ≤ j) :
    s.entryWord live (live.base + 4 * j) = words.getD j 0 := by
  have hword : (live.base + 4 * j - live.base) / 4 = j := by omega
  rw [State.entryWord, if_neg (by omega), h]
  dsimp only
  rw [if_pos rfl, Capture.wordAt, hword]

/-- The words of an entry that is not captured are read live. -/
theorem State.entryWord_live {live : Capture} (h : ∀ c, s.capture = some c → c.base ≠ live.base) (j : Nat) :
    s.entryWord live (live.base + 4 * j) = live.words.getD j 0 := by
  have hlive : live.wordAt (live.base + 4 * j) = live.words.getD j 0 := by
    rw [Capture.wordAt, show (live.base + 4 * j - live.base) / 4 = j by omega]
  rw [State.entryWord, hlive]
  split
  · rfl
  · split
    · rename_i c hc
      exact if_neg (h c hc)
    · rfl

/-- A host read at an offset captures the entry whose first word it reads (R192). -/
theorem exec_entryCapture_first {offset : BitVec 12} {base : Nat} {words : List Word}
    (ho : wordOffset offset = base) (h : s.entryAt base = some ⟨base, words⟩) :
    exec (.entryCapture offset) s
      = .next { s with readData := words.getD 0 0, capture := some ⟨base, words⟩ } := by
  have hread : s.readWord base = words.getD 0 0 :=
    (State.readWord_of_entry h).trans (State.entryWord_first (live := ⟨base, words⟩))
  have hexec : exec (.entryCapture offset) s = .next (s.readAndCapture (wordOffset offset)) := rfl
  rw [hexec, ho, State.readAndCapture, h, hread]
  dsimp only
  rw [if_pos rfl]

/-- A host read anywhere else captures nothing (R192). -/
theorem exec_entryCapture_other {offset : BitVec 12}
    (h : ∀ live, s.entryAt (wordOffset offset) = some live → wordOffset offset ≠ live.base) :
    exec (.entryCapture offset) s = .next { s with readData := s.readWord (wordOffset offset) } := by
  have hcapture : (s.readAndCapture (wordOffset offset)).capture = s.capture := by
    unfold State.readAndCapture
    cases hentry : s.entryAt (wordOffset offset) with
    | none => rfl
    | some live => exact if_neg (h live hentry)
  have hread : s.readAndCapture (wordOffset offset) = { s with
      readData := s.readWord (wordOffset offset)
      capture := (s.readAndCapture (wordOffset offset)).capture } := rfl
  rw [hcapture] at hread
  exact congrArg Host.Outcome.next hread

/-- An offset at a word's first byte addresses that word (log 30). -/
theorem wordOffset_ofNat {base : Nat} (hbase : base < 4096) (hword : base % 4 = 0) :
    wordOffset (BitVec.ofNat 12 base) = base := by
  have hoffset : (BitVec.ofNat 12 base).toNat = base := by
    rw [BitVec.toNat_ofNat]
    exact Nat.mod_eq_of_lt hbase
  rw [wordOffset, hoffset]
  omega

end

/-- Settles O13. -/
theorem firstWordReadCapturesTheEntry : Obligations.FirstWordReadCapturesTheEntry := by
  intro s
  have hpeer : ∀ (k : Fin 32) (j : Nat), j < 2 → s.readWord (0x200 + 8 * k.val + 4 * j)
      = s.entryWord ⟨0x200 + 8 * k.val, s.peerWords k⟩ (0x200 + 8 * k.val + 4 * j) := fun k j hj =>
    State.readWord_of_entry (State.entryAt_peer k (by omega))
  have hstream : ∀ (n : Fin 16) (j : Nat), j < 4 → s.readWord (0x300 + 16 * n.val + 4 * j)
      = s.entryWord ⟨0x300 + 16 * n.val, s.streamWords n⟩ (0x300 + 16 * n.val + 4 * j) := fun n j hj =>
    State.readWord_of_entry (State.entryAt_stream n (by omega))
  have hsecond : ∀ k : Fin 32, 0x204 + 8 * k.val = 0x200 + 8 * k.val + 4 * 1 := fun k => by omega
  refine ⟨fun k words hc => ?_, fun k hc => ?_, fun n words j hc h1 h3 => ?_, fun n j hc h1 h3 => ?_,
    fun k => ⟨_, exec_entryCapture_first (wordOffset_ofNat (by omega) (by omega)) (State.entryAt_peer k (j := 0)
      (by omega)), rfl, rfl, rfl⟩,
    fun n => ⟨_, exec_entryCapture_first (wordOffset_ofNat (by omega) (by omega)) (State.entryAt_stream n (j := 0)
      (by omega)), rfl, rfl, rfl⟩,
    fun offset hnopeer hnostream => exec_entryCapture_other fun live hlive hbase => ?_⟩
  · rw [hsecond, hpeer k 1 (by omega)]
    exact State.entryWord_captured (live := ⟨0x200 + 8 * k.val, s.peerWords k⟩) hc le_rfl
  · rw [hsecond, hpeer k 1 (by omega)]
    exact State.entryWord_live (live := ⟨0x200 + 8 * k.val, s.peerWords k⟩) hc 1
  · rw [hstream n j (by omega)]
    exact State.entryWord_captured (live := ⟨0x300 + 16 * n.val, s.streamWords n⟩) hc h1
  · rw [hstream n j (by omega)]
    exact State.entryWord_live (live := ⟨0x300 + 16 * n.val, s.streamWords n⟩) hc j
  · rcases State.entryAt_base hlive with ⟨k, hk, hlast⟩ | ⟨n, hn, hlast⟩
    · exact hnopeer k hk (hbase.trans hlast)
    · exact hnostream n hn (hbase.trans hlast)

end Sys2Proof.Machine
end

section
/-! PROOFS. What the register window shows: registers, table windows, events and the interrupt (R36, R94, R138, R182, R191, R196, R199, R200). -/

namespace Sys2Proof.Machine

open Sys2Proof

section
variable {s : State}

/-! ### The registers, field by field (R199) -/

theorem State.statusWord_fields (s : State) : s.statusWord
    = (0#10 ++ BitVec.ofNat 2 s.joinAttempts ++ 0#1 ++ BitVec.ofNat 3 s.damageCount
        ++ s.faultStream ++ s.profileFault.code ++ 0#1 ++ s.refusalReason.code
        ++ s.membership.code : BitVec (10 + 2 + 1 + 3 + 4 + 4 + 1 + 3 + 4)) := by
  refine Eq.trans ?_ (place_word _)
  simp only [place_append]
  simp only [State.statusWord, place_zeros, BitVec.zero_or, BitVec.or_zero, Nat.zero_add, Nat.reduceAdd]
  simp only [BitVec.or_assoc, BitVec.or_comm, fields_left_comm]

theorem State.commandStatusWord_fields (s : State) : s.commandStatusWord
    = (0#25 ++ s.lastResult.code ++ 0#2 ++ BitVec.ofBool s.rejected
        ++ BitVec.ofBool s.command.isSome : BitVec (25 + 3 + 2 + 1 + 1)) := by
  refine Eq.trans ?_ (place_word _)
  simp only [place_append]
  simp only [State.commandStatusWord, placeBit, place_zeros, BitVec.zero_or, BitVec.or_zero, Nat.zero_add,
    Nat.reduceAdd]
  simp only [BitVec.or_assoc, BitVec.or_comm]

/-- TIME shows the stamp of the frame in progress (R196). -/
theorem State.stamp_fields (s : State) :
    (place 0 s.stamp : Word) = (0#8 ++ s.cycle ++ s.index : BitVec (8 + 16 + 8)) := by
  refine Eq.trans ?_ (place_word _)
  simp only [State.stamp, mkStamp, place_append, place_zeros, BitVec.zero_or]

/-! ### The windows, field by field (R200) -/

/-- The word of a slot-map entry that shows a claimant, with a state code and a candidate count. -/
theorem Claimant.window_fields (c : Claimant) (count : BitVec 2) (code : BitVec 4) :
    (place 0 code ||| place 4 count ||| c.window : Word)
      = (0#4 ++ c.label ++ 0#3 ++ c.station ++ c.priority ++ count ++ code
          : BitVec (4 + 12 + 3 + 5 + 2 + 2 + 4)) := by
  refine Eq.trans ?_ (place_word _)
  simp only [place_append]
  simp only [Claimant.window, place_zeros, BitVec.zero_or, BitVec.or_zero, Nat.zero_add, Nat.reduceAdd]
  simp only [BitVec.or_assoc, BitVec.or_comm, fields_left_comm]

/-- The same with the candidate count 0 that an entry which is not UNSURE shows (log 42). -/
theorem Claimant.window_fields_certain (c : Claimant) (code : BitVec 4) :
    (place 0 code ||| c.window : Word) = (0#4 ++ c.label ++ 0#3 ++ c.station ++ c.priority ++ 0#2 ++ code
      : BitVec (4 + 12 + 3 + 5 + 2 + 2 + 4)) := by
  rw [← Claimant.window_fields, place_zeros, BitVec.or_zero]

/-- An UNSURE entry shows the lowest-numbered candidate (R36). -/
theorem lowestCandidate_of_ne_nil {cs : List Claimant} (h : cs ≠ []) : ∃ c ∈ cs,
    (∀ c' ∈ cs, c.station.toNat ≤ c'.station.toNat) ∧ lowestCandidate cs = some c := by
  cases hc : lowestCandidate cs with
  | none => exact absurd ((bestBy_eq_none _ _).1 hc) h
  | some c =>
    refine ⟨c, bestBy_mem _ _ _ hc, fun c' hc' => ?_, rfl⟩
    have hrank := bestBy_ge _ _ _ hc c' hc'
    have hlt := c.station.isLt
    omega

theorem State.peerWords_fields (s : State) (k : Fin 32) : s.peerWords k =
    [(s.peers[k].lastHeard.getD 0 ++ 0#4
        ++ BitVec.ofNat 4 (heldCount s.slots (BitVec.ofNat 5 k.val)) ++ 0#3
        ++ BitVec.ofBool s.peers[k].standing.isSome ++ BitVec.ofNat 2 s.peers[k].unheard
        ++ s.peers[k].state.code : BitVec (16 + 4 + 4 + 3 + 1 + 2 + 2)),
     s.peers[k].standing.getD 0] := by
  refine congrArg (· :: _) (Eq.trans ?_ (place_word _))
  simp only [place_append]
  simp only [placeBit, place_zeros, BitVec.or_zero, Nat.zero_add, Nat.reduceAdd]
  simp only [BitVec.or_assoc, BitVec.or_comm, fields_left_comm]

theorem State.streamWords_fields {n : Fin 16} {st : Stream} (h : s.streams[n] = some st) : s.streamWords n =
    [(0#4 ++ st.defn.label ++ 0#5 ++ st.closeReason.code ++ 0#3 ++ BitVec.ofBool (!st.isSend)
        ++ st.state.code : BitVec (4 + 12 + 5 + 3 + 3 + 1 + 4)),
     (0#22 ++ BitVec.ofBool st.everFull ++ BitVec.ofBool st.awaiting ++ 0#3
        ++ BitVec.ofBool st.overrunSeen ++ BitVec.ofBool st.cueMiss
        ++ BitVec.ofBool st.latched ++ BitVec.ofBool st.starved ++ BitVec.ofBool st.stalled
        : BitVec (22 + 1 + 1 + 3 + 1 + 1 + 1 + 1 + 1)),
     (0#11 ++ BitVec.ofNat 5 (s.slotCountOf st) ++ 0#4 ++ st.shownSeq ++ st.ringIndex
        : BitVec (11 + 5 + 4 + 4 + 8)),
     0] := by
  unfold State.streamWords
  rw [h]
  dsimp only
  refine congr (congrArg List.cons (Eq.trans ?_ (place_word _)))
    (congr (congrArg List.cons (Eq.trans ?_ (place_word _)))
      (congrArg (· :: [0]) (Eq.trans ?_ (place_word _))))
  all_goals
    simp only [place_append]
    simp only [placeBit, place_zeros, BitVec.zero_or, BitVec.or_zero, Nat.zero_add, Nat.reduceAdd]
    simp only [BitVec.or_assoc, BitVec.or_comm, fields_left_comm]

/-- The first word of an entry is read as the entry stands (R192). -/
theorem State.readWord_peer (k : Fin 32) : s.readWord (0x200 + 8 * k.val) = (s.peerWords k).getD 0 0 :=
  (State.readWord_of_entry (State.entryAt_peer k (j := 0) (by decide))).trans
    (State.entryWord_first (live := ⟨0x200 + 8 * k.val, s.peerWords k⟩))

theorem State.readWord_stream (n : Fin 16) :
    s.readWord (0x300 + 16 * n.val) = (s.streamWords n).getD 0 0 :=
  (State.readWord_of_entry (State.entryAt_stream n (j := 0) (by decide))).trans
    (State.entryWord_first (live := ⟨0x300 + 16 * n.val, s.streamWords n⟩))

/-! ### Events and the interrupt (R191) -/

/-- Two words share a set bit. -/
theorem and_ne_zero_iff {w : Nat} (a b : BitVec w) :
    (a &&& b != 0) = true ↔ ∃ i < w, a.getLsbD i = true ∧ b.getLsbD i = true := by
  rw [bne_iff_ne, ne_eq, ← not_iff_not, not_not, BitVec.eq_of_getLsbD_eq_iff]
  simp

theorem place_zero {w : Nat} (x : BitVec w) : place 0 x = x.setWidth 32 := BitVec.shiftLeft_zero _

/-- A half word is read in the lower half of its word, below zeros. -/
theorem place_half (x : BitVec 16) : (∀ i < 16, (place 0 x).getLsbD i = x.getLsbD i)
    ∧ (place 0 x).extractLsb' 16 16 = 0 := by
  rw [place_zero]
  refine ⟨fun i hi => ?_, BitVec.eq_of_getLsbD_eq fun i hi => ?_⟩
  · rw [BitVec.getLsbD_setWidth, decide_eq_true (by omega), Bool.true_and]
  · rw [BitVec.getLsbD_extractLsb', BitVec.getLsbD_setWidth, BitVec.getLsbD_of_ge x _ (by omega)]
    simp

theorem State.streamEvents_get (s : State) (n : Fin 16) :
    s.streamEvents.getLsbD n.val = s.streams[n].any (·.event) := by simp [State.streamEvents]

/-- STREAM is the OR of the enabled bits of STREAM EVENTS (R191). -/
theorem State.streamFlag_iff (s : State) : s.streamFlag = true ↔ ∃ (n : Fin 16) (st : Stream),
    s.streams[n] = some st ∧ st.event = true ∧ s.streamEventEnable.getLsbD n.val = true := by
  rw [State.streamFlag, and_ne_zero_iff]
  constructor
  · rintro ⟨i, hi, hevent, henable⟩
    obtain ⟨st, hst, he⟩ := (Option.any_eq_true _ _).1 ((s.streamEvents_get ⟨i, hi⟩).symm.trans hevent)
    exact ⟨⟨i, hi⟩, st, hst, he, henable⟩
  · rintro ⟨n, st, hst, hevent, henable⟩
    refine ⟨n.val, n.isLt, ?_, henable⟩
    exact (s.streamEvents_get n).trans (by rw [hst]; exact hevent)

/-- EVENTS reads its stored bits below STREAM (R191, R199). -/
theorem State.eventsRead_stored (s : State) {i : Nat} (hi : i < 9) :
    s.eventsRead.getLsbD i = s.events.getLsbD i := by
  rw [State.eventsRead, BitVec.getLsbD_append, if_pos hi]

theorem State.eventsRead_stream (s : State) : s.eventsRead.getLsbD 9 = s.streamFlag := by
  rw [State.eventsRead, BitVec.getLsbD_append, if_neg (by decide)]
  exact BitVec.getLsbD_ofBool _ _ |>.trans (by simp)

/-! ### Short reads (R182) -/

/-- A read of fewer than four bytes returns the addressed bytes of the word (log 30). -/
theorem State.readBytes_get (s : State) (offset : Nat) {bytes i : Nat} (hb : bytes < 4) (hi : i < 32) :
    (s.readBytes offset bytes).getLsbD i = (decide (i < 8 * bytes)
      && (s.readWord (4 * (offset / 4))).getLsbD (8 * (offset % 4) + i)) := by
  have hmask : ∀ b < 4, ∀ j < 32, ((1#32 <<< (8 * b)) - 1).getLsbD j = decide (j < 8 * b) := by decide
  rw [State.readBytes, BitVec.getLsbD_and, hmask bytes hb i hi, BitVec.getLsbD_ushiftRight, Bool.and_comm]

end

/-- Settles O12, word by word. -/
theorem registersAndWindowsShowTheState : Obligations.RegistersAndWindowsShowTheState := by
  refine ⟨⟨rfl, rfl, rfl, rfl, rfl, rfl, rfl⟩, fun s => ?_⟩
  have hregister : ∀ offset : Nat, offset < 0x100 → s.readWord offset = s.registerWord offset :=
    fun offset h => State.readWord_register (.inl h)
  refine ⟨fun i hi => s.eventsRead_stored hi, ?_, and_ne_zero_iff _ _, (hregister 0x01C (by decide)).trans (place_zero _),
    fun n => ?_,
    hregister 0x000 (by decide), hregister 0x004 (by decide), hregister 0x010 (by decide),
    (hregister 0x020 (by decide)).trans (place_zero _), (hregister 0x028 (by decide)).trans (place_zero _), ?_,
    fun k hk => State.readWord_unnamed hk,
    fun offset bytes i hb hi => s.readBytes_get offset hb hi, hregister 0x00C (by decide),
    hregister 0x014 (by decide), (hregister 0x02C (by decide)).trans s.stamp_fields,
    (hregister 0x008 (by decide)).trans s.statusWord_fields,
    (hregister 0x018 (by decide)).trans s.commandStatusWord_fields, fun i => ?_,
    fun k => ⟨s.peerWords_fields k, State.readWord_peer k⟩, fun n => ⟨State.readWord_stream n, ?_⟩⟩
  · rw [State.eventsRead_stream, State.streamFlag_iff]
  · rw [hregister 0x024 (by decide)]
    exact ((place_half _).1 n.val n.isLt).trans (s.streamEvents_get n)
  · rw [hregister 0x024 (by decide)]
    exact (place_half _).2
  · dsimp only
    rw [State.readWord_slot i]
    cases s.slots[i].entry with
    | unknown => rfl
    | free => rfl
    | held h damage => exact h.window_fields_certain 2
    | claimPending c prior => exact c.bidder.window_fields_certain 3
    | releasePending h => exact h.window_fields_certain 4
    | unsure cs =>
      intro hne
      obtain ⟨c, hc, hleast, hlowest⟩ := lowestCandidate_of_ne_nil hne
      refine ⟨c, hc, hleast, ?_⟩
      rw [Entry.window, hlowest]
      exact c.window_fields _ 5
  · cases hst : s.streams[n] with
    | none =>
      dsimp only
      rw [State.streamWords, hst]
    | some st => exact State.streamWords_fields hst

end Sys2Proof.Machine
end

section
/-! PROOFS. The state after power-on: its register window, its tables and its invariants (R35, R94, R120, R181, R182, R193). -/

namespace Sys2Proof.Machine

open Sys2Proof

/-! ### The tables (R35, R94, R120) -/

theorem reset_slot (i : Fin 24) : State.reset.slots[i] = Slot.reset := by simp [State.reset]

theorem reset_entry (i : Fin 24) : State.reset.slots[i].entry = .unknown := by rw [reset_slot]; rfl

theorem reset_peer (k : Fin 32) : State.reset.peers[k] = Peer.never := by simp [State.reset]

theorem reset_stream (n : Fin 16) : State.reset.streams[n] = none := by simp [State.reset]

/-- Of the entries after power-on none meets a condition that UNKNOWN does not meet (R35). -/
theorem reset_indicesWhere {p : Entry → Bool} (h : p .unknown = false) :
    (indicesWhere fun i => p State.reset.slots[i].entry) = [] :=
  (indicesWhere_eq_nil _).2 fun i => by rw [reset_entry, h]

/-! ### The register window (R181, R182, R193) -/

theorem reset_peerWords (k : Fin 32) : State.reset.peerWords k = [0, 0] := by
  have hcount : heldCount State.reset.slots (BitVec.ofNat 5 k.val) = 0 :=
    congrArg List.length (reset_indicesWhere (p := Entry.heldBy _) rfl)
  rw [State.peerWords, reset_peer, hcount]
  decide

theorem reset_streamWords (n : Fin 16) : State.reset.streamWords n = [0, 0, 0, 0] := by
  rw [State.streamWords, reset_stream]

/-- After power-on no entry is captured, so the window is read live (R192, R193). -/
theorem reset_readWord_peer (k : Fin 32) {j : Nat} (hj : j < 2) :
    State.reset.readWord (0x200 + 8 * k.val + 4 * j) = 0 := by
  rw [State.readWord_of_entry (State.entryAt_peer k (by omega))]
  refine (State.entryWord_live (s := State.reset) (live := ⟨0x200 + 8 * k.val, _⟩) nofun j).trans ?_
  rw [reset_peerWords]
  rcases j with _ | _ | j
  all_goals rfl

theorem reset_readWord_stream (n : Fin 16) {j : Nat} (hj : j < 4) :
    State.reset.readWord (0x300 + 16 * n.val + 4 * j) = 0 := by
  rw [State.readWord_of_entry (State.entryAt_stream n (by omega))]
  refine (State.entryWord_live (s := State.reset) (live := ⟨0x300 + 16 * n.val, _⟩) nofun j).trans ?_
  rw [reset_streamWords]
  rcases j with _ | _ | _ | _ | j
  all_goals rfl

theorem reset_readWord {k : Nat} (hk : k < 1024) :
    State.reset.readWord (4 * k) = if k = 0 then 0x57440330#32 else 0 := by
  have hregisters : ∀ j < 12, State.reset.readWord (4 * j) = if j = 0 then 0x57440330#32 else 0 := by
    decide
  by_cases hlow : k < 12
  · exact hregisters k hlow
  rw [if_neg (by omega)]
  by_cases hslot : 64 ≤ k ∧ k < 88
  · have hoffset : 4 * k = 0x100 + 4 * (k - 64) := by omega
    rw [hoffset]
    refine (State.readWord_slot ⟨k - 64, by omega⟩).trans ?_
    rw [reset_entry]
    rfl
  by_cases hpeer : 128 ≤ k ∧ k < 192
  · have hoffset : 4 * k = 0x200 + 8 * ((k - 128) / 2) + 4 * ((k - 128) % 2) := by omega
    rw [hoffset]
    exact reset_readWord_peer ⟨(k - 128) / 2, by omega⟩ (by omega)
  by_cases hstream : 192 ≤ k ∧ k < 256
  · have hoffset : 4 * k = 0x300 + 16 * ((k - 192) / 4) + 4 * ((k - 192) % 4) := by omega
    rw [hoffset]
    exact reset_readWord_stream ⟨(k - 192) / 4, by omega⟩ (by omega)
  exact State.readWord_unnamed (by omega)

/-- Settles O2. -/
theorem resetReadsZeroButIdent : Obligations.ResetReadsZeroButIdent :=
  ⟨fun _ => reset_readWord, rfl, fun i => ⟨reset_entry i, by rw [reset_slot]; rfl⟩,
    fun k => by rw [reset_peer]; rfl, reset_stream, rfl, rfl, rfl, rfl, rfl, rfl, rfl, rfl, rfl, rfl⟩

/-! ### The invariants -/

/-- Settles O60: no entry after power-on is other than UNKNOWN, no stream is defined, and every count is 0. -/
theorem invariantsHoldAtReset : Obligations.InvariantsHoldAtReset := by
  have hheld : ∀ k, holdingCount State.reset.slots k = 0 := fun k =>
    congrArg List.length (reset_indicesWhere (p := Entry.countsFor k) rfl)
  have hreverts : ∀ k, (indicesWhere fun i => Sys2Proof.Entry.revertsTo k State.reset.slots[i].entry).length = 0 :=
    fun k => congrArg List.length (reset_indicesWhere (p := Sys2Proof.Entry.revertsTo k) rfl)
  refine ⟨⟨fun _ => ⟨rfl, rfl, rfl, rfl, rfl⟩, fun _ => rfl, fun _ => ⟨rfl, rfl, rfl⟩⟩, fun _ => rfl,
    fun i => ?_, fun i j x hx => ?_, fun i hi => ?_, fun k => ?_, fun k => ?_, fun n st hst => ?_,
    ⟨nofun, Nat.zero_le _, nofun, nofun, nofun, Nat.zero_le _, fun _ => Nat.zero_le _, Nat.zero_le _⟩,
    fun n st hst => ?_⟩
  · rw [reset_entry]
    trivial
  · rw [reset_entry] at hx
    cases hx
  · rw [reset_entry] at hi
    cases hi
  · rw [hheld]
    exact Nat.zero_le _
  · rw [hreverts]
    exact Nat.zero_le _
  · rw [reset_stream] at hst
    cases hst
  · rw [reset_stream] at hst
    cases hst

end Sys2Proof.Machine
end

section
/-! PROOFS. A profile that fails a check, and a bus error on a profile read (R96, R102, R185 to R187). -/

namespace Sys2Proof.Machine

open Sys2Proof

/-! ### Entry to REFUSED (R102, R187) -/

/-- Entry to REFUSED is a command taken by a station that is REFUSED already, with the profile fault and the
command registers as they were. -/
theorem State.enterRefused_takes (s : State) (reason : RefusalReason) :
    ∃ u : State, s.enterRefused reason = u.takeCommand ∧ u.membership = .refused ∧ u.command = s.command
      ∧ u.standing = s.standing ∧ u.commandArgument = s.commandArgument ∧ u.profileFault = s.profileFault
      ∧ u.faultStream = s.faultStream := by
  refine ⟨_, rfl, rfl, ?_⟩
  simp [State.clearMap, State.dropStreams, State.dropClaims, State.emptyArbiter, State.stopTrunk]

/-- Entry to REFUSED keeps the profile fault and its stream (R186), and leaves no command pending (R187). -/
theorem State.enterRefused_profile (s : State) (reason : RefusalReason) :
    (s.enterRefused reason).profileFault = s.profileFault
      ∧ (s.enterRefused reason).faultStream = s.faultStream ∧ (s.enterRefused reason).command = none := by
  obtain ⟨u, hentered, hm, -, -, -, hfault, hstream⟩ := s.enterRefused_takes reason
  obtain ⟨standing, result, events, htaken, -⟩ :=
    State.takeCommand_of_not_member (show u.membership ≠ .member by rw [hm]; decide)
  rw [hentered, htaken]
  exact ⟨hfault, hstream, rfl⟩

/-- A profile that is refused shows its fault, and the stream it concerns (R102, R186). -/
theorem State.refuseProfile_refuses (s : State) (f : ProfileFault) {n : Nat} (hn : n < 16) :
    RefusedFor .profile (s.refuseProfile f n) ∧ (s.refuseProfile f n).profileFault = f
      ∧ (s.refuseProfile f n).faultStream.toNat = n := by
  obtain ⟨u, hu⟩ : ∃ u : State, u = { s with profileFault := f, faultStream := BitVec.ofNat 4 n } := ⟨_, rfl⟩
  obtain ⟨hfault, hstream, -⟩ := u.enterRefused_profile .profile
  have hrefused : s.refuseProfile f n = u.enterRefused .profile := by rw [hu]; rfl
  rw [hrefused]
  refine ⟨(u.enterRefused_refuses .profile).1, hfault.trans (by rw [hu]), ?_⟩
  rw [hstream, hu]
  exact Nat.mod_eq_of_lt hn

/-! ### The first check that fails (R186) -/

/-- The stream faults are looked for in ascending order. -/
theorem firstStreamFault_of_first {ws : List Word} {n : Nat} (hfault : streamFault ws n ≠ .none) (fuel k : Nat)
    (hk : k ≤ n) (hlt : n < k + fuel) (hbefore : ∀ m, k ≤ m → m < n → streamFault ws m = .none) :
    firstStreamFault ws fuel k = some (n, streamFault ws n) := by
  induction fuel generalizing k with
  | zero => omega
  | succ fuel ih =>
    rw [firstStreamFault]
    rcases hk.eq_or_lt with rfl | hk
    · cases hf : streamFault ws k with
      | none => exact absurd hf hfault
      | _ => rfl
    · rw [hbefore k le_rfl hk]
      exact ih (k + 1) hk (by omega) fun m hm => hbefore m (by omega)

/-- The fault `f` of a whole profile with stream `n` is the first of the checks that fails, in the order of
R186, after those of the header words. -/
def FirstFault (ws : List Word) (f : ProfileFault) (n : Nat) : Prop :=
  profileSum ws ≠ 0 ∧ f = .check ∧ n = 0
    ∨ profileSum ws = 0
      ∧ (31 < profileStation ws ∧ f = .station ∧ n = 0
        ∨ profileStation ws ≤ 31 ∧ n < profileCount ws ∧ streamFault ws n = f ∧ f ≠ .none
          ∧ ∀ m < n, streamFault ws m = .none)

/-- What the checks of a whole profile answer where one fails (R186). -/
theorem profileCheck_of_fault {ws : List Word} {f : ProfileFault} {n : Nat} (header : headerFault ws = .none)
    (h : FirstFault ws f n) : profileCheck ws = (f, n) ∧ f ≠ .none := by
  have hheader : ¬ headerFault ws ≠ .none := not_not.2 header
  rw [profileCheck, if_neg hheader]
  rcases h with ⟨hsum, rfl, rfl⟩ | ⟨hsum, ⟨hstation, rfl, rfl⟩ | ⟨hstation, hn, rfl, hf, hbefore⟩⟩
  · exact ⟨if_pos hsum, nofun⟩
  · rw [if_neg (not_not.2 hsum)]
    exact ⟨if_pos hstation, nofun⟩
  · have hfirst := firstStreamFault_of_first hf (profileCount ws) 0 (Nat.zero_le n) (by omega)
      fun m _ => hbefore m
    rw [if_neg (not_not.2 hsum), if_neg (not_lt.2 hstation), hfirst]
    exact ⟨rfl, hf⟩

/-- A profile with valid header words defines at most 16 streams (R186). -/
theorem profileCount_le {ws : List Word} (h : headerFault ws = .none) : profileCount ws ≤ 16 := by
  unfold headerFault at h
  split at h
  · cases h
  · split at h
    · cases h
    · rename_i hcount
      omega

theorem FirstFault.lt_streams {ws : List Word} {f : ProfileFault} {n : Nat} (header : headerFault ws = .none)
    (h : FirstFault ws f n) : n < 16 := by
  have hcount := profileCount_le header
  rcases h with ⟨-, -, rfl⟩ | ⟨-, ⟨-, -, rfl⟩ | ⟨-, hn, -⟩⟩ <;> omega

/-! ### The profile reads (R96, R185) -/

section
variable {s : State} {words : List Word}

/-- A profile whose header words fail a check is refused as soon as they have been read (R185, R186). -/
theorem State.profileRead_bad_header (hm : s.membership = .loading) (hne : s.fetched ++ words ≠ [])
    (header : headerFault (s.fetched ++ words) ≠ .none) : s.profileRead words
      = ({ s with fetched := s.fetched ++ words } : State).refuseProfile
          (headerFault (s.fetched ++ words)) 0 := by
  rw [State.profileRead, if_pos hm, State.checkFetch]
  simp only [hne, header, ne_eq, not_false_eq_true, if_true, if_false]

/-- A fetch that is not complete goes on (R185). -/
theorem State.profileRead_goes_on (hm : s.membership = .loading) (hne : s.fetched ++ words ≠ [])
    (header : headerFault (s.fetched ++ words) = .none)
    (length : (s.fetched ++ words).length < profileLength (s.fetched ++ words)) :
    s.profileRead words = { s with fetched := s.fetched ++ words } := by
  rw [State.profileRead, if_pos hm, State.checkFetch]
  simp only [hne, header, length, ne_eq, not_true_eq_false, if_true, if_false]

/-- A whole profile that fails a check is refused (R186). -/
theorem State.profileRead_bad_profile {f : ProfileFault} {n : Nat} (hm : s.membership = .loading)
    (hne : s.fetched ++ words ≠ []) (header : headerFault (s.fetched ++ words) = .none)
    (length : (s.fetched ++ words).length = profileLength (s.fetched ++ words))
    (check : profileCheck (s.fetched ++ words) = (f, n)) (hf : f ≠ .none) : s.profileRead words
      = ({ s with fetched := s.fetched ++ words } : State).refuseProfile f n := by
  have hwhole : ¬ (s.fetched ++ words).length < profileLength (s.fetched ++ words) := length.not_lt
  have htake : (s.fetched ++ words).take (profileLength (s.fetched ++ words)) = s.fetched ++ words := by
    rw [← length, List.take_length]
  rw [State.profileRead, if_pos hm, State.checkFetch]
  simp only [hne, header, hwhole, htake, check, ne_eq, not_true_eq_false, if_false]

/-- The read at which the first check fails refuses the station with that fault (R186). -/
theorem State.profileRead_refuses {f : ProfileFault} {n : Nat} (hm : s.membership = .loading)
    (hne : s.fetched ++ words ≠ [])
    (hf : headerFault (s.fetched ++ words) = f ∧ f ≠ .none ∧ n = 0
      ∨ headerFault (s.fetched ++ words) = .none
        ∧ (s.fetched ++ words).length = profileLength (s.fetched ++ words)
        ∧ FirstFault (s.fetched ++ words) f n) :
    RefusedFor .profile (s.profileRead words) ∧ (s.profileRead words).profileFault = f
      ∧ (s.profileRead words).faultStream.toNat = n := by
  rcases hf with ⟨rfl, hf, rfl⟩ | ⟨header, length, hfault⟩
  · rw [State.profileRead_bad_header hm hne hf]
    exact State.refuseProfile_refuses _ _ (by decide)
  · obtain ⟨check, hf⟩ := profileCheck_of_fault header hfault
    rw [State.profileRead_bad_profile hm hne header length check hf]
    exact State.refuseProfile_refuses _ _ (hfault.lt_streams header)

end

/-- Settles O41. -/
theorem badProfileRefuses : Obligations.BadProfileRefuses := by
  intro words s hm hne
  refine ⟨fun f n hf => ?_, fun header length => congrArg _ (State.profileRead_goes_on hm hne header length), ?_⟩
  · obtain ⟨hrefused, hfault, hstream⟩ := State.profileRead_refuses hm hne hf
    exact ⟨_, rfl, hrefused.membership, hrefused.refusalReason, hfault, hstream, hrefused.event,
      hrefused.streams⟩
  · have herror : s.profileBusError = s.enterRefused .profileFault := if_pos hm
    obtain ⟨hrefused, -⟩ := s.enterRefused_refuses .profileFault
    obtain ⟨hfault, -, hcommand⟩ := s.enterRefused_profile .profileFault
    exact ⟨_, congrArg Host.Outcome.next herror, hrefused.membership, hrefused.refusalReason, hfault, hrefused.event, hcommand⟩

end Sys2Proof.Machine
end

section
/-! PROOFS. The turn of the master port, and the order of the profile reads (R183, R185). -/

namespace Sys2Proof.Machine

open Sys2Proof

section
variable {s : State} {n : Fin 16} {st : Stream} {op : BusOp}

/-! ### The next transaction in turn (R183) -/

/-- The stream whose turn comes `i`-th is `i` places after the one served last, going round at 15. -/
theorem State.inTurn_eq_iff (s : State) (i n : Fin 16) : s.inTurn i = n ↔ i = n - s.portLast - 1 := by
  rw [State.inTurn]
  constructor
  · rintro rfl
    abel
  · rintro rfl
    abel

/-- The stream served next is the first in turn that has a transaction (R183). -/
theorem State.nextServed_eq_some_iff (s : State) (n : Fin 16) : s.nextServed = some n
    ↔ s.streams[n].any (·.op.isSome) = true
      ∧ ∀ m : Fin 16, (m - s.portLast - 1).val < (n - s.portLast - 1).val →
          s.streams[m].any (·.op.isSome) = false := by
  have hturn : ∀ m, s.inTurn (m - s.portLast - 1) = m := fun m => (s.inTurn_eq_iff _ m).2 rfl
  rw [State.nextServed, List.find?_map, ← Fin.find?_eq_find?_finRange, Option.map_eq_some_iff]
  simp only [Fin.find?_eq_some_iff, State.inTurn_eq_iff]
  constructor
  · rintro ⟨i, ⟨hready, hearlier⟩, rfl⟩
    refine ⟨by simpa only [Function.comp, hturn] using hready, fun m hm => ?_⟩
    have h := hearlier (m - s.portLast - 1) hm
    rwa [Function.comp, hturn] at h
  · rintro ⟨hready, hearlier⟩
    refine ⟨n - s.portLast - 1, ⟨by simpa only [Function.comp, hturn] using hready, fun j hj => ?_⟩, rfl⟩
    refine hearlier (s.inTurn j) ?_
    rwa [← (s.inTurn_eq_iff j _).1 rfl]

theorem State.nextServed_congr {t : State} (last : t.portLast = s.portLast) (streams : t.streams = s.streams) :
    t.nextServed = s.nextServed := by
  unfold State.nextServed State.inTurn
  rw [last, streams]

/-- A port that serves a transaction goes on serving it, and one that serves none takes the next (R183). -/
theorem State.pump_portServing (s : State) : s.pump.portServing
    = if s.portServing.isSome then s.portServing else s.pump.nextServed := by
  have hnext : s.issueAll.nextServed = s.pump.nextServed :=
    (State.nextServed_congr (State.grant_portLast _) (State.grant_streams _)).symm
  have hserving : s.issueAll.portServing = s.portServing := State.mapStreams_portServing s _
  have hgrant : s.pump = s.issueAll.grant := rfl
  rw [← hnext, ← hserving, hgrant, State.grant, apply_ite State.portServing]

theorem State.pump_servesInTurn (h : s.portServing = none) : ServesInTurn s.pump := by
  intro n
  rw [State.pump_portServing, h]
  exact s.pump.nextServed_eq_some_iff n

/-! ### The end of a transaction (R183) -/

/-- The transaction of stream `n` has ended in the state `t`: the port serves nothing, and that stream was served
last. -/
def Freed (n : Fin 16) (t : State) : Prop := t.portServing = none ∧ t.portLast = n

theorem Freed.pump {t : State} (h : Freed n t) : t.pump.portLast = n ∧ ServesInTurn t.pump :=
  ⟨(State.pump_portLast t).trans h.2, State.pump_servesInTurn h.1⟩

theorem State.endOp_freed (s : State) (n : Fin 16) : Freed n (s.endOp n) := ⟨rfl, rfl⟩

/-- The end of a read frees the port, whatever becomes of its data (R151, R168). -/
theorem State.endRead_freed {f : BusKind → Option (Stream → Stream)} {g : Stream → Stream}
    (h : Serves s n st op) (hg : f op.kind = some g) : Freed n (s.endRead st.isSend f) := by
  cases hd : op.discard with
  | true =>
    rw [State.endRead_discarded s n st op f g h hg hd]
    exact s.endOp_freed n
  | false =>
    rw [State.endRead_of_serves s n st op f g h hg hd]
    exact s.endOp_freed n

/-- A bus error frees the port (R153, R169). -/
theorem State.busError_freed (h : Serves s n st op) : Freed n (s.busError st.isSend) := by
  cases ha : op.discard && st.isSend with
  | true =>
    obtain ⟨hd, hs⟩ := (Bool.and_eq_true _ _).mp ha
    rw [hs, State.busError_of_discarded h hs hd]
    exact s.endOp_freed n
  | false =>
    rw [State.busError_of_serves h ha]
    simp [Freed, State.endOp, State.closeOne]

end

/-! ### The profile reads (R185) -/

theorem State.nextProfileRead_eq (s : State) : s.nextProfileRead = (if s.membership = .loading then
      some (s.profileAddress + 4 * BitVec.ofNat 32 (s.fetched.length % 4096),
        if s.fetched.length < 2 then 2 - s.fetched.length
        else 3 + 4 * profileCount s.fetched - s.fetched.length)
    else none) := by
  simp only [State.nextProfileRead, place_wordOffset, profileLength, apply_ite (· - s.fetched.length)]

/-- Settles O51. -/
theorem masterPortServesInTurn : Obligations.MasterPortServesInTurn := by
  refine ⟨fun s => ⟨fun h => (State.pump_portServing s).trans (if_pos h), State.pump_servesInTurn, State.pump_portLast s⟩,
    fun w s n st op h hk => ?_, fun s n st op h => ?_, State.nextProfileRead_eq⟩
  · cases hs : st.isSend with
    | true =>
      have hfreed := State.endRead_freed (f := sendDescriptorEnd w s.stamp) h (by rw [hk]; rfl)
      rw [hs] at hfreed
      exact ⟨_, rfl, hfreed.pump⟩
    | false =>
      have hfreed := State.endRead_freed (f := listenDescriptorEnd w) h (by rw [hk]; rfl)
      rw [hs] at hfreed
      exact ⟨_, rfl, hfreed.pump⟩
  · have hfreed := State.busError_freed h
    cases hs : st.isSend <;> rw [hs] at hfreed <;> exact ⟨_, rfl, hfreed.pump⟩

end Sys2Proof.Machine
end

section
/-! PROOFS. The answer to a command, as the registers of the command interface show it (R187, R190). -/

namespace Sys2Proof.Machine

open Sys2Proof

/-! ### The registers of the command interface (R187, R190) -/

/-- What the command interface shows: the pending command and its argument, the status, the standing word and
EVENTS (R187, R190, R191). -/
def State.commandSide (s : State) :
    Option Command × Word × Bool × CommandResult × Option Word × BitVec 9 :=
  (s.command, s.commandArgument, s.rejected, s.lastResult, s.standing, s.events)

@[simp] theorem State.mapStreams_commandSide (s : State) (g : Fin 16 → Stream → Stream) :
    (s.mapStreams g).commandSide = s.commandSide := by simp [State.commandSide]

@[simp] theorem State.pump_commandSide (s : State) : s.pump.commandSide = s.commandSide := by
  simp [State.commandSide]

@[simp] theorem State.closeOne_commandSide (s : State) (reason : CloseReason) (n : Fin 16) :
    (s.closeOne reason n).commandSide = s.commandSide := by simp [State.commandSide, State.closeOne]

@[simp] theorem State.finishClosing_commandSide (s : State) : s.finishClosing.commandSide = s.commandSide := by
  simp [State.finishClosing]

@[simp] theorem State.chooseBid_commandSide (s : State) : s.chooseBid.commandSide = s.commandSide :=
  State.chooseBid_keeps (fun t => t.commandSide = s.commandSide)
    (fun t n h => (t.closeOne_commandSide _ n).trans h) (fun _ _ h => h) s rfl

@[simp] theorem State.chooseAtHeader_commandSide (s : State) (f : Frame) :
    (s.chooseAtHeader f).commandSide = s.commandSide := by
  unfold State.chooseAtHeader
  split
  · exact s.chooseBid_commandSide
  · rfl

@[simp] theorem State.heedCues_commandSide (s : State) (bits : BitVec 4) (n : Option (Fin 16)) :
    (s.heedCues bits n).commandSide = s.commandSide := by
  unfold State.heedCues
  split <;> simp [State.commandSide]

@[simp] theorem State.headerEnd_commandSide (s : State) (f : Frame) :
    (s.headerEnd f).commandSide = s.commandSide := by
  rw [State.headerEnd_eq]
  rfl

@[simp] theorem State.mapHeader_commandSide (s : State) (h : Header) :
    (s.mapHeader h).commandSide = s.commandSide := by
  simp [State.commandSide, State.mapHeader, State.handleHeader]

@[simp] theorem State.missMap_commandSide (s : State) (arb : List Halves) :
    (s.missMap arb).commandSide = s.commandSide := by
  simp [State.commandSide, State.missMap, State.countWin]

@[simp] theorem State.oweVeto_commandSide (s : State) : s.oweVeto.commandSide = s.commandSide := by
  unfold State.oweVeto
  split <;> simp [State.commandSide]

/-- The command interface once the command `c` has been answered (R187, R190). -/
def State.answered (s : State) (c : Command) :
    Option Command × Word × Bool × CommandResult × Option Word × BitVec 9 :=
  (none, s.commandArgument, s.rejected, s.judgeCommand c,
    if c.code = .setStanding ∧ s.judgeCommand c = .done then some s.commandArgument else s.standing,
    s.events ||| 0x100)

/-- What a command does that is answered DONE shows in the standing word alone (R190). -/
theorem State.performCommand_commandSide (s : State) (c : Command) : (s.performCommand c).commandSide
    = (s.command, s.commandArgument, s.rejected, s.lastResult,
        if c.code = .setStanding then some s.commandArgument else s.standing, s.events) := by
  obtain ⟨code, n⟩ := c
  cases code with
  | openStream =>
    unfold State.performCommand
    dsimp only
    cases s.streams[n.toFin] <;> rfl
  | closeStream => exact s.closeOne_commandSide .host n.toFin
  | setStanding => rfl

theorem State.takeCommand_commandSide {s : State} {c : Command} (hc : s.command = some c) :
    s.takeCommand.commandSide = s.answered c := by
  have hperform := s.performCommand_commandSide c
  rw [State.takeCommand, hc]
  by_cases hdone : s.judgeCommand c = .done
  · obtain ⟨u, hu⟩ : ∃ u, u = s.performCommand c := ⟨_, rfl⟩
    have htaken : s.takeThis c = { u with command := none, lastResult := .done }.raise .commandDone := by
      rw [State.takeThis, hdone, if_pos rfl, hu]
    simp only [← hu, State.commandSide, Prod.mk.injEq] at hperform
    obtain ⟨-, hargument, hrejected, -, hstanding, hevents⟩ := hperform
    dsimp only
    rw [htaken, State.answered, hdone]
    simp only [State.commandSide, State.raise, hargument, hrejected, hstanding, hevents, and_true]
    rfl
  · dsimp only
    rw [State.takeThis_refused hdone, State.answered, if_neg fun h => hdone h.2]
    rfl

/-- The order of the command and the census cell does not show in the command interface (log 7). -/
@[simp] theorem State.commandAndCell_commandSide (s : State) (f : Frame) :
    (s.commandAndCell f).commandSide = s.takeCommand.commandSide := by
  have hcensus : s.driveCensus.takeCommand.commandSide = s.takeCommand.commandSide := by
    cases hc : s.command with
    | none => simp only [State.takeCommand, hc, show s.driveCensus.command = none from hc]; rfl
    | some c =>
      rw [State.takeCommand_commandSide hc, State.takeCommand_commandSide (s := s.driveCensus) hc]
      rfl
  unfold State.commandAndCell
  split
  · rfl
  · split
    · dsimp only
      split
      · rfl
      · exact hcensus
    · rfl

/-! ### The answer (R187, R190) -/

/-- The state `t` shows what a station in the state `s` answers, in the state `u` in which it takes the pending
command, and nothing where none is pending (R187, R190). -/
structure Answered (s u t : State) : Prop where
  command : t.command = none
  rejected : t.rejected = s.rejected
  quiet : s.command = none → t.lastResult = s.lastResult ∧ t.standing = s.standing
    ∧ t.events.getLsbD 8 = s.events.getLsbD 8
  result : ∀ c, s.command = some c → t.lastResult = u.judgeCommand c
  event : ∀ c, s.command = some c → t.events.getLsbD 8 = true
  standing : ∀ c, s.command = some c →
    t.standing = if c.code = .setStanding then some s.commandArgument else s.standing

/-- Outside OFFLINE a STANDING command is answered DONE (R190). -/
theorem State.judgeCommand_standing {s : State} (hm : s.membership ≠ .offline) {c : Command}
    (hc : c.code = .setStanding) : s.judgeCommand c = .done := by
  rw [State.judgeCommand, hc]
  exact if_neg hm

/-- The command is taken in `u`, which shows the command interface of `s`, and `t` shows what is left of it. -/
theorem answered_of_commandSide {s u t : State} (hm : u.membership ≠ .offline)
    (before : u.commandSide = s.commandSide) (after : t.commandSide = u.takeCommand.commandSide) :
    Answered s u t := by
  cases hc : u.command with
  | none =>
    have hsame : t.commandSide = s.commandSide := by
      rw [after, ← before, State.takeCommand, hc]
    simp only [State.commandSide, Prod.mk.injEq] at before hsame
    obtain ⟨hcommand, -⟩ := before
    obtain ⟨hnone, -, hrejected, hresult, hstanding, hevents⟩ := hsame
    have hpending : s.command = none := hcommand.symm.trans hc
    have hnever : ∀ c, s.command ≠ some c := fun c h => by rw [hpending] at h; cases h
    exact ⟨hnone.trans hpending, hrejected, fun _ => ⟨hresult, hstanding, by rw [hevents]⟩,
      fun c h => absurd h (hnever c), fun c h => absurd h (hnever c), fun c h => absurd h (hnever c)⟩
  | some c =>
    rw [State.takeCommand_commandSide hc, State.answered] at after
    simp only [State.commandSide, Prod.mk.injEq] at before after
    obtain ⟨hcommand, hargument, hrejected, -, hstanding, hevents⟩ := before
    obtain ⟨hnone, -, hrejected', hresult, hstanding', hevents'⟩ := after
    have hpending : s.command = some c := hcommand.symm.trans hc
    have hthis : ∀ {d}, s.command = some d → d = c := fun h => Option.some.inj (h.symm.trans hpending)
    refine ⟨hnone, hrejected'.trans hrejected, fun h => ?_, fun d hd => ?_, fun d _ => ?_, fun d hd => ?_⟩
    · rw [hpending] at h
      cases h
    · rw [hthis hd, hresult]
    · rw [hevents', BitVec.getLsbD_or]
      exact Bool.or_true _
    · rw [hthis hd, hstanding', hargument, hstanding]
      exact if_congr (and_iff_left_of_imp (State.judgeCommand_standing hm)) rfl rfl

/-- What the answer is outside MEMBER (R188 to R190). -/
theorem Answered.of_not_member {s u t : State} (h : Answered s u t) (hm : u.membership ≠ .member)
    (ho : u.membership ≠ .offline) {c : Command} (hc : s.command = some c) :
    t.lastResult = if c.code = .setStanding then .done else .notMember := by
  rw [h.result c hc]
  split
  · rename_i hcode
    exact State.judgeCommand_standing ho hcode
  · rename_i hcode
    exact State.judgeCommand_of_not_member hm hcode

end Sys2Proof.Machine
end

section
/-! PROOFS. A command pending at entry to REFUSED is taken there (R97, R98, R102, R187). -/

namespace Sys2Proof.Machine

open Sys2Proof

/-! ### Entry to REFUSED with a command pending (R102, R187) -/

/-- A station in the state `s` that enters REFUSED takes the pending command there, as `t` shows (R187). -/
structure TakenInRefused (s t : State) (c : Command) : Prop where
  command : t.command = none
  event : t.events.getLsbD 8 = true
  result : t.lastResult = if c.code = .setStanding then .done else .notMember
  standing : t.standing = if c.code = .setStanding then some s.commandArgument else s.standing

/-- What the answer to a command in REFUSED is made of (R187, R190). -/
def State.pendingSide (s : State) : Option Command × Option Word × Word :=
  (s.command, s.standing, s.commandArgument)

theorem State.enterRefused_answers {s u t : State} {reason : RefusalReason} {c : Command}
    (before : u.pendingSide = s.pendingSide) (after : t.commandSide = (u.enterRefused reason).commandSide)
    (hc : s.command = some c) : TakenInRefused s t c := by
  obtain ⟨x, hentered, hm, hcommand, hstanding, hargument, -⟩ := u.enterRefused_takes reason
  simp only [State.pendingSide, Prod.mk.injEq] at before
  obtain ⟨hpending, hstanding', hargument'⟩ := before
  have hx : x.command = some c := hcommand.trans (hpending.trans hc)
  have hmember : x.membership ≠ .member := by rw [hm]; decide
  have hoffline : x.membership ≠ .offline := by rw [hm]; decide
  have hanswered : Answered x x t :=
    answered_of_commandSide hoffline rfl (after.trans (by rw [hentered]))
  refine ⟨hanswered.command, hanswered.event c hx, hanswered.of_not_member hmember hoffline hx, ?_⟩
  rw [hanswered.standing c hx, hargument, hstanding, hargument', hstanding']

/-! ### Profile reads (R96, R185) -/

theorem State.profileBusError_takes {s : State} {c : Command} (hm : s.membership ≠ .refused)
    (ht : s.profileBusError.membership = .refused) (hc : s.command = some c) :
    TakenInRefused s s.profileBusError c := by
  by_cases hl : s.membership = .loading
  · rw [State.profileBusError, if_pos hl]
    exact State.enterRefused_answers rfl rfl hc
  · rw [State.profileBusError, if_neg hl] at ht
    exact absurd ht hm

/-- A fetch that goes on, or completes, does not refuse the station (R185). -/
theorem State.checkFetch_refuses {s : State} (hm : s.membership ≠ .refused)
    (ht : s.checkFetch.membership = .refused) : ∃ u : State,
      s.checkFetch = u.enterRefused .profile ∧ u.pendingSide = s.pendingSide := by
  unfold State.checkFetch at ht ⊢
  dsimp only at ht ⊢
  split at ht
  · exact absurd ht hm
  · rename_i hne
    rw [if_neg hne]
    split at ht
    · rename_i hheader
      rw [if_pos hheader]
      exact ⟨_, rfl, rfl⟩
    · rename_i hheader
      rw [if_neg hheader]
      split at ht
      · exact absurd ht hm
      · rename_i hlength
        rw [if_neg hlength]
        split at ht
        · cases ht
        · exact ⟨_, rfl, rfl⟩

theorem State.profileRead_takes {s : State} {words : List Word} {c : Command} (hm : s.membership ≠ .refused)
    (ht : (s.profileRead words).membership = .refused) (hc : s.command = some c) :
    TakenInRefused s (s.profileRead words) c := by
  by_cases hl : s.membership = .loading
  · rw [State.profileRead, if_pos hl] at ht ⊢
    obtain ⟨u, hrefused, hpending⟩ := State.checkFetch_refuses (s := { s with fetched := s.fetched ++ words })
      hm ht
    exact State.enterRefused_answers hpending (by rw [hrefused]) hc
  · rw [State.profileRead, if_neg hl] at ht
    exact absurd ht hm

/-! ### Census completion (R97, R98) -/

@[simp] theorem State.raiseIf_pendingSide (s : State) (b : Bool) (e : StationEvent) :
    (s.raiseIf b e).pendingSide = s.pendingSide := by cases b <;> rfl

theorem State.reconcile_pendingSide (s : State) (c : Census) : (s.reconcile c).pendingSide = s.pendingSide := by
  have htables : (s.reconcileTables c).pendingSide = s.pendingSide := by
    unfold State.reconcileTables
    rw [State.raiseIf_pendingSide, State.raiseIf_pendingSide]
    simp only [State.pendingSide]
  have hadopt : ∀ u : State, (u.adoptCycle c).pendingSide = u.pendingSide := fun u => by
    unfold State.adoptCycle
    split
    · exact State.raiseIf_pendingSide _ _ _
    · rfl
  have hreport : ∀ (u : State) (closes : Fin 16 → Bool) (old : Vector Slot 24) (g : Fin 16 → Stream → Stream),
      (({ (u.mapReport closes old).refreshIntent with damageCount := 0 } : State).mapStreams g).pendingSide
        = u.pendingSide := fun u closes old g => by simp [State.pendingSide]
  exact (hreport _ _ _ _).trans ((hadopt _).trans htables)

/-- A census completion refuses a LISTENING or an ANNOUNCING station alone (R97, R98). -/
theorem State.censusTransition_refuses {s : State} {c : Census} (hm : s.membership ≠ .refused)
    (ht : (s.censusTransition c).membership = .refused) : ∃ u : State,
      s.censusTransition c = u.enterRefused .duplicate ∧ u.pendingSide = s.pendingSide := by
  have hlose : ∀ u : State, u.lose.membership ≠ .refused := fun u => by
    unfold State.lose
    split <;> exact nofun
  unfold State.censusTransition at ht ⊢
  cases hs : s.membership with
  | listening =>
    rw [hs] at ht
    dsimp only at ht ⊢
    unfold State.endListening at ht ⊢
    split at ht
    · exact ⟨s, rfl, rfl⟩
    · cases ht
  | announcing =>
    rw [hs] at ht
    dsimp only at ht ⊢
    unfold State.endAnnouncing at ht ⊢
    split at ht
    · split at ht
      · exact absurd ht hm
      · cases ht
    · dsimp only at ht ⊢
      split at ht
      · rename_i hlimit
        rw [if_pos hlimit]
        exact ⟨_, rfl, rfl⟩
      · exact absurd ht hm
    · exact absurd ht hm
  | member | leaving =>
    rw [hs] at ht
    dsimp only at ht
    unfold State.endMember at ht
    split at ht
    · exact absurd ht hm
    · dsimp only at ht
      split at ht
      · exact absurd ht (hlose _)
      · exact absurd ht hm
    · exact absurd ht hm
  | _ => exact absurd (by rw [hs] at ht; exact ht) hm

theorem State.completeCensus_takes {s : State} {census : Census} {c : Command} (hm : s.membership ≠ .refused)
    (ht : (s.completeCensus census).membership = .refused) (hc : s.command = some c) :
    TakenInRefused s (s.completeCensus census).pump c := by
  unfold State.completeCensus at ht ⊢
  split at ht
  · rename_i hmaps
    rw [if_pos hmaps]
    obtain ⟨q, hq⟩ : ∃ q, q = (s.reconcile census).censusTransition census := ⟨_, rfl⟩
    rw [← hq] at ht ⊢
    have hstays : q.chooseBid.finishClosing.checkLeft = q.chooseBid.finishClosing :=
      State.checkLeft_of_membership (by rw [ht]; decide)
    rw [hstays] at ht ⊢
    have hrefused : q.membership = .refused := by simpa [State.finishClosing] using ht
    rw [hq] at hrefused
    obtain ⟨u, hentered, hpending⟩ := State.censusTransition_refuses
      (by rwa [State.reconcile_membership]) hrefused
    refine State.enterRefused_answers (reason := .duplicate) (hpending.trans (s.reconcile_pendingSide census)) ?_ hc
    rw [← hentered, ← hq, State.pump_commandSide, State.finishClosing_commandSide,
      State.chooseBid_commandSide]
  · exact absurd ht hm

theorem State.censusArrives_takes {s : State} {bits : CensusBits} {c : Command} (hm : s.membership ≠ .refused)
    (ht : (s.censusArrives bits).membership = .refused) (hc : s.command = some c) :
    TakenInRefused s (s.censusArrives bits).pump c := by
  unfold State.censusArrives at ht ⊢
  split at ht
  · exact absurd ht hm
  · unfold State.takeCensus at ht ⊢
    dsimp only at ht ⊢
    split at ht
    · rename_i hlast
      rw [if_pos hlast]
      obtain ⟨hcommand, hevent, hresult, hstanding⟩ :=
        State.completeCensus_takes (s := { s with frame := some _ }) hm ht hc
      exact ⟨hcommand, hevent, hresult, hstanding⟩
    · exact absurd ht hm

/-- A command pending at entry to REFUSED is taken there (R102, R187). -/
theorem exec_refusal_takes {i : Instr} {s t : State} {c : Command}
    (hi : i = .profileFault ∨ (∃ words, i = .profileReadDone words) ∨ ∃ bits, i = .censusCellArrival bits)
    (ht : exec i s = .next t) (hm : s.membership ≠ .refused) (hrefused : t.membership = .refused)
    (hc : s.command = some c) : TakenInRefused s t c := by
  rcases hi with rfl | ⟨words, rfl⟩ | ⟨bits, rfl⟩
  · obtain rfl : s.profileBusError = t := by injection ht
    exact State.profileBusError_takes hm hrefused hc
  · obtain rfl : s.profileRead words = t := by injection ht
    exact State.profileRead_takes hm hrefused hc
  · obtain rfl : (s.censusArrives bits).pump = t := by injection ht
    rw [State.pump_membership] at hrefused
    exact State.censusArrives_takes hm hrefused hc

end Sys2Proof.Machine
end

section
/-! PROOFS. A stream that a header has closed, from the command to the end of the header (R124, R131, R132, R151, R168). -/

namespace Sys2Proof.Machine

open Sys2Proof

/-! ### What a header makes of a stream after the command (R111, R124, R128, R132, R144, R158) -/

/-- The stream `x` is `a` but for what the choice of words at a header writes into it: only a stream that sends is
held by stall, and only such a one chooses words (R124, R126, R128, R129). -/
def ChoiceMade (a x : Stream) : Prop :=
  ∃ stalled stallRun chosen discards,
    x = { a with stalled := stalled, stallRun := stallRun, chosen := chosen, discards := discards }
      ∧ (stalled = true → a.stalled = true ∨ a.sending = true) ∧ (a.sending = false → chosen = [])

/-- What is left of the stream `a` after the choice of words and the arbiter's choice, which closes it for a label
clash alone (R107, R111). -/
def ChosenOrClashed (a w : Stream) : Prop :=
  ∃ x, ChoiceMade a x ∧ (w = x ∨ ∃ part, w = x.close .labelClash part)

/-- What a header leaves of the stream `a` that it has closed or opened; `part` says whether the stream has a part
in the map then (R132, R144, R158). -/
def HeaderLeaves (part : Bool) (a x : Stream) : Prop :=
  ∃ w, ChosenOrClashed a w
    ∧ (x = (w.finishClosing part).issue ∨ x = (w.finishClosing part).pollRingEnd.issue)

section
variable {a x y w : Stream}

/-- The stall of a header's STALL bits, as an intact header notes it (R128, R129). -/
theorem Stream.noteStall_eq (k : Station) (old new : Vector Slot 24) (stall : BitVec 24) (a : Stream) :
    ∃ stalled stallRun, a.noteStall k old new stall = { a with stalled := stalled, stallRun := stallRun }
      ∧ (stalled = true → a.stalled = true ∨ a.sending = true) := by
  unfold Stream.noteStall
  split
  · refine ⟨_, _, rfl, fun h => .inr ?_⟩
    simp only [Stream.heldByStall, Bool.and_eq_true] at h
    exact h.1.2
  · exact ⟨_, _, rfl, .inl⟩

theorem Stream.choiceCount_of_not_sending (h : a.sending = false) (k : Station) (slots : Vector Slot 24)
    (hold : Bool) : a.choiceCount k slots hold = 0 := by simp [Stream.choiceCount, h]

/-- The choice of words in a stream whose stall has been noted, or not. -/
theorem choiceMade_words {stalled stallRun : Bool} (hs : stalled = true → a.stalled = true ∨ a.sending = true)
    (k : Station) (slots : Vector Slot 24) (hold : Bool) :
    ChoiceMade a ({ a with stalled := stalled, stallRun := stallRun }.chooseWords k slots hold) := by
  refine ⟨stalled, stallRun, _, _, rfl, hs, fun hn => ?_⟩
  rw [Stream.choiceCount_of_not_sending (a := { a with stalled := stalled, stallRun := stallRun }) hn]
  exact List.take_zero

theorem choiceMade_none {stalled stallRun : Bool} (hs : stalled = true → a.stalled = true ∨ a.sending = true) :
    ChoiceMade a { a with stalled := stalled, stallRun := stallRun }.chooseNone :=
  ⟨stalled, stallRun, [], 0, rfl, hs, fun _ => rfl⟩

/-- A label clash does nothing to a stream that is not open (R133). -/
theorem Stream.close_labelClash_of_not_open (h : a.isOpen = false) (part : Bool) :
    a.close .labelClash part = a := by
  rw [Stream.close_of_not_open h]
  split <;> rfl

theorem ChosenOrClashed.close (h : ChosenOrClashed a w) (part : Bool) :
    ChosenOrClashed a (w.close .labelClash part) := by
  obtain ⟨x, hx, rfl | ⟨p, rfl⟩⟩ := h
  · exact ⟨_, hx, .inr ⟨part, rfl⟩⟩
  · rw [Stream.close_labelClash_of_not_open (Stream.close_isOpen .labelClash p x)]
    exact ⟨x, hx, .inr ⟨p, rfl⟩⟩

theorem ChoiceMade.isOpen (h : ChoiceMade a x) : x.isOpen = a.isOpen := by
  obtain ⟨_, _, _, _, rfl, -, -⟩ := h
  rfl

theorem Stream.pollRingEnd_of_not_open (h : a.isOpen = false) : a.pollRingEnd = a := by
  simp [Stream.pollRingEnd, h]

theorem Stream.pollRingEnd_of_no_end (h : a.ringEnd = false) : a.pollRingEnd = a := by
  simp [Stream.pollRingEnd, h]

theorem Stream.finishClosing_isOpen (part : Bool) (a : Stream) : (a.finishClosing part).isOpen = a.isOpen := by
  unfold Stream.finishClosing
  split
  · rename_i hc
    simp only [Bool.and_eq_true, beq_iff_eq] at hc
    obtain ⟨⟨hs, hclosing⟩, -⟩ := hc
    rw [Stream.isOpen_of_closing hs hclosing]
    simp [Stream.isOpen, StreamState.openSend, StreamState.openListen]
  · rfl

/-! ### A stream that the header's CLOSE closes (R131, R132, R136) -/

/-- A closed stream is told of it when it passes to CLOSED with no part left in the map (R132). -/
theorem Stream.finishClosing_closed {part part' : Bool} (ho : y.isOpen = true) (hpart : part' = true → part = true)
    (hdefn : x.defn = y.defn) (hstate : x.state = (y.close .host part).state)
    (hevent : x.event = (y.close .host part).event) :
    (x.finishClosing part').state = (if y.isSend = true ∧ part' = true then .closing else .closed)
      ∧ (y.event = true ∨ y.isSend = true ∧ (x.finishClosing part').state = .closed →
          (x.finishClosing part').event = true) := by
  obtain ⟨-, hclosed, htold⟩ := Stream.close_outcome ho .host part
  rw [hclosed] at hstate
  rw [htold] at hevent
  have hs : x.isSend = y.isSend := Stream.isSend_congr hdefn
  cases hsend : y.isSend with
  | false =>
    rw [hsend] at hs hstate hevent
    have hsame : x.finishClosing part' = x := by simp [Stream.finishClosing, hs]
    rw [hsame]
    exact ⟨by simpa using hstate, fun h => by simpa [CloseReason.signals, hevent] using h⟩
  | true =>
    rw [hsend] at hs hstate hevent
    cases part with
    | false =>
      obtain rfl : part' = false := by simpa using hpart
      have hsame : x.finishClosing false = x := by simp [Stream.finishClosing, hstate]
      rw [hsame]
      exact ⟨by simpa using hstate, fun _ => by simp [hevent, CloseReason.passage]⟩
    | true =>
      cases part' with
      | false =>
        have hpassed : x.finishClosing false = { x.signal true with state := .closed } := by
          simp [Stream.finishClosing, hs, hstate]
        rw [hpassed]
        exact ⟨by simp, fun _ => by simp [Stream.signal]⟩
      | true =>
        have hsame : x.finishClosing true = x := by simp [Stream.finishClosing]
        rw [hsame]
        exact ⟨by simpa using hstate, fun h => by
          simpa [hevent, hstate, CloseReason.signals, CloseReason.passage] using h⟩

/-- The choice of words leaves the ring of a closed stream closed (R151, R168). -/
theorem ringClosed_of_choice (h : RingClosed y a) (hc : ChoiceMade a x) (hsending : a.sending = false)
    (hstalled : a.stalled = false) : RingClosed y x := by
  obtain ⟨stalled, stallRun, chosen, discards, rfl, hs, hn⟩ := hc
  obtain ⟨hsend, hlisten, hop⟩ := h
  have hquiet : stalled = false := by
    rw [← Bool.not_eq_true]
    intro ht
    have hnever := hs ht
    simp [hstalled, hsending] at hnever
  refine ⟨fun hd => ?_, fun hd => ?_, hop⟩
  · obtain ⟨hstaging, hheld, hreading, hend, -, hstarted, huntouched⟩ := hsend hd
    exact ⟨hstaging, hheld, hreading, hend, hn hsending, hstarted, huntouched⟩
  · obtain ⟨hcurrent, hnext, hreading, hend, -, hstarved, haction, hheld, hempty⟩ := hlisten hd
    exact ⟨hcurrent, hnext, hreading, hend, hquiet, hstarved, haction, hheld, hempty⟩

/-- What a header leaves of a stream that its CLOSE has closed, whose part in the map it may have ended
(R131, R132, R151, R168). -/
theorem HeaderLeaves.closed {part part' : Bool} (ho : y.isOpen = true)
    (h : HeaderLeaves part' (y.close .host part) x) (hpart : part' = true → part = true) :
    x.defn = y.defn ∧ x.closeReason = .host
      ∧ x.state = (if y.isSend = true ∧ part' = true then .closing else .closed)
      ∧ (y.event = true ∨ y.isSend = true ∧ x.state = .closed → x.event = true) ∧ RingClosed y x := by
  have hclosed := Stream.close_isOpen .host part y
  obtain ⟨hreason, hstate, -⟩ := Stream.close_outcome ho .host part
  obtain ⟨-, -, hstalled, -⟩ := Stream.close_clears ho .host part
  have hsending : (y.close .host part).sending = false := by
    rw [Stream.sending, hstate]
    split <;> rfl
  have hdefn := Stream.close_defn .host part y
  have hring := Stream.close_ringClosed .host part y ho
  obtain ⟨w, ⟨v, hchoice, hw⟩, hx⟩ := h
  have hvo : v.isOpen = false := hchoice.isOpen.trans hclosed
  have hwv : w = v := by
    rcases hw with rfl | ⟨p, rfl⟩
    · rfl
    · exact Stream.close_labelClash_of_not_open hvo p
  subst hwv
  have hpolled : x = (w.finishClosing part').issue := by
    rwa [Stream.pollRingEnd_of_not_open ((Stream.finishClosing_isOpen part' w).trans hvo), or_self] at hx
  have hended := ringClosed_of_choice hring hchoice hsending hstalled
  obtain ⟨_, _, _, _, hsame, -, -⟩ := hchoice
  obtain ⟨hfinal, htold⟩ := Stream.finishClosing_closed (x := w) (part := part) ho hpart
    (by rw [hsame]; exact hdefn) (by rw [hsame]) (by rw [hsame])
  have hringEnd : RingClosed y (w.finishClosing part') := by
    rw [Stream.finishClosing_eq]
    exact hended
  have hkept : (w.finishClosing part').defn = y.defn ∧ (w.finishClosing part').closeReason = .host := by
    rw [Stream.finishClosing_eq, hsame]
    exact ⟨hdefn, hreason⟩
  rw [hpolled]
  refine ⟨?_, ?_, ?_, ?_, ringClosed_issue hringEnd⟩
  all_goals rw [Stream.issue_eq]
  · exact hkept.1
  · exact hkept.2
  · exact hfinal
  · exact htold

end

end Sys2Proof.Machine
end

section
/-! PROOFS. A stream that a header has opened, from the command to the end of the header (R111, R121, R123, R135). -/

namespace Sys2Proof.Machine

open Sys2Proof

/-! ### A stream that the header's OPEN opens (R121, R123, R135) -/

/-- What an OPEN leaves in the record of a stream, and a label clash in the same header too: the ring starts where
it stood, nothing of it is in hand, and the flags are clear (R121, R142, R157). -/
structure OpenedRecord (st x : Stream) : Prop where
  defn : x.defn = st.defn
  ringIndex : x.ringIndex = st.ringIndex
  nextSeq : x.nextSeq = 0
  cueMiss : x.cueMiss = false
  overrunSeen : x.overrunSeen = false
  writeBack : x.writeBack = st.writeBack
  writeQueue : x.writeQueue = st.writeQueue
  staging : x.staging = []
  current : x.current = none

section
variable {st x w : Stream} {k : Station} {slots : Vector Slot 24}

/-- Which slots a stream is placed by is read from the entries of the map (R122, R134). -/
theorem Stream.opened_congr {v w : Vector Slot 24} (h : ∀ i : Fin 24, v[i].entry = w[i].entry) (k : Station)
    (st : Stream) : st.opened k v = st.opened k w := by
  unfold Stream.opened
  split
  · exact Stream.standing_congr h k _
  · simp only [Stream.listenRule, carriers_congr h]

/-- Where an OPEN places a listen stream (R134, R135). -/
theorem Stream.opened_listen (hs : st.isSend = false) : (st.opened k slots).state
    = if st.defn.cue.isSome then .armed
      else if carriers slots st.defn.label = [] then .seeking else .tuned := by
  have hopened : st.opened k slots = { st.setUp with state := .seeking }.listenRule slots := by
    simp [Stream.opened, hs]
  rw [hopened]
  exact Stream.listenRule_places (st := { st.setUp with state := .seeking }) hs rfl

/-- Where an OPEN places a send stream that holds at most its width (R122, R123). -/
theorem Stream.opened_send (hs : st.isSend = true)
    (hw : (ownHoldings slots k st.defn.label).length ≤ st.defn.width) : (st.opened k slots).state
    = if candidacyUnder slots k st.defn.label ≠ [] then .suspended
      else if (ownHoldings slots k st.defn.label).length = st.defn.width then
        (if st.defn.cue.isSome then .armed else .running)
      else .claiming := by
  have hopened : st.opened k slots = { st.setUp with state := .claiming }.standing k slots := if_pos hs
  rw [hopened]
  exact (Stream.standing_places (st := { st.setUp with state := .claiming }) hs rfl hw).1

/-- The engines issue what they can, and the record of an OPEN stands (R143, R167). -/
theorem OpenedRecord.issue (h : OpenedRecord st x) : OpenedRecord st x.issue := by
  rw [Stream.issue_eq]
  exact ⟨h.defn, h.ringIndex, h.nextSeq, h.cueMiss, h.overrunSeen, h.writeBack, h.writeQueue, h.staging, h.current⟩

theorem OpenedRecord.finishClosing (h : OpenedRecord st x) (part : Bool) :
    OpenedRecord st (x.finishClosing part) := by
  rw [Stream.finishClosing_eq]
  exact ⟨h.defn, h.ringIndex, h.nextSeq, h.cueMiss, h.overrunSeen, h.writeBack, h.writeQueue, h.staging, h.current⟩

/-- A closure of a stream with nothing of its ring in hand hands nothing back (R151, R168). -/
theorem OpenedRecord.close (h : OpenedRecord st x) (held : x.held = []) (reason : CloseReason) (part : Bool)
    (ho : x.isOpen = true) : OpenedRecord st (x.close reason part) := by
  rcases Stream.isOpen_cases ho with ⟨hs, hopen⟩ | ⟨hs, hopen⟩
  · rw [Stream.close_of_openSend hs hopen]
    exact ⟨h.defn, by simp [Stream.closeSend, Stream.stopSend, held, h.ringIndex], h.nextSeq, h.cueMiss,
      h.overrunSeen, by simp [Stream.closeSend, Stream.stopSend, held, h.writeBack], h.writeQueue, rfl, h.current⟩
  · rw [Stream.close_of_openListen hs hopen]
    exact ⟨h.defn, by simp [Stream.closeListen, Stream.stopListen, h.current, h.ringIndex], h.nextSeq, h.cueMiss,
      h.overrunSeen, h.writeBack, by simp [Stream.closeListen, Stream.stopListen, h.current, h.writeQueue],
      h.staging, rfl⟩

/-- The record of a stream that an OPEN has opened and the choice of words written into (R121, R124). -/
theorem openedRecord_of_choice (h : ChoiceMade (st.opened k slots) x) : OpenedRecord st x ∧ x.held = []
    ∧ x.ringEnd = false ∧ x.closeReason = .none ∧ x.fetchPos = st.ringIndex
    ∧ x.awaiting = st.defn.cue.isSome ∧ x.state = (st.opened k slots).state
    ∧ x.everFull = (st.opened k slots).everFull := by
  obtain ⟨_, _, _, _, rfl, -, -⟩ := h
  rw [Stream.opened_eq]
  exact ⟨⟨rfl, rfl, rfl, rfl, rfl, rfl, rfl, rfl, rfl⟩, rfl, rfl, rfl, rfl, rfl, rfl, rfl⟩

/-- What a header leaves of a stream that its OPEN has opened: the stream is open, placed by the map, or a label
clash has closed it with its event (R111, R121, R123, R135). -/
theorem HeaderLeaves.opened {part : Bool} (h : HeaderLeaves part (st.opened k slots) x) : OpenedRecord st x
    ∧ (x.isOpen = false → x.closeReason = .labelClash ∧ x.event = true)
    ∧ (x.isOpen = true → x.closeReason = .none ∧ x.fetchPos = st.ringIndex ∧ x.awaiting = st.defn.cue.isSome
        ∧ x.state = (st.opened k slots).state ∧ x.everFull = (st.opened k slots).everFull) := by
  obtain ⟨w, ⟨v, hchoice, hw⟩, hx⟩ := h
  have hvo : v.isOpen = true := hchoice.isOpen.trans (Stream.opened_isOpen k slots st)
  obtain ⟨hrecord, hheld, hend, hreason, hfetch, hawaiting, hstate, hfull⟩ := openedRecord_of_choice hchoice
  rcases hw with rfl | ⟨p, rfl⟩
  · have hissued : x = w.issue := by
      rwa [Stream.finishClosing_of_isOpen hvo, Stream.pollRingEnd_of_no_end hend, or_self] at hx
    have hxo : x.isOpen = true := by
      rw [hissued, Stream.isOpen_of_placing (Stands.issue w).placing, hvo]
    refine ⟨by rw [hissued]; exact hrecord.issue, fun hn => ?_, fun _ => ?_⟩
    · rw [hxo] at hn
      cases hn
    · rw [hissued, Stream.issue_eq]
      exact ⟨hreason, hfetch, hawaiting, hstate, hfull⟩
  · have hclosed := Stream.close_isOpen .labelClash p v
    have hissued : x = ((v.close .labelClash p).finishClosing part).issue := by
      rwa [Stream.pollRingEnd_of_not_open ((Stream.finishClosing_isOpen part _).trans hclosed), or_self] at hx
    obtain ⟨hclash, -, htold⟩ := Stream.close_outcome hvo .labelClash p
    have hevent : (v.close .labelClash p).event = true := by simp [htold, CloseReason.signals]
    have hxo : x.isOpen = false := by
      rw [hissued, Stream.isOpen_of_placing (Stands.issue _).placing, Stream.finishClosing_isOpen, hclosed]
    refine ⟨by rw [hissued]; exact ((hrecord.close hheld _ p hvo).finishClosing part).issue, fun _ => ?_,
      fun ho => ?_⟩
    · rw [hissued, Stream.issue_eq]
      refine ⟨?_, ?_⟩
      · rw [Stream.finishClosing_eq]
        exact hclash
      · unfold Stream.finishClosing
        split
        · simp [Stream.signal]
        · exact hevent
    · rw [hxo] at ho
      cases ho

end

end Sys2Proof.Machine
end

section
/-! PROOFS. The state in which a header takes the command (R34, R37, R63, R66, R105). -/

namespace Sys2Proof.Machine

open Sys2Proof

/-! ### The state in which a header takes the command (R34, R37, R63, R66, R105) -/

/-- A stream with its missed cue marked, where the header was damaged (R66). -/
def Stream.missedIf (missed : Bool) (st : Stream) : Stream := if missed then st.missCue else st

/-- A stream as the map's part of a header leaves it for the command: reported to, unless a pending CLOSE will
close it, and with its missed cue (R34, R66, R122). -/
def State.streamMet (s : State) (missed : Bool) (slots : Vector Slot 24) (n : Fin 16) (st : Stream) : Stream :=
  (if s.closesPending n then st else st.report s.number s.slots slots).missedIf missed

/-- A header that takes a station out of the state `s` takes the command in the state `u`: the map has been
handled, and nothing else that the command or its answer reads (R37, R63). -/
structure CommandMet (missed : Bool) (s u : State) : Prop where
  membership : u.membership = s.membership
  number : u.number = s.number
  side : u.commandSide = s.commandSide
  queue : QueueFollows s u
  stream : ∀ n : Fin 16, u.streams[n] = (s.streams[n]).map (s.streamMet missed u.slots n)

section
variable {s t u v : State} {missed : Bool} {n : Fin 16} {st : Stream}

theorem Stream.report_congr {v w : Vector Slot 24} (h : ∀ i : Fin 24, v[i].entry = w[i].entry) (k : Station)
    (old : Vector Slot 24) (st : Stream) : st.report k old v = st.report k old w := by
  simp only [Stream.report, Stream.listenRule, ownHoldings_congr h, candidacyUnder_congr h, carriers_congr h,
    Stream.standing_congr h]

theorem State.streamMet_congr {v w : Vector Slot 24} (h : ∀ i : Fin 24, v[i].entry = w[i].entry) :
    s.streamMet missed v n = s.streamMet missed w n :=
  funext fun st => by simp only [State.streamMet, Stream.report_congr h]

theorem Stream.missedIf_stands (missed : Bool) (st : Stream) : Stands st (st.missedIf missed) := by
  cases missed with
  | false => exact .refl st
  | true => exact .missCue st

/-- The map's part of a header: `v` is the state in which the map has been handled and not yet reported. -/
theorem CommandMet.mapReport (membership : v.membership = s.membership) (number : v.number = s.number)
    (side : v.commandSide = s.commandSide) (queue : v.openQueue = s.openQueue) (streams : v.streams = s.streams) :
    CommandMet false s (v.mapReport s.closesPending s.slots).refreshIntent := by
  refine ⟨?_, ?_, ?_, ?_, fun n => ?_⟩
  · simpa using membership
  · simpa using number
  · rw [← side]
    simp [State.commandSide]
  · exact (QueueFollows.mapReport queue s.closesPending s.slots).congr (State.refreshIntent_openQueue _)
      (State.refreshIntent_streams _)
  · have hentries : ∀ i : Fin 24, (v.mapReport s.closesPending s.slots).refreshIntent.slots[i].entry
        = v.slots[i].entry := fun i => by rw [State.refreshIntent_entry, State.mapReport_slots]
    rw [State.refreshIntent_streams, State.streamMet_congr hentries, ← streams]
    cases hc : s.closesPending n with
    | true =>
      rw [State.mapReport_closed v s.closesPending s.slots n hc,
        show s.streamMet false v.slots n = id from funext fun st => by
          simp [State.streamMet, hc, Stream.missedIf], Option.map_id_fun, id]
    | false =>
      rw [State.mapReport_open v s.closesPending s.slots n hc, number]
      congr 1
      exact funext fun st => by simp [State.streamMet, hc, Stream.missedIf]

theorem CommandMet.mapHeader (s : State) (h : Header) : CommandMet false s (s.mapHeader h) :=
  .mapReport (by simp [State.handleHeader]) (by simp [State.handleHeader])
    (by simp [State.handleHeader, State.commandSide]) (by simp [State.handleHeader]) (by simp [State.handleHeader])

theorem CommandMet.missMap (s : State) (arb : List Halves) : CommandMet false s (s.missMap arb) :=
  .mapReport (v := ({ s.countWin (arb.map bitOfHalves) with chosenBid := none } : State).unsettleAll)
    rfl rfl rfl rfl rfl

/-- A state that differs from another in what neither the map nor the command reads. -/
theorem CommandMet.of_same (h : CommandMet missed t u) (membership : t.membership = s.membership)
    (number : t.number = s.number) (side : t.commandSide = s.commandSide) (queue : t.openQueue = s.openQueue)
    (streams : t.streams = s.streams) (slots : t.slots = s.slots) : CommandMet missed s u := by
  obtain ⟨hmembership, hnumber, hside, hqueue, hstream⟩ := h
  have hcloses : t.closesPending = s.closesPending := by
    have hcommand : t.command = s.command := congrArg Prod.fst side
    funext n
    rw [Bool.eq_iff_iff, State.closesPending_iff, State.closesPending_iff]
    simp only [State.judgeClose_done_iff, hcommand, membership, streams]
  refine ⟨hmembership.trans membership, hnumber.trans number, hside.trans side, ?_, fun n => ?_⟩
  · rw [QueueFollows, ← queue]
    exact hqueue
  · rw [hstream, streams]
    congr 1
    exact funext fun st => by simp only [State.streamMet, hcloses, number, slots]

/-- A damaged header marks the streams whose cue it may have carried (R66). -/
theorem CommandMet.oweVeto (h : CommandMet false s u) : CommandMet u.membership.drives s u.oweVeto := by
  obtain ⟨hmembership, hnumber, hside, hqueue, hstream⟩ := h
  have hstreams : ∀ n : Fin 16, u.oweVeto.streams[n]
      = (u.streams[n]).map (Stream.missedIf u.membership.drives) := fun n => by
    unfold State.oweVeto
    cases u.membership.drives with
    | true => exact State.mapStreams_get _ _ _ _
    | false => rw [show Stream.missedIf false = id from rfl, Option.map_id_fun]; rfl
  refine ⟨(State.oweVeto_membership u).trans hmembership, ?_, (State.oweVeto_commandSide u).trans hside, ?_,
    fun n => ?_⟩
  · exact (u.oweVeto_trunk.1.number).trans hnumber
  · refine hqueue.of_queued ?_ fun n => ?_
    · unfold State.oweVeto
      split <;> simp
    · rw [hstreams, Option.any_map]
      exact congrArg (fun p => Option.any p _)
        (funext fun st => Stream.queued_of_placing (Stream.missedIf_stands _ st).placing)
  · rw [hstreams, hstream, Option.map_map, State.oweVeto_slots]
    rfl

/-! ### The streams that the command meets -/

theorem CommandMet.absent (h : CommandMet missed s u) (hn : s.streams[n] = none) : u.streams[n] = none := by
  rw [h.stream, hn]
  rfl

theorem CommandMet.get (h : CommandMet missed s u) (hn : s.streams[n] = some st) :
    u.streams[n] = some (s.streamMet missed u.slots n st) := by
  rw [h.stream, hn]
  rfl

theorem State.streamMet_keeps (s : State) (missed : Bool) (slots : Vector Slot 24) (n : Fin 16) (st : Stream) :
    (s.streamMet missed slots n st).isOpen = st.isOpen ∧ (s.streamMet missed slots n st).defn = st.defn := by
  have hreported : ∀ x : Stream, x.isOpen = st.isOpen ∧ x.defn = st.defn →
      (x.missedIf missed).isOpen = st.isOpen ∧ (x.missedIf missed).defn = st.defn := fun x ⟨ho, hd⟩ => by
    have hstands := (Stream.missedIf_stands missed x).placing
    exact ⟨(Stream.isOpen_of_placing hstands).trans ho, (Stream.placing_eq_iff.1 hstands).1.trans hd⟩
  refine hreported _ ?_
  split
  · exact ⟨rfl, rfl⟩
  · exact Stream.report_keeps _ _ _ st

/-- The map's part of a header leaves a stream that is not open (R122, R134). -/
theorem State.streamMet_of_not_open (ho : st.isOpen = false) (s : State) (missed : Bool) (slots : Vector Slot 24)
    (n : Fin 16) : s.streamMet missed slots n st = st := by
  have hmissed : st.missedIf missed = st := by
    unfold Stream.missedIf
    rw [Stream.missCue_of_unbound (.inl ho), ite_self]
  rw [State.streamMet, Stream.report_of_not_open ho, ite_self, hmissed]

theorem Stream.isOpen_of_closed (h : st.state = .closed) : st.isOpen = false := by
  simp [Stream.isOpen, h, StreamState.openSend, StreamState.openListen]

/-- The stream is CLOSED for the command exactly when it was at the header (R121). -/
theorem State.streamMet_closed (s : State) (missed : Bool) (slots : Vector Slot 24) (n : Fin 16) (st : Stream) :
    (s.streamMet missed slots n st).state = .closed ↔ st.state = .closed := by
  cases ho : st.isOpen with
  | false => rw [State.streamMet_of_not_open ho]
  | true =>
    have hmet := (s.streamMet_keeps missed slots n st).1.trans ho
    exact iff_of_false (Stream.state_ne_closed hmet) (Stream.state_ne_closed ho)

end

end Sys2Proof.Machine
end

section
/-! PROOFS. What a header leaves of the definitions and of the open queue after the command (R105, R120). -/

namespace Sys2Proof.Machine

open Sys2Proof

/-! ### The definitions of the streams stand (R120) -/

/-- The states `s` and `t` have the same streams, defined alike. -/
def DefnsKept (s t : State) : Prop :=
  ∀ n : Fin 16, (t.streams[n]).map (fun x => x.defn) = (s.streams[n]).map fun x => x.defn

section
variable {s t u : State} {n : Fin 16}

theorem DefnsKept.of_streams (h : t.streams = s.streams) : DefnsKept s t := fun n => by rw [h]

theorem DefnsKept.trans (h : DefnsKept s t) (h' : DefnsKept t u) : DefnsKept s u :=
  fun n => (h' n).trans (h n)

theorem DefnsKept.absent (h : DefnsKept s t) (hn : s.streams[n] = none) : t.streams[n] = none := by
  have hmap := h n
  rw [hn] at hmap
  exact Option.map_eq_none_iff.1 hmap

theorem DefnsKept.get (h : DefnsKept s t) {x : Stream} (hn : s.streams[n] = some x) :
    StreamAt n (fun y => y.defn = x.defn) t := by
  have hmap := h n
  rw [hn] at hmap
  exact Option.map_eq_some_iff.1 hmap

theorem DefnsKept.mapStreams (s : State) {g : Fin 16 → Stream → Stream} (hg : ∀ n x, (g n x).defn = x.defn) :
    DefnsKept s (s.mapStreams g) := fun n => by
  rw [Fin.getElem_fin, Fin.getElem_fin, State.mapStreams_get, Option.map_map]
  exact congrArg (fun p => Option.map p _) (funext fun x => hg _ x)

theorem DefnsKept.onStream (s : State) (n : Fin 16) {g : Stream → Stream} (hg : ∀ x, (g x).defn = x.defn) :
    DefnsKept s (s.onStream n g) := fun m => by
  by_cases hm : m = n
  · rw [hm, State.onStream_get_self, Option.map_map]
    exact congrArg (fun p => Option.map p _) (funext hg)
  · rw [State.onStream_get_other s n m g hm]

theorem DefnsKept.closeOne (s : State) (reason : CloseReason) (n : Fin 16) :
    DefnsKept s (s.closeOne reason n) :=
  (DefnsKept.onStream s n (g := fun x => x.close reason (s.streamHasPart n x)) fun x =>
    Stream.close_defn reason _ x).trans (.of_streams (by simp [State.closeOne]))

theorem Stream.opened_defn (k : Station) (slots : Vector Slot 24) (st : Stream) :
    (st.opened k slots).defn = st.defn := by
  rw [Stream.opened_eq]
  rfl

theorem DefnsKept.commandAndCell (s : State) (f : Frame) : DefnsKept s (s.commandAndCell f) := by
  refine DefnsKept.trans (t := s.takeCommand) ?_ (.of_streams (s.commandAndCell_takes f).1)
  unfold State.takeCommand
  split
  · exact .of_streams rfl
  · rename_i c _
    unfold State.takeThis
    dsimp only
    split
    · refine DefnsKept.trans (t := s.performCommand c) ?_ (.of_streams rfl)
      unfold State.performCommand
      split
      · split
        · exact .onStream s _ (Stream.opened_defn _ _)
        · exact .of_streams rfl
      · exact .closeOne s _ _
      · exact .of_streams rfl
    · exact .of_streams rfl

/-- No cue action touches the definition of a stream (R173 to R179). -/
theorem Stream.heedCue_defn (bits : BitVec 4) (skip : Bool) (k : Station) (slots : Vector Slot 24) (st : Stream) :
    (st.heedCue bits skip k slots).defn = st.defn := by
  have hlatch := (Stream.placing_eq_iff.1 (Stands.consumeLatch st).placing).1
  have hstanding : ∀ x : Stream, (x.standing k slots).defn = x.defn := fun x => by
    unfold Stream.standing
    repeat' split
    all_goals rfl
  have hrelease : ∀ x : Stream, x.releaseHead.defn = x.defn := fun x => by
    unfold Stream.releaseHead
    split <;> rfl
  have hevent : ∀ x : Stream, (x.cueEvent k slots).defn = x.defn := fun x => by
    unfold Stream.cueEvent
    split
    · split
      · exact hstanding { x with awaiting := false }
      · rfl
    · split
      · split
        · exact hstanding { x with awaiting := true }
        · rfl
      · split
        · split
          · exact hrelease x
          · rfl
        · rfl
  unfold Stream.heedCue
  dsimp only
  split
  · rw [hevent, hlatch]
  · exact hlatch

theorem DefnsKept.heedCues (s : State) (bits : BitVec 4) (skip : Option (Fin 16)) :
    DefnsKept s (s.heedCues bits skip) := by
  unfold State.heedCues
  split
  · exact (DefnsKept.trans (t := { s with cueOut := s.cueOut ||| bits }) (.of_streams rfl)
      (.mapStreams _ fun _ x => x.heedCue_defn _ _ _ _)).trans (.of_streams (State.cleanQueue_streams _))
  · exact .of_streams rfl

theorem DefnsKept.chooseAll (s : State) (old : Vector Slot 24) (stall : BitVec 24) (f : Frame) :
    DefnsKept s (s.chooseAll old stall f) := by
  refine .mapStreams s fun _ x => ?_
  have hnote : (if f.census then x else x.noteStall s.number old s.slots stall).defn = x.defn := by
    split
    · rfl
    · exact (Stream.placing_eq_iff.1 (Stands.noteStall _ _ _ _ x).placing).1
  dsimp only
  split
  · exact hnote
  · exact hnote

theorem DefnsKept.chooseUnheard (s : State) (f : Frame) : DefnsKept s (s.chooseUnheard f) :=
  .mapStreams s fun _ x => by split <;> rfl

theorem DefnsKept.chooseAtHeader (s : State) (f : Frame) : DefnsKept s (s.chooseAtHeader f) := by
  unfold State.chooseAtHeader
  split
  · exact State.chooseBid_keeps (DefnsKept s) (fun t m h => h.trans (.closeOne t _ m))
      (fun _ _ h => h.trans (.of_streams rfl)) s (.of_streams rfl)
  · exact .of_streams rfl

theorem DefnsKept.headerEnd (s : State) (f : Frame) : DefnsKept s (s.headerEnd f) := by
  have hclosed : DefnsKept s ({ s with bidDriven := none } : State).finishClosing :=
    DefnsKept.trans (t := { s with bidDriven := none }) (.of_streams rfl)
      (.mapStreams _ fun _ x => Stream.finishClosing_defn _ x)
  unfold State.headerEnd
  split
  · exact hclosed
  · exact hclosed.trans (.mapStreams _ fun _ x => (Stream.placing_eq_iff.1 (Stands.pollRingEnd x).placing).1)

theorem DefnsKept.pump (s : State) : DefnsKept s s.pump :=
  (DefnsKept.mapStreams s fun _ x => (Stream.placing_eq_iff.1 (Stands.issue x).placing).1).trans
    (.of_streams (State.pump_streams s))

end

/-! ### The open queue after the command (R105) -/

/-- Since the state `s` stream `n` has left the open queue, if it was in it, only when it lost its place there. -/
structure QueueKept (n : Fin 16) (s t : State) : Prop where
  leaves : n ∈ t.openQueue → n ∈ s.openQueue
  stays : n ∈ s.openQueue → (t.streams[n]).any Stream.queued = true → n ∈ t.openQueue
  queued : (t.streams[n]).any Stream.queued = true → (s.streams[n]).any Stream.queued = true

section
variable {n : Fin 16} {s t u : State}

theorem QueueKept.refl (n : Fin 16) (s : State) : QueueKept n s s := ⟨id, fun h _ => h, id⟩

theorem QueueKept.trans (h : QueueKept n s t) (h' : QueueKept n t u) : QueueKept n s u :=
  ⟨fun hu => h.leaves (h'.leaves hu), fun hs hq => h'.stays (h.stays hs (h'.queued hq)) hq,
    fun hq => h.queued (h'.queued hq)⟩

theorem QueueKept.of_follows (h : QueueFollows s t)
    (queued : (t.streams[n]).any Stream.queued = true → (s.streams[n]).any Stream.queued = true) :
    QueueKept n s t := by
  refine ⟨fun ht => ?_, fun hs hq => ?_, queued⟩
  · rw [h] at ht
    exact (List.mem_filter.1 ht).1
  · rw [h]
    exact List.mem_filter.2 ⟨hs, hq⟩

/-- An operation that leaves the queue, and puts no stream back to where it would have a place there. -/
theorem QueueKept.mapStreams (n : Fin 16) (s : State) {g : Fin 16 → Stream → Stream}
    (hg : ∀ x, (g n x).queued = true → x.queued = true) : QueueKept n s (s.mapStreams g) := by
  refine ⟨fun h => by rwa [State.mapStreams_openQueue] at h, fun h _ => by rwa [State.mapStreams_openQueue],
    fun h => ?_⟩
  rw [Fin.getElem_fin, State.mapStreams_get, Option.any_map, Option.any_eq_true] at h
  obtain ⟨x, hx, hq⟩ := h
  exact (Option.any_eq_true _ _).2 ⟨x, hx, hg x hq⟩

theorem QueueKept.of_same (queue : t.openQueue = s.openQueue) (streams : t.streams = s.streams) :
    QueueKept n s t :=
  ⟨fun h => by rwa [← queue], fun h _ => by rwa [queue], fun h => by rwa [← streams]⟩

theorem QueueKept.closeOne (n : Fin 16) (s : State) (reason : CloseReason) (m : Fin 16) :
    QueueKept n s (s.closeOne reason m) := by
  have hfollows : QueueFollows s (s.closeOne reason m) :=
    (QueueFollows.cleanQueue (State.onStream_openQueue _ _ _)).congr (State.refreshIntent_openQueue _)
      (State.refreshIntent_streams _)
  refine .of_follows hfollows fun h => ?_
  rw [State.closeOne_stream] at h
  split at h
  · rw [Option.any_map, Option.any_eq_true] at h
    obtain ⟨x, -, hq⟩ := h
    have hnot := Stream.queued_of_not_open (Stream.close_isOpen reason (s.streamHasPart m x) x)
    rw [hnot] at hq
    cases hq
  · exact h

theorem QueueKept.heedCues (hd : s.membership.drives = true) (n : Fin 16) (bits : BitVec 4)
    (skip : Option (Fin 16)) : QueueKept n s (s.heedCues bits skip) :=
  .of_follows (.heedCues hd bits skip) (s.heedCues_queued bits skip n)

theorem QueueKept.chooseAll (n : Fin 16) (s : State) (old : Vector Slot 24) (stall : BitVec 24) (f : Frame) :
    QueueKept n s (s.chooseAll old stall f) :=
  ⟨fun h => by rwa [State.chooseAll, State.mapStreams_openQueue] at h,
    fun h _ => by rwa [State.chooseAll, State.mapStreams_openQueue],
    fun h => (s.chooseAll_queued old stall f n).symm.trans h⟩

theorem QueueKept.chooseUnheard (n : Fin 16) (s : State) (f : Frame) : QueueKept n s (s.chooseUnheard f) :=
  .mapStreams n s fun x hx => by
    split at hx
    · exact hx
    · exact hx

theorem QueueKept.chooseAtHeader (n : Fin 16) (s : State) (f : Frame) :
    QueueKept n s (s.chooseAtHeader f) := by
  unfold State.chooseAtHeader
  split
  · exact State.chooseBid_keeps (QueueKept n s) (fun t m h => h.trans (.closeOne n t _ m))
      (fun _ _ h => h.trans (.of_same rfl rfl)) s (.refl n s)
  · exact .of_same rfl rfl

/-- The end of a CLOSING gives no place in the queue (R105, R132). -/
theorem Stream.queued_of_finishClosing {part : Bool} {x : Stream} (h : (x.finishClosing part).queued = true) :
    x.queued = true := by
  cases ho : x.isOpen with
  | true => rwa [Stream.finishClosing_of_isOpen ho] at h
  | false =>
    rw [Stream.queued_of_not_open ((Stream.finishClosing_isOpen part x).trans ho)] at h
    cases h

theorem QueueKept.headerEnd (n : Fin 16) (s : State) (f : Frame) : QueueKept n s (s.headerEnd f) := by
  have hclosed : QueueKept n s ({ s with bidDriven := none } : State).finishClosing :=
    QueueKept.trans (t := { s with bidDriven := none }) (.of_same rfl rfl)
      (.mapStreams n _ fun x => Stream.queued_of_finishClosing)
  unfold State.headerEnd
  split
  · exact hclosed
  · refine hclosed.trans (.mapStreams n _ fun x hx => ?_)
    rwa [Stream.queued_of_placing (Stands.pollRingEnd x).placing] at hx

theorem QueueKept.pump (n : Fin 16) (s : State) : QueueKept n s s.pump := by
  have hissued : QueueKept n s s.issueAll := .mapStreams n s fun x hx => by
    rwa [Stream.queued_of_placing (Stands.issue x).placing] at hx
  exact hissued.trans (.of_same (by rw [State.pump_openQueue]; simp [State.issueAll]) (State.pump_streams s))

end

end Sys2Proof.Machine
end

section
/-! PROOFS. Whose bid is chosen, and what a header leaves of the stream that it commands (R107, R110, R132, R173). -/

namespace Sys2Proof.Machine

open Sys2Proof

/-! ### Whose bid is chosen (R105, R106, R110) -/

section
variable {s : State} {n : Fin 16} {b : ChosenBid}

/-- The bid that a candidate gives is its own (R115). -/
theorem State.tryCandidate_bid (h : (s.tryCandidate n).chosenBid = some b) :
    b.stream = n ∨ s.chosenBid = some b := by
  unfold State.tryCandidate at h
  split at h
  · exact .inr h
  · split at h
    · exact .inr ((State.closeOne_chosenBid s _ n).symm.trans h)
    · split at h
      · exact .inr h
      · unfold State.bidOf at h
        dsimp only at h
        split at h
        · cases h
        · obtain ⟨t, -, rfl⟩ := Option.map_eq_some_iff.1 h
          exact .inl rfl

theorem State.tryCandidates_bid (ns : List (Fin 16)) : ∀ u : State,
    (u.tryCandidates ns).chosenBid = some b → b.stream ∈ ns ∨ u.chosenBid = some b := by
  induction ns with
  | nil => exact fun u h => .inr h
  | cons m ms ih =>
    intro u h
    have hone : (u.tryCandidate m).chosenBid = some b → b.stream ∈ m :: ms ∨ u.chosenBid = some b := fun h =>
      (State.tryCandidate_bid h).imp_left fun hm => by rw [hm]; exact List.mem_cons_self
    unfold State.tryCandidates at h
    dsimp only at h
    split at h
    · exact hone h
    · exact (ih _ h).elim (fun hm => .inl (List.mem_cons_of_mem m hm)) hone

/-- The chosen bid is for the head of the queue, or for a stream in repair (R110). -/
theorem State.chooseBid_stream (h : s.chooseBid.chosenBid = some b) :
    b.stream ∈ s.openQueue ∨ (s.streams[b.stream]).any Stream.isOpen = true := by
  have hcandidate : b.stream ∈ s.candidates := by
    unfold State.chooseBid at h
    dsimp only at h
    split at h
    · exact (State.tryCandidates_bid _ _ h).resolve_right nofun
    · cases h
  have hrepair : s.repairCandidate = some b.stream → (s.streams[b.stream]).any Stream.isOpen = true := fun hr => by
    obtain ⟨st, ⟨hst, hs, hstate, -⟩, -⟩ := State.repairCandidate_sound hr
    exact (Option.any_eq_true _ _).2 ⟨st, hst, Stream.isOpen_of_openSend hs (by rw [hstate]; rfl)⟩
  have hhead : s.headCandidate = some b.stream → b.stream ∈ s.openQueue := fun hh => by
    obtain ⟨st, hqueue, -⟩ := (s.headCandidate_iff _).1 hh
    exact List.mem_of_mem_head? hqueue
  unfold State.candidates at hcandidate
  split at hcandidate
  · rename_i r q hr hq
    have hmem : b.stream = r ∨ b.stream = q := by
      split at hcandidate <;> simp only [List.mem_cons, List.not_mem_nil, or_false] at hcandidate
      · exact hcandidate.symm
      · exact hcandidate
    exact hmem.elim (fun he => .inr (hrepair (he ▸ hr))) fun he => .inl (hhead (he ▸ hq))
  · rename_i r hr hq
    exact .inr (hrepair (List.mem_singleton.1 hcandidate ▸ hr))
  · rename_i q hr hq
    exact .inl (hhead (List.mem_singleton.1 hcandidate ▸ hq))
  · cases hcandidate

end

/-! ### The commanded stream after the command (R107, R111, R124, R132, R173) -/

/-- What a header that has taken a command in the state `y`, and with it made the stream `a` of stream `n`, leaves
in the state `t` (R105, R107, R111, R132). -/
structure CommandLeft (n : Fin 16) (a : Stream) (y t : State) : Prop where
  stream : StreamAt n (HeaderLeaves (t.streamHasPart n a) a) t
  queue : QueueKept n y t
  bid : a.isOpen = false → n ∉ y.openQueue → ∀ b, t.chosenBid = some b → b.stream ≠ n
  bidDriven : t.bidDriven = none

section
variable {n : Fin 16} {a : Stream} {s y : State}

theorem ChosenOrClashed.defn {w : Stream} (h : ChosenOrClashed a w) : w.defn = a.defn := by
  obtain ⟨x, ⟨_, _, _, _, hx, -, -⟩, hw⟩ := h
  have hdefn : x.defn = a.defn := by rw [hx]
  rcases hw with rfl | ⟨p, rfl⟩
  · exact hdefn
  · exact (Stream.close_defn _ _ _).trans hdefn

/-- The cues of a header leave the stream that it commands (R173). -/
theorem StreamAt.heedCues_commanded (h : StreamAt n (· = a) s) (hl : a.latched = false) (bits : BitVec 4) :
    StreamAt n (· = a) (s.heedCues bits (some n)) := by
  obtain ⟨_, hst, rfl⟩ := h
  by_cases hd : s.membership.drives = true
  · refine (StreamAt.heedCues_stream hst hd bits (some n)).imp fun x hx => ?_
    rw [hx, beq_self_eq_true, Stream.heedCue_of_commanded hl]
  · rw [show s.heedCues bits (some n) = s from if_neg hd]
    exact ⟨_, hst, rfl⟩

theorem StreamAt.chooseAll_choice (h : StreamAt n (· = a) s) (old : Vector Slot 24) (stall : BitVec 24)
    (f : Frame) : StreamAt n (ChoiceMade a) (s.chooseAll old stall f) := by
  refine StreamAt.mapStreams h fun x hx => ?_
  subst hx
  have hnoted : ∃ stalled stallRun, (if f.census then x else x.noteStall s.number old s.slots stall)
      = { x with stalled := stalled, stallRun := stallRun }
        ∧ (stalled = true → x.stalled = true ∨ x.sending = true) := by
    split
    · exact ⟨_, _, rfl, .inl⟩
    · exact x.noteStall_eq s.number old s.slots stall
  obtain ⟨stalled, stallRun, hsame, hs⟩ := hnoted
  dsimp only
  rw [hsame]
  split
  · exact choiceMade_words hs _ _ _
  · exact choiceMade_none hs

theorem StreamAt.chooseUnheard_choice (h : StreamAt n (· = a) s) (f : Frame) :
    StreamAt n (ChoiceMade a) (s.chooseUnheard f) := by
  refine StreamAt.mapStreams h fun x hx => ?_
  subst hx
  split
  · exact choiceMade_words (stalled := x.stalled) (stallRun := x.stallRun) .inl _ _ _
  · exact choiceMade_none (stalled := x.stalled) (stallRun := x.stallRun) .inl

theorem StreamAt.chooseAtHeader_clash (h : StreamAt n (ChoiceMade a) s) (f : Frame) :
    StreamAt n (ChosenOrClashed a) (s.chooseAtHeader f) := by
  have hchosen : StreamAt n (ChosenOrClashed a) s := h.imp fun x hx => ⟨x, hx, .inl rfl⟩
  unfold State.chooseAtHeader
  split
  · refine State.chooseBid_keeps (StreamAt n (ChosenOrClashed a)) (fun t m ht => ?_)
      (fun _ _ ht => ht.congr rfl) s hchosen
    obtain ⟨w, hw, hclash⟩ := ht
    rw [StreamAt, State.closeOne_stream]
    split
    · rename_i hm
      rw [← hm, hw]
      exact ⟨_, rfl, hclash.close _⟩
    · exact ⟨w, hw, hclash⟩
  · exact hchosen.congr rfl

/-- A stream that is not open, and not in the queue, is no candidate (R105, R106). -/
theorem State.chooseAtHeader_spares (h : StreamAt n (ChoiceMade a) s) (ho : a.isOpen = false)
    (hn : n ∉ s.openQueue) (f : Frame) {b : ChosenBid} (hb : (s.chooseAtHeader f).chosenBid = some b) :
    b.stream ≠ n := by
  rintro rfl
  unfold State.chooseAtHeader at hb
  split at hb
  · rcases State.chooseBid_stream hb with hqueue | hopen
    · exact hn hqueue
    · obtain ⟨x, hx, hchoice⟩ := h
      rw [hx, Option.any_some, hchoice.isOpen, ho] at hopen
      cases hopen
  · cases hb

/-- The end of a header, at the stream that it commands (R132, R144, R158). -/
theorem StreamAt.headerEnd_leaves (h : StreamAt n (ChosenOrClashed a) s) (f : Frame) :
    StreamAt n (HeaderLeaves ((s.headerEnd f).pump.streamHasPart n a) a) (s.headerEnd f).pump := by
  obtain ⟨part, hp⟩ : ∃ part, part = (s.headerEnd f).pump.streamHasPart n a := ⟨_, rfl⟩
  have hpart : ∀ w, ChosenOrClashed a w →
      ({ s with bidDriven := none } : State).streamHasPart n w = part := fun w hw => by
    rw [hp, State.headerEnd_eq]
    exact (State.streamHasPart_congr n hw.defn.symm).symm
  have hclosed : StreamAt n (fun x => ∃ w, ChosenOrClashed a w ∧ x = w.finishClosing part)
      ({ s with bidDriven := none } : State).finishClosing :=
    StreamAt.mapStreams (h.congr rfl) fun w hw => ⟨w, hw, by rw [hpart w hw]⟩
  rw [← hp]
  have hended : StreamAt n (fun x => HeaderLeaves part a x.issue) (s.headerEnd f) := by
    unfold State.headerEnd
    dsimp only
    split
    · exact hclosed.imp fun x ⟨w, hw, hx⟩ => ⟨w, hw, .inl (by rw [hx])⟩
    · exact hclosed.mapStreams fun x ⟨w, hw, hx⟩ => ⟨w, hw, .inr (by rw [hx])⟩
  obtain ⟨x, hx, hleaves⟩ := hended
  exact ⟨x.issue, by rw [State.pump_get, hx]; rfl, hleaves⟩

/-- What an intact header does after the command (R107, R124, R173). -/
theorem CommandLeft.cued (h : StreamAt n (· = a) y) (hl : a.latched = false) (hd : y.membership.drives = true)
    (bits : BitVec 4) (old : Vector Slot 24) (stall : BitVec 24) (f : Frame) : CommandLeft n a y
      ((((y.heedCues bits (some n)).chooseAll old stall f).chooseAtHeader f).headerEnd f).pump := by
  have hchoice := (h.heedCues_commanded hl bits).chooseAll_choice old stall f
  have hqueue := (QueueKept.heedCues hd n bits (some n)).trans (.chooseAll n _ old stall f)
  refine ⟨(hchoice.chooseAtHeader_clash f).headerEnd_leaves f,
    ((hqueue.trans (.chooseAtHeader n _ f)).trans (.headerEnd n _ f)).trans (.pump n _), fun ho hn b hb => ?_, ?_⟩
  · rw [State.pump_chosenBid, (State.headerEnd_pins _ f).2.1] at hb
    exact State.chooseAtHeader_spares hchoice ho (fun hv => hn (hqueue.leaves hv)) f hb
  · rw [State.pump_bidDriven]
    exact (State.headerEnd_pins _ f).2.2.2

/-- What a damaged header does after the command (R64, R65). -/
theorem CommandLeft.uncued (h : StreamAt n (· = a) y) (hb : y.chosenBid = none) (f : Frame) :
    CommandLeft n a y ((y.chooseUnheard f).headerEnd f).pump := by
  have hchoice := (h.chooseUnheard_choice f).imp fun x hx => (⟨x, hx, .inl rfl⟩ : ChosenOrClashed a x)
  refine ⟨hchoice.headerEnd_leaves f,
    ((QueueKept.chooseUnheard n y f).trans (.headerEnd n _ f)).trans (.pump n _), fun _ _ b hb' => ?_, ?_⟩
  · rw [State.pump_chosenBid, (State.headerEnd_pins _ f).2.1, State.chooseUnheard, State.mapStreams_chosenBid,
      hb] at hb'
    cases hb'
  · rw [State.pump_bidDriven]
    exact (State.headerEnd_pins _ f).2.2.2

end

end Sys2Proof.Machine
end

section
/-! PROOFS. Headers that the map handles take the command, and headers that end membership (R37, R63, R71, R101, R187). -/

namespace Sys2Proof.Machine

open Sys2Proof

/-! ### A header takes the command (R21, R37, R63, R71, R101, R187) -/

/-- In MEMBER a header that takes a station from the state `s` to the state `t` takes the command in the state `u`,
which the map's part leaves; what comes after the command leaves the map and the stream that was commanded to what
`CommandLeft` says (R37, R63, R187). -/
structure HeaderTakes (missed : Bool) (f : Frame) (s u t : State) : Prop where
  met : CommandMet missed s u
  entries : ∀ i : Fin 24, t.slots[i].entry = u.slots[i].entry
  number : t.number = u.number
  defns : DefnsKept u t
  left : ∀ (n : Fin 16) (a : Stream), u.commandedStream = some n → u.takeCommand.streams[n] = some a →
    a.latched = false → CommandLeft n a (u.commandAndCell f) t

/-- A header takes the pending command, and answers it by the state that it leaves, in which the command is taken;
a station that it takes to OFFLINE drops the command and its answer (R95, R187). -/
def HeaderTaken (s t : State) : Prop :=
  t.command = none ∧ (t.membership = .offline ∧ t.lastResult = .none ∧ t.rejected = false ∧ t.standing = none
    ∨ t.membership ≠ .offline ∧ ∃ u, u.membership = t.membership ∧ Answered s u t
      ∧ (t.membership = .member → ∃ missed f, HeaderTakes missed f s u t))

section
variable {s u t z : State}

theorem Answered.of_same (h : Answered t u z) (command : t.command = s.command)
    (argument : t.commandArgument = s.commandArgument) (rejected : t.rejected = s.rejected)
    (lastResult : t.lastResult = s.lastResult) (standing : t.standing = s.standing)
    (event : t.events.getLsbD 8 = s.events.getLsbD 8) : Answered s u z := by
  obtain ⟨hcommand, hrejected, hquiet, hresult, hevent, hstanding⟩ := h
  rw [command] at hquiet hresult hevent hstanding
  rw [lastResult, standing, event] at hquiet
  rw [argument, standing] at hstanding
  exact ⟨hcommand, hrejected.trans rejected, hquiet, hresult, hevent, hstanding⟩

/-- OFFLINE shows no command, no answer and no standing word (R95, R193). -/
theorem headerTaken_offline (s v : State) (e : StationEvent) : HeaderTaken s (v.enterOffline.raise e).pump := by
  refine ⟨?_, .inl ⟨?_, ?_, ?_, ?_⟩⟩
  · rw [State.pump_command]; rfl
  · rw [State.pump_membership]; rfl
  · rw [State.pump_lastResult]; rfl
  · rw [State.pump_rejected]; rfl
  · rw [State.pump_standing]; rfl

/-- Where the map does not act, a header takes the command and nothing else (R21, R187). -/
theorem headerTaken_unjudged (hm : s.membership ≠ .member) (ho : s.membership ≠ .offline)
    (same : u.commandSide = s.commandSide) (membership : u.membership = s.membership) :
    HeaderTaken s u.takeCommand.pump := by
  have ht : u.takeCommand.pump.membership = s.membership := by
    rw [State.pump_membership, State.takeCommand_membership, membership]
  have hanswered : Answered s u u.takeCommand.pump :=
    answered_of_commandSide (by rwa [membership]) same (State.pump_commandSide _)
  exact ⟨hanswered.command, .inr ⟨by rwa [ht], u, membership.trans ht.symm, hanswered,
    fun hmember => absurd (ht.symm.trans hmember) hm⟩⟩

/-- Entry to LOST touches the command interface in one event alone (R73). -/
theorem State.enterLost_answers (s : State) : s.enterLost.command = s.command
    ∧ s.enterLost.commandArgument = s.commandArgument ∧ s.enterLost.rejected = s.rejected
    ∧ s.enterLost.lastResult = s.lastResult ∧ s.enterLost.standing = s.standing
    ∧ s.enterLost.events.getLsbD 8 = s.events.getLsbD 8 := by
  have hevent : s.enterLost.events.getLsbD 8 = s.events.getLsbD 8 := by
    rw [State.enterLost_events]
    exact (s.raise_bit .lost .commandDone).trans (Bool.or_false _)
  refine ⟨?_, ?_, ?_, ?_, ?_, hevent⟩
  all_goals simp [State.enterLost, State.clearPeers, State.closeEvery, State.clearMap, State.dropClaims,
    State.emptyArbiter]

/-- A header that ends membership takes the command in LOST; a LEAVING station drops it (R71, R76, R187). -/
theorem headerTaken_lost (command : u.command = s.command)
    (argument : u.commandArgument = s.commandArgument) (rejected : u.rejected = s.rejected)
    (lastResult : u.lastResult = s.lastResult) (standing : u.standing = s.standing)
    (events : u.events = s.events) (membership : u.membership = s.membership) :
    HeaderTaken s u.lose.takeCommand.pump := by
  by_cases hl : s.membership = .leaving
  · have hlose : u.lose = u.enterOffline.raise .lost := if_pos (membership.trans hl)
    rw [hlose]
    exact headerTaken_offline s u .lost
  · have hlose : u.lose = u.enterLost := if_neg (by rwa [membership])
    obtain ⟨hcommand, hargument, hrejected, hresult, hstanding, hevent⟩ := u.enterLost_answers
    have hlost : u.enterLost.takeCommand.pump.membership = .lost := by
      rw [State.pump_membership, State.takeCommand_membership]
      rfl
    have hanswered : Answered u.enterLost u.enterLost u.enterLost.takeCommand.pump :=
      answered_of_commandSide (show Membership.lost ≠ .offline by decide) rfl (State.pump_commandSide _)
    rw [hlose]
    refine ⟨hanswered.command, .inr ⟨by rw [hlost]; decide, u.enterLost, hlost.symm, ?_, fun hmember => ?_⟩⟩
    · exact hanswered.of_same (hcommand.trans command) (hargument.trans argument) (hrejected.trans rejected)
        (hresult.trans lastResult) (hstanding.trans standing) (by rw [hevent, events])
    · rw [hlost] at hmember
      cases hmember

/-- A header that the map handles, but for the check of R101: `u` is the state in which the command is taken, and
`z` the state that is left. -/
theorem headerTaken_judged (ho : s.membership ≠ .offline) (membership : u.membership = s.membership)
    (kept : z.membership = u.membership) (before : u.commandSide = s.commandSide)
    (after : z.commandSide = u.takeCommand.commandSide)
    (takes : z.membership = .member → ∃ missed f, HeaderTakes missed f s u z.pump) :
    HeaderTaken s z.checkLeft.pump := by
  by_cases hl : z.membership = .leaving ∧ z.hasPart = false
  · rw [State.checkLeft_eq_of_left hl]
    exact headerTaken_offline s z .left
  · have hu : u.membership ≠ .offline := by rwa [membership]
    have hanswered : Answered s u z.pump :=
      answered_of_commandSide hu before ((State.pump_commandSide z).trans after)
    rw [State.checkLeft_of_stays hl]
    refine ⟨hanswered.command, .inr ⟨?_, u, ?_, hanswered, fun hmember => takes ?_⟩⟩
    · rwa [State.pump_membership, kept]
    · rw [State.pump_membership, kept]
    · rwa [State.pump_membership] at hmember

/-! ### An intact header, and a damaged one below the limit -/

theorem State.judgeHeader_taken (ho : s.membership ≠ .offline) (bits : HeaderBits) (f : Frame) :
    HeaderTaken s (s.judgeHeader bits f).pump := by
  obtain ⟨w, hw⟩ : ∃ w, w = s.countWin (arbitrationRead bits) := ⟨_, rfl⟩
  obtain ⟨h, hh⟩ : ∃ h, h = headerFields f bits := ⟨_, rfl⟩
  have hmet : CommandMet false s (w.mapHeader h) :=
    (CommandMet.mapHeader w h).of_same (by rw [hw]; rfl) (by rw [hw]; rfl) (by rw [hw]; rfl) (by rw [hw]; rfl)
      (by rw [hw]; rfl) (by rw [hw]; rfl)
  have htrunk := SameTrunk.afterMap (w.mapHeader h) h s.slots f
  rw [State.judgeHeader_eq, ← hw, ← hh]
  refine headerTaken_judged ho hmet.membership htrunk.membership hmet.side ?_ fun hmember => ?_
  · simp [State.afterMap, State.chooseAll]
  · have hdrives : ((w.mapHeader h).commandAndCell f).membership.drives = true := by
      rw [State.commandAndCell_membership, ← htrunk.membership, hmember]
      rfl
    refine ⟨false, f, hmet, fun i => ?_, ?_, ?_, fun n a hn ha hl => ?_⟩
    · rw [State.pump_slots]
      exact htrunk.entries i
    · rw [State.pump_number]
      exact htrunk.number
    · exact (((((DefnsKept.commandAndCell _ f).trans (.heedCues _ _ _)).trans (.chooseAll _ _ _ f)).trans
        (.chooseAtHeader _ f)).trans (.headerEnd _ f)).trans (.pump _)
    · have hcommanded : StreamAt n (· = a) ((w.mapHeader h).commandAndCell f) :=
        ⟨a, by rw [((w.mapHeader h).commandAndCell_takes f).1]; exact ha, rfl⟩
      rw [State.afterMap, hn]
      exact .cued hcommanded hl hdrives _ _ _ f

theorem State.missHeader_taken (ho : s.membership ≠ .offline) (arb : List Halves) (f : Frame) :
    HeaderTaken s (s.missHeader arb f).pump := by
  have hmissed := (CommandMet.missMap s arb).oweVeto
  obtain ⟨howed, -, hbid, -⟩ := (s.missMap arb).oweVeto_trunk
  have htrunk := ((SameTrunk.commandAndCell (s.missMap arb).oweVeto f).trans (.chooseUnheard _ f)).trans
    (.headerEnd _ f)
  rw [State.missHeader_eq]
  refine headerTaken_judged ho hmissed.membership htrunk.membership hmissed.side ?_ fun _ => ?_
  · simp [State.afterMiss, State.chooseUnheard]
  · refine ⟨_, f, hmissed, fun i => ?_, ?_, ?_, fun n a hn ha hl => ?_⟩
    · rw [State.pump_slots]
      exact htrunk.entries i
    · rw [State.pump_number]
      exact htrunk.number
    · exact (((DefnsKept.commandAndCell _ f).trans (.chooseUnheard _ f)).trans (.headerEnd _ f)).trans (.pump _)
    · have hcommanded : StreamAt n (· = a) ((s.missMap arb).oweVeto.commandAndCell f) :=
        ⟨a, by rw [((s.missMap arb).oweVeto.commandAndCell_takes f).1]; exact ha, rfl⟩
      have hnone : ((s.missMap arb).oweVeto.commandAndCell f).chosenBid = none := by
        have hpins := congrArg Prod.snd ((s.missMap arb).oweVeto.commandAndCell_pinsAndBid f)
        refine hpins.trans (hbid.trans ?_)
        simp [State.missMap]
      exact .uncued hcommanded hnone f

end

end Sys2Proof.Machine
end

section
/-! PROOFS. Every header takes the command (R5, R6, R21, R70, R187). -/

namespace Sys2Proof.Machine

open Sys2Proof

/-! ### Every header takes the command (R5, R6, R21, R70, R187) -/

section
variable {s t u : State} {f : Frame}

/-- Two states that agree in what the map's part of a header, the command and its answer read. -/
structure SameForCommand (s u : State) : Prop where
  membership : u.membership = s.membership
  number : u.number = s.number
  side : u.commandSide = s.commandSide
  openQueue : u.openQueue = s.openQueue
  streams : u.streams = s.streams
  slots : u.slots = s.slots

theorem HeaderTaken.of_same (h : HeaderTaken u t) (same : SameForCommand s u) : HeaderTaken s t := by
  obtain ⟨hmembership, hnumber, hside, hqueue, hstreams, hslots⟩ := same
  have hregisters := hside
  simp only [State.commandSide, Prod.mk.injEq] at hregisters
  obtain ⟨hcommand, hargument, hrejected, hresult, hstanding, hevents⟩ := hregisters
  obtain ⟨hnone, hoffline | ⟨ho, v, hv, hanswered, htakes⟩⟩ := h
  · exact ⟨hnone, .inl hoffline⟩
  · refine ⟨hnone, .inr ⟨ho, v, hv, hanswered.of_same hcommand hargument hrejected hresult hstanding
      (by rw [hevents]), fun hm => ?_⟩⟩
    obtain ⟨missed, f, hmet, hentries, hnumber', hdefns, hleft⟩ := htakes hm
    exact ⟨missed, f, hmet.of_same hmembership hnumber hside hqueue hstreams hslots, hentries, hnumber', hdefns,
      hleft⟩

theorem State.damagedHeader_taken (hr : s.membership.receives = true) (arb : List Halves) (f : Frame) :
    HeaderTaken s (s.damagedHeader arb f).pump := by
  have ho : s.membership ≠ .offline := fun h => by
    rw [h] at hr
    cases hr
  unfold State.damagedHeader
  dsimp only
  split
  · split
    · exact headerTaken_lost rfl rfl rfl rfl rfl rfl rfl
    · exact (State.missHeader_taken (s := { s.setHeader .damaged with damageCount := s.damageCount + 1 }) ho arb
        f).of_same ⟨rfl, rfl, rfl, rfl, rfl, rfl⟩
  · split
    · exact (State.missHeader_taken (s := s.setHeader .damaged) ho arb f).of_same ⟨rfl, rfl, rfl, rfl, rfl, rfl⟩
    · rename_i hj
      have hlistens : s.membership.judges ≠ true := hj
      exact headerTaken_unjudged (fun hm => hlistens (by rw [hm]; rfl)) ho rfl rfl

theorem State.intactHeader_taken (hr : s.membership.receives = true) (bits : HeaderBits) (f : Frame) :
    HeaderTaken s (s.intactHeader bits f).pump := by
  have ho : s.membership ≠ .offline := fun h => by
    rw [h] at hr
    cases hr
  unfold State.intactHeader
  dsimp only
  obtain ⟨x, hx⟩ : ∃ x, x = s.setHeader (.intact (headerFields f bits).valid) := ⟨_, rfl⟩
  have hsame : SameForCommand s x := by
    rw [hx]
    exact ⟨rfl, rfl, rfl, rfl, rfl, rfl⟩
  rw [← hx]
  split
  · exact (State.judgeHeader_taken (by rwa [hsame.membership]) bits f).of_same hsame
  · rename_i hj
    refine headerTaken_unjudged (fun hm => hj ?_) ho hsame.side hsame.membership
    rw [hsame.membership, hm]
    rfl

theorem State.takeHeader_taken (header : HeaderRx) (hr : s.membership.receives = true) (hf : s.frame = some f)
    (hh : f.header = .due) : HeaderTaken s (s.takeHeader header).pump := by
  unfold State.takeHeader
  rw [State.headerDue_eq hr hf hh]
  dsimp only
  cases header with
  | damaged arb => exact State.damagedHeader_taken hr arb f
  | intact bits =>
    dsimp only
    split
    · exact State.damagedHeader_taken hr [] f
    · exact State.intactHeader_taken hr bits f

end

end Sys2Proof.Machine
end

section
/-! PROOFS. What a MEMBER answers at a header, and what its OPEN and CLOSE do there (R131, R135, R188, R189). -/

namespace Sys2Proof.Machine

open Sys2Proof

/-! ### What a MEMBER answers (R188, R189) -/

section
variable {s t u : State} {missed : Bool} {f : Frame} {c : Command} {st : Stream}

/-- The open queue for the command: the departures of the header have left it (R34, R105). -/
theorem HeaderTakes.openQueue (h : HeaderTakes missed f s u t) (hc : s.command = some c)
    (hcode : c.code = .openStream) : u.openQueue = s.openQueue.filter fun m => (s.streams[m]).any fun x =>
      (x.report s.number s.slots t.slots).queued := by
  have hcloses : ∀ n, s.closesPending n = false := fun n => by
    rw [← Bool.not_eq_true, State.closesPending_iff]
    rintro ⟨d, hd, hclose, -⟩
    rw [hc] at hd
    cases hd
    rw [hcode] at hclose
    cases hclose
  have hqueue := h.met.queue
  rw [QueueFollows] at hqueue
  rw [hqueue]
  refine congrArg (fun p => List.filter p s.openQueue) (funext fun m => ?_)
  rw [h.met.stream, Option.any_map]
  refine congrArg (fun p => Option.any p s.streams[m]) (funext fun x => ?_)
  rw [State.streamMet, hcloses m, Stream.report_congr h.entries]
  exact Stream.queued_of_placing (Stream.missedIf_stands missed _).placing

/-- An OPEN or a CLOSE for a stream that no profile defines (R188, R189). -/
theorem HeaderTakes.judge_absent (h : HeaderTakes missed f s u t) (hm : u.membership = .member)
    (hcode : c.code ≠ .setStanding) (hn : s.streams[c.stream.toFin] = none) :
    u.judgeCommand c = .badStream ∧ t.streams[c.stream.toFin] = none := by
  have hu := h.met.absent hn
  refine ⟨?_, h.defns.absent hu⟩
  obtain ⟨code, n⟩ := c
  cases code with
  | openStream => simp only [State.judgeCommand, State.judgeOpen, hm, hu, ne_eq, not_true_eq_false, if_false]
  | closeStream => simp only [State.judgeCommand, State.judgeClose, hm, hu, ne_eq, not_true_eq_false, if_false]
  | setStanding => exact absurd rfl hcode

/-- An OPEN or a CLOSE for a defined stream (R188, R189). -/
theorem HeaderTakes.judge_present (h : HeaderTakes missed f s u t) (hm : u.membership = .member)
    (hc : s.command = some c) (hcode : c.code ≠ .setStanding) (hn : s.streams[c.stream.toFin] = some st) :
    u.judgeCommand c = if c.code = .closeStream then (if st.state = .closed then .wrongState else .done)
      else if st.state ≠ .closed then .wrongState
      else if st.isSend = true ∧ 8 ≤ (s.openQueue.filter fun m => (s.streams[m]).any fun x =>
          (x.report s.number s.slots t.slots).queued).length then .queueFull
      else .done := by
  have hu := h.met.get hn
  have hclosed := s.streamMet_closed missed u.slots c.stream.toFin st
  have hsend := Stream.isSend_congr (s.streamMet_keeps missed u.slots c.stream.toFin st).2
  have hqueue := h.openQueue hc
  obtain ⟨code, n⟩ := c
  cases code with
  | openStream =>
    rw [← hqueue rfl, if_neg nofun]
    simp only [State.judgeCommand, State.judgeOpen, hm, hu, hclosed, hsend, ne_eq, not_true_eq_false, if_false,
      Bool.and_eq_true, decide_eq_true_eq, Config.openQueueLimit]
  | closeStream =>
    simp only [State.judgeCommand, State.judgeClose, hm, hu, hclosed, ne_eq, not_true_eq_false, if_false, if_true]
  | setStanding => exact absurd rfl hcode

/-! ### What a command that is answered DONE does (R111, R121, R123, R131, R135, R136) -/

theorem State.commandAndCell_openQueue (hc : s.command = some c) (hcode : c.code ≠ .setStanding) (f : Frame) :
    (s.commandAndCell f).openQueue = s.takeCommand.openQueue := by
  have hpending : s.standingPending = false := by
    rw [State.standingPending, hc]
    exact beq_false_of_ne hcode
  rw [State.commandAndCell, hpending]
  split
  · rfl
  · rfl

/-- What is seen of a stream that the header's CLOSE has closed (R131, R132, R136, R151, R168). -/
structure ClosedByHeader (st st' : Stream) (part : Bool) : Prop where
  closeReason : st'.closeReason = .host
  state : st'.state = if st.isSend = true ∧ part = true then .closing else .closed
  event : st.event = true ∨ st.isSend = true ∧ st'.state = .closed → st'.event = true
  ring : RingClosed st st'

/-- A missed cue leaves the ring of a stream (R66). -/
theorem Stream.missedIf_ring {x : Stream} (missed : Bool) (st : Stream) (h : RingClosed (st.missedIf missed) x) :
    RingClosed st x := by
  have hsame : ∃ cueMiss mark event, st.missedIf missed
      = { st with cueMiss := cueMiss, cueMissMark := mark, event := event } := by
    unfold Stream.missedIf Stream.missCue
    repeat' split
    all_goals exact ⟨_, _, _, rfl⟩
  obtain ⟨_, _, _, hsame⟩ := hsame
  rw [hsame] at h
  exact h

/-- A CLOSE answered DONE ends an open stream (R131, R136, R189). -/
theorem HeaderTakes.closes (h : HeaderTakes missed f s u t) (hm : u.membership = .member)
    (hc : s.command = some c) (hcode : c.code = .closeStream) (hn : s.streams[c.stream.toFin] = some st)
    (ho : st.isOpen = true) : c.stream.toFin ∉ t.openQueue
      ∧ StreamAt c.stream.toFin (fun x => x.defn = st.defn
          ∧ ClosedByHeader st x (t.streamHasPart c.stream.toFin st)) t := by
  obtain ⟨code, m⟩ := c
  obtain rfl : code = .closeStream := hcode
  have hpending : u.command = some ⟨.closeStream, m⟩ := (congrArg Prod.fst h.met.side).trans hc
  obtain ⟨y, hy⟩ : ∃ y, y = s.streamMet missed u.slots m.toFin st := ⟨_, rfl⟩
  have hget : u.streams[m.toFin] = some y := (h.met.get hn).trans (by rw [hy])
  obtain ⟨hopen, hdefn⟩ := s.streamMet_keeps missed u.slots m.toFin st
  rw [← hy] at hopen hdefn
  have hyo : y.isOpen = true := hopen.trans ho
  have hne := Stream.state_ne_closed hyo
  have hdone : u.judgeClose m.toFin = .done := (u.judgeClose_done_iff _).2 ⟨hm, y, hget, hne⟩
  have hcommanded : u.commandedStream = some m.toFin :=
    State.commandedStream_iff.2 ⟨_, hpending, nofun, rfl, hdone⟩
  have hsdone : s.judgeClose m.toFin = .done := (s.judgeClose_done_iff _).2
    ⟨h.met.membership.symm.trans hm, st, hn, Stream.state_ne_closed ho⟩
  have hcloses : s.closesPending m.toFin = true := (s.closesPending_iff _).2 ⟨_, hc, rfl, rfl, hsdone⟩
  have hmissed : y = st.missedIf missed := by rw [hy, State.streamMet, if_pos hcloses]
  obtain ⟨part, hpart⟩ : ∃ part, part = u.streamHasPart m.toFin y := ⟨_, rfl⟩
  have htaken := State.takeCommand_close hm hpending hget hne
  have ha : u.takeCommand.streams[m.toFin] = some (y.close .host part) := by
    rw [htaken, hpart]
    refine (State.closeOne_stream u .host m.toFin m.toFin).trans ?_
    rw [if_pos rfl, hget]
    rfl
  obtain ⟨-, hlatched, -⟩ := Stream.close_clears hyo .host part
  have hnot : m.toFin ∉ (u.commandAndCell f).openQueue := by
    rw [State.commandAndCell_openQueue hpending nofun, htaken]
    exact State.closeOne_queue u .host m.toFin
  obtain ⟨⟨x, hx, hleaves⟩, hqueue, hbid, hdriven⟩ := h.left _ _ hcommanded ha hlatched
  have hsame : t.streamHasPart m.toFin (y.close .host part) = t.streamHasPart m.toFin st :=
    State.streamHasPart_congr _ ((Stream.close_defn .host part y).trans hdefn) rfl rfl rfl rfl
  have hshrinks : t.streamHasPart m.toFin st = true → part = true := fun hp => by
    rw [State.streamHasPart_iff, hdriven] at hp
    rcases hp with ⟨i, hi⟩ | ⟨b, hb, hbn⟩ | ⟨b, hb, -⟩
    · rw [h.entries, h.number, ← hdefn] at hi
      rw [hpart]
      exact (State.streamHasPart_iff _ _ _).2 (.inl ⟨i, hi⟩)
    · exact absurd hbn (hbid (Stream.close_isOpen .host part y) hnot b hb)
    · cases hb
  rw [hsame] at hleaves
  obtain ⟨hdefn', hreason, hstate, hevent, hring⟩ := hleaves.closed hyo hshrinks
  rw [Stream.isSend_congr hdefn] at hstate hevent
  have htold : st.event = true → y.event = true := by
    rw [hmissed]
    exact (Stream.missedIf_stands missed st).event
  rw [hmissed] at hring
  exact ⟨fun ht => hnot (hqueue.leaves ht), x, hx, hdefn'.trans hdefn, hreason, hstate,
    fun he => hevent (he.imp_left htold), Stream.missedIf_ring missed st hring⟩

/-- What is seen of a stream that the header's OPEN has opened (R111, R121, R123, R135). -/
structure OpenedByHeader (k : Station) (slots : Vector Slot 24) (st st' : Stream) : Prop where
  record : OpenedRecord st st'
  clashed : st'.isOpen = false → st'.closeReason = .labelClash ∧ st'.event = true
  standing : st'.isOpen = true → st'.closeReason = .none ∧ st'.fetchPos = st.ringIndex
    ∧ st'.awaiting = st.defn.cue.isSome ∧ st'.state = (st.opened k slots).state
    ∧ st'.everFull = (st.opened k slots).everFull

/-- An OPEN answered DONE is for a CLOSED stream, and opens it; one that sends joins the queue (R104, R188). -/
theorem HeaderTakes.opens (h : HeaderTakes missed f s u t) (hc : s.command = some c)
    (hcode : c.code = .openStream) (hdone : u.judgeCommand c = .done)
    (hn : s.streams[c.stream.toFin] = some st) : StreamAt c.stream.toFin (fun x =>
      OpenedByHeader s.number t.slots st x
        ∧ (st.isSend = true → x.queued = true → c.stream.toFin ∈ t.openQueue)) t := by
  have hpending : u.command = some c := (congrArg Prod.fst h.met.side).trans hc
  have hcommanded : u.commandedStream = some c.stream.toFin :=
    State.commandedStream_iff.2 ⟨c, hpending, by rw [hcode]; decide, rfl, hdone⟩
  have hclosed : st.state = .closed := by
    have hopens : u.judgeOpen c.stream.toFin = .done := by rwa [State.judgeCommand, hcode] at hdone
    obtain ⟨y, hy, hyc⟩ := State.judgeOpen_done hopens
    rw [h.met.get hn] at hy
    cases hy
    exact (s.streamMet_closed _ _ _ st).1 hyc
  have hget : u.streams[c.stream.toFin] = some st := by
    rw [h.met.get hn, State.streamMet_of_not_open (Stream.isOpen_of_closed hclosed)]
  have ha := State.takeCommand_opens hpending hcode hdone hget
  have hlatched : (st.opened u.number u.slots).latched = false := by
    rw [Stream.opened_eq]
    rfl
  have hjoins : st.isSend = true → c.stream.toFin ∈ (u.commandAndCell f).openQueue := fun hs => by
    have hperform : u.performCommand c = u.openOne c.stream.toFin st := by
      simp only [State.performCommand, hcode, hget]
    have hqueue : u.takeCommand.openQueue = (u.openOne c.stream.toFin st).openQueue := by
      rw [State.takeCommand, hpending]
      dsimp only
      rw [State.takeThis, hdone, if_pos rfl, hperform, State.raise_openQueue]
    rw [State.commandAndCell_openQueue hpending (by rw [hcode]; decide), hqueue, State.openOne, if_pos hs]
    exact List.mem_append_right _ List.mem_cons_self
  obtain ⟨⟨x, hx, hleaves⟩, hqueue, -, -⟩ := h.left _ _ hcommanded ha hlatched
  rw [h.met.number, ← Stream.opened_congr h.entries] at hleaves
  obtain ⟨hrecord, hclash, hstands⟩ := hleaves.opened
  exact ⟨x, hx, ⟨hrecord, hclash, hstands⟩, fun hs hq => hqueue.stays (hjoins hs) (by rw [hx]; exact hq)⟩

end

end Sys2Proof.Machine
end

section
/-! PROOFS. Every header takes the pending command (R187 to R190). -/

namespace Sys2Proof.Machine

open Sys2Proof

section
variable {s t u : State} {missed : Bool} {f : Frame} {c : Command} {st : Stream}

/-- A command that is taken in MEMBER leaves every stream its definition (R120). -/
theorem HeaderTakes.defined (h : HeaderTakes missed f s u t) {n : Fin 16} (hn : s.streams[n] = some st) :
    StreamAt n (fun x => x.defn = st.defn) t :=
  (h.defns.get (h.met.get hn)).imp fun _ hx => hx.trans (s.streamMet_keeps missed u.slots n st).2

/-- What a command answered DONE in MEMBER has done to its stream: an OPEN has opened it, a CLOSE closed it if it was
open (R121, R123, R131, R135, R136). -/
theorem HeaderTakes.done (h : HeaderTakes missed f s u t) (hm : u.membership = .member)
    (hc : s.command = some c) (hdone : u.judgeCommand c = .done) (hn : s.streams[c.stream.toFin] = some st) :
    StreamAt c.stream.toFin (fun x => x.defn = st.defn
      ∧ (c.code = .closeStream → st.isOpen = true →
          ClosedByHeader st x (t.streamHasPart c.stream.toFin st) ∧ c.stream.toFin ∉ t.openQueue)
      ∧ (c.code = .openStream → OpenedByHeader s.number t.slots st x
          ∧ (st.isSend = true → x.queued = true → c.stream.toFin ∈ t.openQueue))) t := by
  cases hcode : c.code with
  | setStanding => exact (h.defined hn).imp fun x hx => ⟨hx, nofun, nofun⟩
  | openStream =>
    exact (h.opens hc hcode hdone hn).imp fun x hx => ⟨hx.1.record.defn, nofun, fun _ => hx⟩
  | closeStream =>
    by_cases ho : st.isOpen = true
    · obtain ⟨hqueue, hclosed⟩ := h.closes hm hc hcode hn ho
      exact hclosed.imp fun x hx => ⟨hx.1, fun _ _ => ⟨hx.2, hqueue⟩, nofun⟩
    · exact (h.defined hn).imp fun x hx => ⟨hx, fun _ hopen => absurd hopen ho, nofun⟩

end

/-- Settles O25: every header takes the command (`takeHeader_taken`), a MEMBER answers it by `judge_absent` and
`judge_present` and does what `HeaderTakes.done` says, and entry to REFUSED takes it (`exec_refusal_takes`). -/
theorem headerTakesTheCommand : Obligations.HeaderTakesTheCommand := by
  refine ⟨fun header s f hr hf hh => ?_, fun i s t c hi ht hm hrefused hc => ?_⟩
  · obtain ⟨hnone, htaken⟩ := State.takeHeader_taken header hr hf hh
    refine ⟨_, exec_header header s, hnone, ?_⟩
    generalize (s.takeHeader header).pump = t at htaken ⊢
    rcases htaken with ⟨hoffline, hresult, hrejected, hstanding⟩ | ⟨hstays, u, hu, hanswered, htakes⟩
    · exact ⟨fun _ => ⟨hresult, hrejected, hstanding⟩, fun hstays => absurd hoffline hstays⟩
    have huo : u.membership ≠ .offline := by rwa [hu]
    refine ⟨fun hoffline => absurd hoffline hstays, fun _ => ⟨hanswered.rejected, hanswered.quiet, fun c hc =>
      ⟨hanswered.event c hc, hanswered.standing c hc, fun hcode => ?_, fun hcode hm => ?_, fun hcode hm => ?_,
        fun hm hdone st hst => ?_⟩⟩⟩
    · rw [hanswered.result c hc, State.judgeCommand_standing huo hcode]
    · rw [hanswered.result c hc, State.judgeCommand_of_not_member (by rwa [hu]) hcode]
    · obtain ⟨missed, f, h⟩ := htakes hm
      rw [hanswered.result c hc]
      cases hst : s.streams[c.stream.toFin] with
      | none => exact h.judge_absent (hu.trans hm) hcode hst
      | some st => exact h.judge_present (hu.trans hm) hc hcode hst
    · obtain ⟨missed, f, h⟩ := htakes hm
      obtain ⟨x, hx, hdefn, hcloses, hopens⟩ :=
        h.done (hu.trans hm) hc ((hanswered.result c hc).symm.trans hdone) hst
      refine ⟨x, hx, hdefn, fun hcode ho => ?_, fun hcode => ?_⟩
      · obtain ⟨⟨hreason, hstate, hevent, hring⟩, hqueue⟩ := hcloses hcode ho
        exact ⟨hreason, hstate, hevent, hring, hqueue⟩
      · obtain ⟨⟨hrecord, hclash, hstands⟩, hqueue⟩ := hopens hcode
        refine ⟨hrecord.ringIndex, hrecord.nextSeq, hrecord.cueMiss, hrecord.overrunSeen, hrecord.writeBack,
          hrecord.writeQueue, hrecord.staging, hrecord.current, hclash, fun ho => ?_⟩
        obtain ⟨hreason, hfetch, hawaiting, hstate, -⟩ := hstands ho
        refine ⟨hreason, hawaiting, hfetch, fun hs hfull => hqueue hs ?_, fun hs => ?_, fun hs hw => ?_⟩
        · have hsend : x.isSend = true := (Stream.isSend_congr hdefn).trans hs
          have hopen : x.state.openSend = true := by rwa [Stream.isOpen, if_pos hsend] at ho
          rw [Stream.queued, hsend, hopen, hfull]
          rfl
        · rw [hstate, hawaiting, Stream.opened_listen hs]
        · rw [hstate, hawaiting, Stream.opened_send hs hw]
  · obtain ⟨hnone, hevent, hresult, hstanding⟩ := exec_refusal_takes hi ht hm hrefused hc
    exact ⟨hnone, hevent, hresult, hstanding⟩

end Sys2Proof.Machine
end
